-- ==== Sys2Proof/Word.lean ====
section
/-! DEFINITION. The words of the machine (00_scope R6) and the plain tables the state is made of. -/

namespace Sys2Proof

/-- 8 bits (R6). -/
abbrev Byte := BitVec 8
/-- 32 bits (R6): an instruction word. -/
abbrev Word := BitVec 32
/-- 64 bits (R6): a scalar register, a command dword. -/
abbrev Dword := BitVec 64
/-- A register field of an instruction word (R78). -/
abbrev R6 := BitVec 6
/-- A virtual address, 56 bits (R1, R233). -/
abbrev VAddr := BitVec 56

/-- A sparse table: pairs of a key and its value, keys rising. A key not listed holds a default that the reader names. -/
abbrev Tab (α : Type) := List (Nat × α)

end Sys2Proof
end

