-- ==== Sys2Proof/Machine/Bits.lean ====
section
/-! DEFINITION. Bit fields, sign extension and byte order (00_scope R6): the helpers every other file reads words with. -/

namespace Sys2Proof.Machine

/-- Bits [hi:lo] of a word held as a number. -/
def fld (w hi lo : Nat) : Nat := w / 2 ^ lo % 2 ^ (hi + 1 - lo)

/-- Bit i of a word held as a number. -/
def bitOf (w i : Nat) : Bool := w / 2 ^ i % 2 == 1

/-- `w` with bits [hi:lo] replaced by the low bits of `v`. -/
def setFld (w hi lo v : Nat) : Nat :=
  w / 2 ^ (hi + 1) * 2 ^ (hi + 1) + v % 2 ^ (hi + 1 - lo) * 2 ^ lo + w % 2 ^ lo

/-- The value of an n-bit pattern as two's complement (R55). -/
def sx (n : Nat) (v : Nat) : Int :=
  if v % 2 ^ n < 2 ^ (n - 1) then (v % 2 ^ n : Nat) else (v % 2 ^ n : Nat) - (2 ^ n : Nat)

/-- An integer reduced modulo 2^n (wrap, R55), as its bit pattern. -/
def wrapBits (n : Nat) (x : Int) : Nat := (x % (2 ^ n : Nat)).toNat

/-- The low n bytes of a number, least significant first (R6). -/
def leBytes : Nat → Nat → List Byte
  | 0, _ => []
  | n + 1, v => BitVec.ofNat 8 v :: leBytes n (v / 256)

/-- The number whose bytes, least significant first, are given (R6). -/
def ofLe : List Byte → Nat
  | [] => 0
  | b :: bs => b.toNat + 256 * ofLe bs

/-- 1 for true, 0 for false. -/
def b2n (b : Bool) : Nat := if b then 1 else 0

/-- The number of one bits among the low n bits. -/
def popBits : Nat → Nat → Nat
  | 0, _ => 0
  | n + 1, v => v % 2 + popBits n (v / 2)

/-- The number of trailing zero bits among the low n bits; n when there are none set (R55). -/
def ctzBits : Nat → Nat → Nat
  | 0, _ => 0
  | n + 1, v => if v % 2 = 1 then 0 else ctzBits n (v / 2) + 1

/-- The number of leading zero bits of an n-bit pattern; n for zero (R55). -/
def clzBits (n v : Nat) : Nat := if v % 2 ^ n = 0 then n else n - 1 - Nat.log2 (v % 2 ^ n)

/-- ceil(a / b). -/
def ceilDiv (a b : Nat) : Nat := (a + b - 1) / b

/-- The numbers from lo, n of them, rising. -/
def rangeFrom (lo n : Nat) : List Nat := (List.range n).map (lo + ·)

/-- The first element of a list that satisfies p, with its position. -/
def findIdx {α : Type} (p : α → Bool) : List α → Nat → Option (Nat × α)
  | [], _ => none
  | x :: xs, i => if p x then some (i, x) else findIdx p xs (i + 1)

/-- Insertion of x before the first element that it precedes. -/
def insertBy {α : Type} (lt : α → α → Bool) (x : α) : List α → List α
  | [] => [x]
  | y :: ys => if lt x y then x :: y :: ys else y :: insertBy lt x ys

/-- A list in the order of lt; equal elements keep their order. -/
def sortBy {α : Type} (lt : α → α → Bool) (xs : List α) : List α :=
  xs.foldl (fun acc x => insertBy lt x acc) []

end Sys2Proof.Machine
end

