-- ==== Sys2Proof/Syntax.lean ====
section
/-! DEFINITION. The instructions: one constructor per row of spec/opcode_table.json, in the table's order. The table lists the
Fyel-1 instructions, the lane-function instructions, the engine commands and the device's own steps (events). -/

namespace Sys2Proof

/-- The fields of the modifier word (R80). -/
structure Mods where
  ord : BitVec 2
  v : Bool
  ty : R6
  scope : BitVec 4
  sat : Bool
  rnd : BitVec 3
  pneg : Bool
  psel : R6
  pmode : BitVec 2
  c : R6
  deriving DecidableEq, Repr

/-- The modifier word whose fields are all 0. -/
def Mods.zero : Mods := { ord := 0, v := false, ty := 0, scope := 0, sat := false, rnd := 0, pneg := false, psel := 0, pmode := 0, c := 0 }

/-- The length of an instruction and the words after word 0 (R77, R80, R82). -/
inductive Form where
  | w32
  | w64 (m : Mods)
  | w96 (m : Mods) (lit : Word)
  deriving DecidableEq, Repr

/-- The operations of a PCIe AtomicOp (R256). -/
inductive AtomicOp where
  | fetchAdd
  | swap
  | cas
  deriving DecidableEq, Repr

/-- Where an uncorrectable error strikes (R317, R319). The sites of global memory name the sector by its physical address: three in this
device, and one beyond it, in the host's memory or another device's, whose poison arrives with the data; the block's stores name the
block and the byte (lane store: 1,024 × lane + byte). -/
inductive ErrSite where
  | hbm (pa : Nat)
  | l2 (pa : Nat)
  | l1 (core pa : Nat)
  | beyond (pa : Nat)
  | sharedStore (blk off : Nat)
  | accStore (blk off : Nat)
  | laneStore (blk off : Nat)
  | cacheEntry (core : Nat)
  | cleat (blk : Nat)
  | blockState (blk : Nat)
  | deviceState
  deriving DecidableEq, Repr

/-- What a cold reset meets (R381 to R384): the firmware images read from the store; the writes of the world registers by which secure firmware
sets the worlds, none where it fails; the zones whose LEAKDET reads 1 before step 5, and FLOW, DRYDET and LEAKDET of every zone as each group's
check ends; the sennit modules that do not train at 64 lanes with their HALF; the hawser links that train, with the device and the link at their
far end; and whether the host port trains. -/
structure BringUp where
  vaux : Bool
  images : List (List Byte)
  world : Option (List (Nat × Dword))
  leakZones : List Nat
  checks : List (List (BitVec 9 × Bool × Bool))
  railsOk : Bool
  modules : List (Nat × Nat)
  links : List (Nat × Nat × Nat)
  hostTrains : Bool
  deriving DecidableEq, Repr

/-- What an SPDM request asks for (R388): a measurement by its index, bytes of the certificate chain of a slot, or anything else of SPDM 1.4. -/
inductive SpdmAsk where
  | measurement (index : Nat)
  | certificate (slot off n : Nat)
  | other (bs : List Byte)
  deriving DecidableEq, Repr

/-- An SPDM request, through the host port or the side band (R388). -/
structure SpdmReq where
  host : Bool
  ask : SpdmAsk
  deriving DecidableEq, Repr

/-- One constructor per row of the opcode table. -/
inductive Instr where
  /-- ADD: 0x01, R110 -/
  | add (f : Form) (d a b : R6)
  /-- SUB: 0x01, R110 -/
  | sub (f : Form) (d a b : R6)
  /-- MUL: 0x01, R110 -/
  | mul (f : Form) (d a b : R6)
  /-- MULH: 0x01, R110 -/
  | mulh (f : Form) (d a b : R6)
  /-- MULHN: 0x01, R110 -/
  | mulhn (f : Form) (d a b : R6)
  /-- DIV: 0x01, R110 -/
  | div (f : Form) (d a b : R6)
  /-- DIVN: 0x01, R110 -/
  | divn (f : Form) (d a b : R6)
  /-- REM: 0x01, R110 -/
  | rem (f : Form) (d a b : R6)
  /-- REMN: 0x01, R110 -/
  | remn (f : Form) (d a b : R6)
  /-- AND: 0x01, R110 -/
  | and_ (f : Form) (d a b : R6)
  /-- OR: 0x01, R110 -/
  | or_ (f : Form) (d a b : R6)
  /-- XOR: 0x01, R110 -/
  | xor_ (f : Form) (d a b : R6)
  /-- ANDN: 0x01, R110 -/
  | andn (f : Form) (d a b : R6)
  /-- SHL: 0x01, R110 -/
  | shl (f : Form) (d a b : R6)
  /-- SHR: 0x01, R110 -/
  | shr (f : Form) (d a b : R6)
  /-- SRA: 0x01, R110 -/
  | sra (f : Form) (d a b : R6)
  /-- ROTR: 0x01, R110 -/
  | rotr (f : Form) (d a b : R6)
  /-- MIN: 0x01, R110 -/
  | min_ (f : Form) (d a b : R6)
  /-- MAX: 0x01, R110 -/
  | max_ (f : Form) (d a b : R6)
  /-- MINN: 0x01, R110 -/
  | minn (f : Form) (d a b : R6)
  /-- MAXN: 0x01, R110 -/
  | maxn (f : Form) (d a b : R6)
  /-- ADD_WITH_IMMEDIATE: 0x02-0x05, R112 -/
  | addI (f : Form) (imm : BitVec 12) (d a : R6)
  /-- AND_WITH_IMMEDIATE: 0x02-0x05, R112 -/
  | andI (f : Form) (imm : BitVec 12) (d a : R6)
  /-- OR_WITH_IMMEDIATE: 0x02-0x05, R112 -/
  | orI (f : Form) (imm : BitVec 12) (d a : R6)
  /-- XOR_WITH_IMMEDIATE: 0x02-0x05, R112 -/
  | xorI (f : Form) (imm : BitVec 12) (d a : R6)
  /-- SHL_BY_IMMEDIATE: 0x06, R112 -/
  | shlI (f : Form) (n : R6) (d a : R6)
  /-- SHR_BY_IMMEDIATE: 0x06, R112 -/
  | shrI (f : Form) (n : R6) (d a : R6)
  /-- SRA_BY_IMMEDIATE: 0x06, R112 -/
  | sraI (f : Form) (n : R6) (d a : R6)
  /-- ROTR_BY_IMMEDIATE: 0x06, R112 -/
  | rotrI (f : Form) (n : R6) (d a : R6)
  /-- CLZ: 0x07, R113 -/
  | clz (f : Form) (d a : R6)
  /-- CTZ: 0x07, R113 -/
  | ctz (f : Form) (d a : R6)
  /-- POPC: 0x07, R113 -/
  | popc (f : Form) (d a : R6)
  /-- SEXT: 0x07, R113; b is the source width -/
  | sext (f : Form) (d a b : R6)
  /-- ZEXT: 0x07, R113; b is the source width -/
  | zext (f : Form) (d a b : R6)
  /-- MOV: 0x07, R113 -/
  | mov (f : Form) (d a : R6)
  /-- CMP: 0x08, R114 -/
  | cmp (f : Form) (cc : R6) (d a b : R6)
  /-- SEL: 0x09, R114 -/
  | sel (f : Form) (n : Bool) (k : BitVec 3) (d a b : R6)
  /-- LI: 0x0A, R115 -/
  | li (f : Form) (h : R6) (d : R6)
  /-- FADD: 0x0B, R117 -/
  | fadd (f : Form) (p : Bool) (d a b : R6)
  /-- FSUB: 0x0B, R117 -/
  | fsub (f : Form) (p : Bool) (d a b : R6)
  /-- FMUL: 0x0B, R117 -/
  | fmul (f : Form) (p : Bool) (d a b : R6)
  /-- FDIV: 0x0B, R117 -/
  | fdiv (f : Form) (p : Bool) (d a b : R6)
  /-- FMIN: 0x0B, R117 -/
  | fmin (f : Form) (p : Bool) (d a b : R6)
  /-- FMAX: 0x0B, R117 -/
  | fmax (f : Form) (p : Bool) (d a b : R6)
  /-- FCMP: 0x0C, R118 -/
  | fcmp (f : Form) (p : Bool) (cc : BitVec 3) (d a b : R6)
  /-- FCVT: 0x0D, R119 -/
  | fcvt (f : Form) (dt st : R6) (d a : R6)
  /-- FCLASS: 0x0E, R120 -/
  | fclass (f : Form) (p : Bool) (d a : R6)
  /-- BR: 0x10, R121 -/
  | br (f : Form) (off : BitVec 18) (n : Bool) (k : BitVec 3)
  /-- BRZ: 0x11, R121 -/
  | brz (f : Form) (off : BitVec 18) (a : R6)
  /-- BNZ: 0x12, R121 -/
  | bnz (f : Form) (off : BitVec 18) (a : R6)
  /-- JMP: 0x13, R122 -/
  | jmp (f : Form) (off : BitVec 24)
  /-- CALL: 0x14, R122 -/
  | call (f : Form) (off : BitVec 24)
  /-- JR: 0x15 F 0, R122 -/
  | jr (f : Form) (d a : R6)
  /-- RET: 0x15 F 1, R122 -/
  | ret (f : Form)
  /-- LOOPN: 0x16, R124 -/
  | loopn (cnt : BitVec 13) (len : BitVec 5) (a : R6)
  /-- ENDLP: 0x17 F 0, R125 -/
  | endlp
  /-- BRKL: 0x17 F 1, R126 -/
  | brkl (n : Bool) (k : BitVec 3)
  /-- LD: 0x18, R129, R130 -/
  | ld (f : Form) (imm : BitVec 9) (sz : BitVec 3) (d a : R6)
  /-- ST: 0x19, R129, R130 -/
  | st (f : Form) (imm : BitVec 9) (sz : BitVec 3) (d a : R6)
  /-- LDS: 0x1A, R129, R131 -/
  | lds (f : Form) (imm : BitVec 9) (sz : BitVec 3) (d a : R6)
  /-- STS: 0x1B, R129, R131 -/
  | sts (f : Form) (imm : BitVec 9) (sz : BitVec 3) (d a : R6)
  /-- AMO_ADD: 0x1C, R132 -/
  | amoAdd (f : Form) (w : Bool) (d a b : R6)
  /-- AMO_AND: 0x1C, R132 -/
  | amoAnd (f : Form) (w : Bool) (d a b : R6)
  /-- AMO_OR: 0x1C, R132 -/
  | amoOr (f : Form) (w : Bool) (d a b : R6)
  /-- AMO_XOR: 0x1C, R132 -/
  | amoXor (f : Form) (w : Bool) (d a b : R6)
  /-- AMO_MIN: 0x1C, R132 -/
  | amoMin (f : Form) (w : Bool) (d a b : R6)
  /-- AMO_MAX: 0x1C, R132 -/
  | amoMax (f : Form) (w : Bool) (d a b : R6)
  /-- AMO_MINN: 0x1C, R132 -/
  | amoMinn (f : Form) (w : Bool) (d a b : R6)
  /-- AMO_MAXN: 0x1C, R132 -/
  | amoMaxn (f : Form) (w : Bool) (d a b : R6)
  /-- AMO_SWAP: 0x1C, R132 -/
  | amoSwap (f : Form) (w : Bool) (d a b : R6)
  /-- CAS: 0x1C F 9, R133; c in the modifier word -/
  | cas (f : Form) (w : Bool) (d a b : R6)
  /-- FENCE_CT: 0x1D, R135 -/
  | fenceCt (f : Form) (sc : BitVec 4)
  /-- FENCE_TC: 0x1D, R135 -/
  | fenceTc (f : Form) (sc : BitVec 4)
  /-- FENCE_TT: 0x1D, R135 -/
  | fenceTt (f : Form) (sc : BitVec 4)
  /-- FENCE_ALL: 0x1D, R135 -/
  | fenceAll (f : Form) (sc : BitVec 4)
  /-- TDRAIN: 0x1D F 4, R136 -/
  | tdrain (f : Form)
  /-- BAR: 0x1D F 5, R137 -/
  | bar (f : Form) (sc : BitVec 4) (a : R6)
  /-- WAITA_EQ: 0x1D, R140 -/
  | waitaEq (f : Form) (d a b : R6)
  /-- WAITA_NE: 0x1D, R140 -/
  | waitaNe (f : Form) (d a b : R6)
  /-- WAITA_GEN: 0x1D, R140 -/
  | waitaGen (f : Form) (d a b : R6)
  /-- SLPT: 0x1D F 9, R141 -/
  | slpt (f : Form) (a : R6)
  /-- RDTIME: 0x1E F 0, R143 -/
  | rdtime (f : Form) (d : R6)
  /-- YIELD: 0x1E F 1, R144 -/
  | yield_ (f : Form)
  /-- EXIT: 0x1E F 2, R145 -/
  | exit (f : Form)
  /-- NOP: 0x1E F 3, R144 -/
  | nop (f : Form)
  /-- RDSR: 0x1E F 4, R146 -/
  | rdsr (f : Form) (b d : R6)
  /-- WRSR: 0x1E F 5, R147 -/
  | wrsr (f : Form) (b a : R6)
  /-- ERET: 0x1E F 6, R148 -/
  | eret (f : Form)
  /-- TRAP: 0x1E F 7, R149 -/
  | trap (f : Form) (imm : BitVec 12)
  /-- BBX: 0x1E F 8, R150 -/
  | bbx (f : Form) (imm : BitVec 12)
  /-- QCFG: 0x1F F 0, R151 -/
  | qcfg (f : Form) (b a : R6)
  /-- QTRY: 0x1F F 1, R152 -/
  | qtry (f : Form) (b d : R6)
  /-- LAUNCH: 0x1F F 2, R153 -/
  | launch (f : Form) (d a b : R6)
  /-- HEATQ: 0x1F F 3, R154 -/
  | heatq (f : Form) (d a b : R6)
  /-- TSHAPE: 0x20 F 0, R167 -/
  | tshape (f : Form) (d a b : R6)
  /-- TBIND: 0x20 F 1, R167 -/
  | tbind (f : Form) (d a : R6)
  /-- TBOUND: 0x20 F 2, R167 -/
  | tbound (f : Form) (p : BitVec 2) (d a : R6)
  /-- TMON: 0x20 F 3, R167 -/
  | tmon (f : Form) (d a : R6)
  /-- TVERD: 0x20 F 4, R167 -/
  | tverd (f : Form) (d a b : R6)
  /-- TFREE: 0x20 F 5, R167 -/
  | tfree (f : Form) (d : R6)
  /-- TRDSH: 0x20 F 6, R169 -/
  | trdsh (f : Form) (d a b : R6)
  /-- TLD: 0x21, R171 -/
  | tld (f : Form) (imm : BitVec 8) (op : BitVec 4) (d a : R6)
  /-- TST: 0x22, R172 -/
  | tst (f : Form) (imm : BitVec 8) (op : BitVec 4) (d a : R6)
  /-- TSTR: 0x23, R173 -/
  | tstr (f : Form) (imm : BitVec 8) (op : BitVec 4) (d a : R6)
  /-- TLDG: 0x24, R176 -/
  | tldg (f : Form) (d a b : R6)
  /-- TSTG: 0x25, R176 -/
  | tstg (f : Form) (d a b : R6)
  /-- TCOPY: 0x26 F 0, R178 -/
  | tcopy (f : Form) (d a : R6)
  /-- TFILL: 0x26 F 1, R178 -/
  | tfill (f : Form) (d a : R6)
  /-- TIOTA: 0x26 F 2, R178 -/
  | tiota (f : Form) (d a b : R6)
  /-- TTRANS: 0x26 F 3, R178 -/
  | ttrans (f : Form) (d a : R6)
  /-- TCVT: 0x26 F 4, R181 -/
  | tcvt (f : Form) (d a : R6)
  /-- TBFLY: 0x26 F 5, R183 -/
  | tbfly (f : Form) (ch : Bool) (h : BitVec 3) (d a : R6)
  /-- TCMPR: 0x26 F 6, R185 -/
  | tcmpr (f : Form) (d a b : R6)
  /-- TEXPD: 0x26 F 7, R186 -/
  | texpd (f : Form) (d a b : R6)
  /-- TBCAST: 0x26 F 8, R178 -/
  | tbcast (f : Form) (r : Bool) (d a : R6)
  /-- TSEND: 0x27 F 0, R179 -/
  | tsend (f : Form) (d a : R6)
  /-- TRECV: 0x27 F 1, R179 -/
  | trecv (f : Form) (d a : R6)
  /-- TLDL: 0x27 F 2, R180 -/
  | tldl (f : Form) (b a : R6)
  /-- TSTL: 0x27 F 3, R180 -/
  | tstl (f : Form) (b d : R6)
  /-- TADD: 0x30, R187 -/
  | tadd (f : Form) (d a b : R6)
  /-- TSUB: 0x30, R187 -/
  | tsub (f : Form) (d a b : R6)
  /-- TMUL: 0x30, R187 -/
  | tmul (f : Form) (d a b : R6)
  /-- TDIV: 0x30, R187 -/
  | tdiv (f : Form) (d a b : R6)
  /-- TMIN: 0x30, R187 -/
  | tmin (f : Form) (d a b : R6)
  /-- TMAX: 0x30, R187 -/
  | tmax (f : Form) (d a b : R6)
  /-- TSCALE: 0x30, R187 -/
  | tscale (f : Form) (d a b : R6)
  /-- TFMA: 0x31, R187; c in the modifier word -/
  | tfma (f : Form) (d a b : R6)
  /-- TCLAMP: 0x31, R187; c in the modifier word -/
  | tclamp (f : Form) (d a b : R6)
  /-- TSEL: 0x31, R187; c in the modifier word -/
  | tsel (f : Form) (d a b : R6)
  /-- TSQRT: 0x32, R187 -/
  | tsqrt (f : Form) (d a : R6)
  /-- TRSQ: 0x32, R187 -/
  | trsq (f : Form) (d a : R6)
  /-- TRCP: 0x32, R187 -/
  | trcp (f : Form) (d a : R6)
  /-- TEXP2: 0x32, R187 -/
  | texp2 (f : Form) (d a : R6)
  /-- TLOG2: 0x32, R187 -/
  | tlog2 (f : Form) (d a : R6)
  /-- TABS: 0x32, R187 -/
  | tabs (f : Form) (d a : R6)
  /-- TNEG: 0x32, R187 -/
  | tneg (f : Form) (d a : R6)
  /-- TCMP: 0x33, R189 -/
  | tcmp (f : Form) (cc : R6) (d a b : R6)
  /-- TAND: 0x34, R187 -/
  | tand (f : Form) (d a b : R6)
  /-- TOR: 0x34, R187 -/
  | tor (f : Form) (d a b : R6)
  /-- TXOR: 0x34, R187 -/
  | txor (f : Form) (d a b : R6)
  /-- TNOT: 0x34 F 3, R187 -/
  | tnot (f : Form) (d a : R6)
  /-- TSHL: 0x34, R190 -/
  | tshl (f : Form) (d a b : R6)
  /-- TSHR: 0x34, R190 -/
  | tshr (f : Form) (d a b : R6)
  /-- TSRA: 0x34, R190 -/
  | tsra (f : Form) (d a b : R6)
  /-- TCLZ: 0x34, R187 -/
  | tclz (f : Form) (d a : R6)
  /-- TCTZ: 0x34, R187 -/
  | tctz (f : Form) (d a : R6)
  /-- TPOPC: 0x34, R187 -/
  | tpopc (f : Form) (d a : R6)
  /-- TRED: 0x35, R194 -/
  | tred (f : Form) (r : BitVec 2) (o : BitVec 3) (d a b : R6)
  /-- TSCAN: 0x36, R196 -/
  | tscan (f : Form) (r : BitVec 2) (o : BitVec 3) (d a : R6)
  /-- TARGMX: 0x37, R197 -/
  | targmx (f : Form) (r : BitVec 2) (d a : R6)
  /-- TCHKF: 0x38, R198 -/
  | tchkf (f : Form) (d a : R6)
  /-- TANY: 0x38, R198 -/
  | tany (f : Form) (d a : R6)
  /-- TALL: 0x38, R198 -/
  | tall (f : Form) (d a : R6)
  /-- MATT: 0x3C F 0, R200 -/
  | matt (f : Form) (d a : R6)
  /-- MATT_W: 0x3C F 0 B[0] 1, R200 -/
  | mattW (f : Form) (d a : R6)
  /-- MDET: 0x3C F 1, R202 -/
  | mdet (f : Form)
  /-- MMA: 0x3C F 2, R204 -/
  | mma (f : Form) (d a b : R6)
  /-- MMAS: 0x3C F 3, R207 -/
  | mmas (f : Form) (d a b : R6)
  /-- MMAV: 0x3C F 4, R210 -/
  | mmav (f : Form) (d a b : R6)
  /-- AZERO: 0x3C F 5, R217 -/
  | azero (f : Form) (d : R6)
  /-- TTOPK: 0x3C F 6, R216 -/
  | ttopk (f : Form) (d a b : R6)
  /-- THRUP: 0x3C F 7, R215 -/
  | thrup (f : Form) (d a : R6)
  /-- TMAP: 0x3D F 0, R218 -/
  | tmap (f : Form) (d a b : R6)
  /-- TMAPR: 0x3D F 1, R218 -/
  | tmapr (f : Form) (d a b : R6)
  /-- TCRED: 0x3E, R223 -/
  | tcred (f : Form) (d a b : R6)
  /-- TCBC: 0x3E, R223 -/
  | tcbc (f : Form) (d a b : R6)
  /-- TCAG: 0x3E, R223 -/
  | tcag (f : Form) (d a b : R6)
  /-- MONSET: 0x3F F 0, R228 -/
  | monset (f : Form) (b a : R6)
  /-- MONREF: 0x3F F 1, R229 -/
  | monref (f : Form) (b a : R6)
  /-- MONRD: 0x3F F 2, R231 -/
  | monrd (f : Form) (d a b : R6)
  /-- MONCLR: 0x3F F 3, R229 -/
  | monclr (f : Form) (a : R6)
  /-- LADD: lane, R221 -/
  | ladd (c b a d : R6)
  /-- LSUB: lane, R221 -/
  | lsub (c b a d : R6)
  /-- LMUL: lane, R221 -/
  | lmul (c b a d : R6)
  /-- LFMA: lane, R221 -/
  | lfma (c b a d : R6)
  /-- LDIV: lane, R221 -/
  | ldiv (c b a d : R6)
  /-- LAND: lane, R221 -/
  | land (c b a d : R6)
  /-- LOR: lane, R221 -/
  | lor (c b a d : R6)
  /-- LXOR: lane, R221 -/
  | lxor (c b a d : R6)
  /-- LSHL: lane, R221 -/
  | lshl (c b a d : R6)
  /-- LSHR: lane, R221 -/
  | lshr (c b a d : R6)
  /-- LSRA: lane, R221 -/
  | lsra (c b a d : R6)
  /-- LCMP: lane, R221 -/
  | lcmp (c b a d : R6)
  /-- LSEL: lane, R221 -/
  | lsel (c b a d : R6)
  /-- LMIN: lane, R221 -/
  | lmin (c b a d : R6)
  /-- LMAX: lane, R221 -/
  | lmax (c b a d : R6)
  /-- LCVT: lane, R221 -/
  | lcvt (c b a d : R6)
  /-- LCLZ: lane, R221 -/
  | lclz (c a d : R6)
  /-- LPOPC: lane, R221 -/
  | lpopc (c a d : R6)
  /-- LEXP2: lane, R221 -/
  | lexp2 (c a d : R6)
  /-- LLOG2: lane, R221 -/
  | llog2 (c a d : R6)
  /-- LRSQ: lane, R221 -/
  | lrsq (c a d : R6)
  /-- LLI: lane, R89 -/
  | lli (i : BitVec 18) (h : Bool) (d : BitVec 5)
  /-- LMOV: lane, R221 -/
  | lmov (c a d : R6)
  /-- LLD: lane, R221 -/
  | lld (i : BitVec 12) (a d : R6)
  /-- LST: lane, R221 -/
  | lst (i : BitVec 12) (a d : R6)
  /-- LLDT: lane, R221 -/
  | lldt (c b a d : R6)
  /-- LSTT: lane, R221 -/
  | lstt (c b a d : R6)
  /-- LBR: lane, R221 -/
  | lbr (off : BitVec 18) (a : R6)
  /-- LJ: lane, R221 -/
  | lj (off : BitVec 24)
  /-- LCALL: lane, R222 -/
  | lcall (off : BitVec 24)
  /-- LRET: lane, R222 -/
  | lret
  /-- LEND: lane, R219 -/
  | lend
  /-- CPY6: R93: the i-th started command of the block moves its next element -/
  | cpy6 (blk i : Nat)
  /-- GTH: R95, likewise -/
  | gth (blk i : Nat)
  /-- COL: R96: the collective of the i-th started command -/
  | col (blk i : Nat)
  /-- FQ: R97, R292: the oldest query not yet at the distributor reaches it -/
  | fq (blk : Nat)
  /-- ENGINE_COMMAND_START: R326: engine e (0 copy, 1 gather, 2 collective) starts the next queued command -/
  | engineCommandStart (blk e : Nat)
  /-- ENGINE_COMMAND_COMPLETE: R94 -/
  | engineCommandComplete (blk i : Nat)
  /-- COMPLETION_ELEMENT_DELIVER: R327 -/
  | completionElementDeliver (blk e : Nat)
  /-- FARM_ANSWER: R292 -/
  | farmAnswer (blk : Nat)
  /-- PORT_WAKE: R28 -/
  | portWake (blk : Nat)
  /-- CHANNEL_PORT_WAKE: R179 -/
  | channelPortWake (blk : Nat)
  /-- WAITA_WAKE: R140 -/
  | waitaWake (blk : Nat)
  /-- SLPT_WAKE: R141 -/
  | slptWake (blk : Nat)
  /-- BARRIER_RELEASE: R137, R138: launch l, scope sc -/
  | barrierRelease (l : Nat) (sc : BitVec 4)
  /-- DET_HOLD_RELEASE: R296 -/
  | detHoldRelease (blk : Nat)
  /-- DEFERRED_OP_APPLY: R333 -/
  | deferredOpApply (i : Nat)
  /-- MATT_GRANT: R200 -/
  | mattGrant (blk : Nat)
  /-- CLEAT_PLACE_GRANT: R260 -/
  | cleatPlaceGrant (blk : Nat)
  /-- UNIT_COMMIT: R40: the i-th in-flight tile instruction of the block -/
  | unitCommit (blk i : Nat)
  /-- PLANE_BOUNDARY: R261 -/
  | planeBoundary (blk : Nat)
  /-- ELEMENT_PROGRESS_EXPIRY: R22 -/
  | elementProgressExpiry (blk : Nat)
  /-- SLOT_PROMOTION: R291 -/
  | slotPromotion (core slot : Nat)
  /-- TRAP_ENTRY: R301 -/
  | trapEntry (blk : Nat)
  /-- DRAIN_COMPLETE: R21 -/
  | drainComplete (blk : Nat)
  /-- DEBUG_STOP: R373 -/
  | debugStop (blk : Nat)
  /-- FROZEN_RELEASE: R321 -/
  | frozenRelease (blk : Nat)
  /-- RECORD_FETCH: R275 -/
  | recordFetch (ctx q : Nat)
  /-- LAUNCH_START: R279 -/
  | launchStart (l : Nat)
  /-- LAUNCH_COMPLETE: R280 -/
  | launchComplete (l : Nat)
  /-- BLOCK_PLACE: R287 -/
  | blockPlace (die : Nat)
  /-- CLUSTER_RESERVATION: R287 -/
  | clusterReservation (blk : Nat)
  /-- SAVE_COMPLETE: R305 -/
  | saveComplete (blk : Nat)
  /-- RESTORE_COMPLETE: R241 -/
  | restoreComplete (blk : Nat)
  /-- LQ_OPEN: R274 -/
  | lqOpen (ctx q : Nat)
  /-- LQ_CLOSE: R274 -/
  | lqClose (ctx q : Nat)
  /-- LQ_DESTROY: R283 -/
  | lqDestroy (ctx q : Nat)
  /-- LQ_RESUME: R279 -/
  | lqResume (ctx q : Nat)
  /-- LQWIDX_WRITE: R275 -/
  | lqwidxWrite (ctx q : Nat) (v : Dword)
  /-- CTX_ENABLE: R284: the value written to CTXCTL -/
  | ctxEnable (ctx : Nat) (v : Dword)
  /-- CONTEXT_RESET: R285 -/
  | contextReset (ctx : Nat)
  /-- TRANSLATION_INVALIDATE: R315: the value written to CTXINV -/
  | translationInvalidate (ctx : Nat) (v : Dword)
  /-- INVALIDATION_DONE: R315 -/
  | invalidationDone (ctx : Nat)
  /-- CODE_FLUSH: R362 -/
  | codeFlush (ctx : Nat)
  /-- CODE_FLUSH_DONE: R362 -/
  | codeFlushDone (ctx : Nat)
  /-- REGISTER_WRITE: R9, R346 -/
  | registerWrite (off : Nat) (v : Dword)
  /-- HOST_MEMORY_READ: R345 -/
  | hostMemoryRead (off n : Nat)
  /-- HOST_MEMORY_WRITE: R345; ep marks a poisoned TLP -/
  | hostMemoryWrite (off : Nat) (bs : List Byte) (ep : Bool)
  /-- HOST_ATOMICOP: R256 -/
  | hostAtomicop (off : Nat) (op : AtomicOp) (w : Bool) (x y : Dword)
  /-- FLIT_RECEIVE: R337: the flit at the head of the wire; ok is its CRC, lanes the lanes whose parity failed -/
  | flitReceive (link : Nat) (dir ok : Bool) (lanes : Dword)
  /-- NAK_RECEIVE: R337 -/
  | nakReceive (link : Nat) (dir : Bool)
  /-- RETRAIN_COMPLETE: R339 -/
  | retrainComplete (link : Nat)
  /-- LINK_REWIDEN: R339: pass is the retrain check of both halves -/
  | linkRewiden (link : Nat) (pass : Bool)
  /-- LINK_COUNTER_CLEAR: R340 -/
  | linkCounterClear (link : Nat)
  /-- CORRECTED_ERROR: R317 -/
  | correctedError
  /-- UNCORRECTABLE_ERROR: R317, R319 -/
  | uncorrectableError (w : ErrSite)
  /-- ERRCTL_CLR: R379 -/
  | errctlClr
  /-- RSTCTL_WARM: R379 -/
  | rstctlWarm
  /-- WARM_RESET_COMPLETE: R325 -/
  | warmResetComplete
  /-- COLD_RESET: R381 -/
  | coldReset (r : BringUp)
  /-- POWER_LIMIT: R378: the package's power in W, and the currents of VCORE0 and VCORE1 in A -/
  | powerLimit (w : BitVec 16) (i : BitVec 16 × BitVec 16)
  /-- ZFAT_WRITE: R349 -/
  | zfatWrite (z : Nat) (v : Dword)
  /-- CSUPPLY_WRITE: R349 -/
  | csupplyWrite (v : Dword)
  /-- ZVALVE_WRITE: R349 -/
  | zvalveWrite (z : Nat) (v : Dword)
  /-- OVERTEMP: R353 -/
  | overtemp (z : Nat) (outlet : BitVec 12)
  /-- HOLD_RELEASE: R353 -/
  | holdRelease (z : Nat) (outlet : BitVec 12) (flow : BitVec 9)
  /-- FLOWLOW: R353: flow below FLOOR for ms milliseconds without a break -/
  | flowlow (z : Nat) (flow : BitVec 9) (ms : Nat)
  /-- DRY: R353 -/
  | dry (z : Nat)
  /-- LEAK: R353 -/
  | leak (z : Nat)
  /-- ZONE_LANE_GATE: R354 -/
  | zoneLaneGate (z : Nat)
  /-- ZONE_EMPTY: R354 -/
  | zoneEmpty (z : Nat)
  /-- ZONE_EVAC_DEADLINE: R354 -/
  | zoneEvacDeadline (z : Nat)
  /-- ZONE_PURGE_COMPLETE: R354 -/
  | zonePurgeComplete (z : Nat)
  /-- ZONE_REPRIME_COMPLETE: R354: the sensors at its end -/
  | zoneReprimeComplete (z : Nat) (flow : BitVec 9) (dryDet leakDet : Bool)
  /-- TSCTL_WRITE: R369 -/
  | tsctlWrite (n : Nat) (v : Dword)
  /-- TRACE_FLUSH: R370 -/
  | traceFlush (n : Nat)
  /-- TRACE_FLUSH_DONE: R370 -/
  | traceFlushDone (n : Nat)
  /-- DBGSTOP: R373 -/
  | dbgstop
  /-- DBGREL: R373 -/
  | dbgrel
  /-- WORLD_REGISTER_WRITE: R385: by secure firmware -/
  | worldRegisterWrite (off : Nat) (v : Dword)
  /-- QTB_OFFSET_MEASURE: R368 -/
  | qtbOffsetMeasure (src : BitVec 2) (off : Int)
  /-- REGRD: R386 -/
  | regrd (off : Nat)
  /-- REGWR: R386 -/
  | regwr (off : Nat) (v : Dword)
  /-- WARMRST: R386 -/
  | warmrst
  /-- CKPT: R387 -/
  | ckpt (live : Bool) (dst len : Nat)
  /-- CHECKPOINT_COMPLETE: R387 -/
  | checkpointComplete
  /-- CKSTAT: R386 -/
  | ckstat
  /-- QSTEP: R368 -/
  | qstep (ns : Nat)
  /-- SLEWMAX: R386 -/
  | slewmax (ppm : Nat)
  /-- DEVID: R386 -/
  | devid (n : Nat)
  /-- ROUTE: R342, R386 -/
  | route (dev : Nat) (links : List Nat)
  /-- FWUPD: R386 -/
  | fwupd (img : List Byte)
  /-- SPDM_REQUEST: R388: through the host port, or the side band -/
  | spdmRequest (r : SpdmReq)
  /-- UNALLOCATED_ENCODING: R85, R86: DETAIL of the illegal encoding -/
  | unallocatedEncoding (detail : BitVec 16)
  /-- ACCESS_PERFORMED: R239: the i-th pending access of the block, at scope sc -/
  | accessPerformed (blk i : Nat) (sc : BitVec 4)
  /-- L1_EVICTION: R236 -/
  | l1Eviction (core sector : Nat)
  /-- L2_EVICTION: R334 -/
  | l2Eviction (line : Nat)
  /-- CONTEXT_RESET_DONE: R285 -/
  | contextResetDone (ctx : Nat)
  /-- HOST_PORT_LINK_CHANGE: R345 -/
  | hostPortLinkChange (up : Bool)
  deriving DecidableEq, Repr

end Sys2Proof
end

