-- ==== Sys2Proof/Machine/Encoding.lean ====
section
/-! DEFINITION. What each instruction accepts (03_encoding R85, R87, R88; 05 R156; 06 R199, R221): its lengths, its modifiers, how it
uses its register fields and the values its own fields may hold. A check is paired with the number of the lowest bit of the field it
is about, counted over the whole instruction (R77). -/

namespace Sys2Proof

/-- How an instruction uses a register field (R28, R85, R107). -/
inductive Opd where
  | src   -- a scalar source
  | dst   -- a scalar destination
  | pair  -- a scalar source pair sN, sN+1 (R167, R170, R228)
  | cond  -- a condition register
  deriving DecidableEq, Repr

/-- A register field: its use, its lowest bit, its value. -/
structure Use where
  kind : Opd
  pos : Nat
  r : R6
  deriving DecidableEq, Repr

/-- Which scopes a SCOPE field accepts (R88, R130, R134, R174). -/
inductive ScopeUse where
  | none
  | free
  | load
  | store
  | atomic
  deriving DecidableEq, Repr

/-- The modifier fields an instruction accepts (R88, R156, R199). -/
structure Accepts where
  cond : Bool := false
  mask : Bool := false
  rnd : Bool := false
  sat : Bool := false
  scope : ScopeUse := .none
  ty : Bool := false
  v : Bool := false
  c : Bool := false
  deriving DecidableEq, Repr

/-- The lengths an instruction permits (R84, R87). -/
inductive Lens where
  | l32
  | l64
  | l96
  | only64
  | only96
  deriving DecidableEq, Repr

/-- Whether the LEN field's value is a permitted length. -/
def Lens.ok (l : Lens) (len : BitVec 2) : Bool :=
  match l with
  | .l32 => len == 0
  | .l64 => len == 0 || len == 1
  | .l96 => len == 0 || len == 1 || len == 2
  | .only64 => len == 1
  | .only96 => len == 2

/-- The LEN field of a form (R77). -/
def Form.len : Form → BitVec 2
  | .w32 => 0
  | .w64 _ => 1
  | .w96 _ _ => 2

/-- The modifier word's fields; 32-bit instructions have none set (R80). -/
def Form.mods : Form → Mods
  | .w32 => Mods.zero
  | .w64 m => m
  | .w96 m _ => m

/-- The literal word; 0 where there is none (R82). -/
def Form.lit : Form → Word
  | .w96 _ l => l
  | _ => 0

/-- Whether the instruction has a literal word. -/
def Form.isLong : Form → Bool
  | .w96 _ _ => true
  | _ => false

/-- The instruction's length in bytes (R77). -/
def Form.bytes : Form → Nat
  | .w32 => 4
  | .w64 _ => 8
  | .w96 _ _ => 12

/-- The pop ports (R27). -/
def popPort (r : R6) : Bool := r == 49 || r == 51 || r == 53

/-- Whether sN, sN+1 is no register pair (R167, R170, R228). -/
def badPair (r : R6) : Bool := (47 ≤ r.toNat && r.toNat ≤ 55) || r == 63

/-- The integer and floating-point codes of R49. -/
def plainType (t : R6) : Bool := (1 ≤ t.toNat && t.toNat ≤ 8) || (0x10 ≤ t.toNat && t.toNat ≤ 0x15)

/-- The special registers a WRSR may name (R44, R85). -/
def writableSr (b : R6) : Bool := b == 1 || b == 2 || b == 3 || b == 4 || b == 6 || b == 9 || b == 14

/-- A slot of an advancing operand that R83 reserves: level 6 or 7, or a level with stride 0. -/
def badSlot (s : BitVec 16) : Bool :=
  5 < (s.extractLsb' 13 3).toNat || (s.extractLsb' 0 13 == 0 && s.extractLsb' 13 3 != 0)

/-- What an instruction of the main map accepts. -/
structure Info where
  form : Form
  lens : Lens
  acc : Accepts
  uses : List Use
  own : List (Bool × Nat)
  deriving DecidableEq, Repr

/-- The main map's instructions; none for every other row. -/
def instrInfo : Instr → Option Info
  | .add f d a b | .sub f d a b | .mul f d a b =>
    some ⟨f, .l64, { cond := true, sat := true }, [⟨.dst, 8, d⟩, ⟨.src, 14, a⟩, ⟨.src, 20, b⟩], []⟩
  | .mulh f d a b | .mulhn f d a b | .div f d a b | .divn f d a b | .rem f d a b | .remn f d a b | .and_ f d a b
  | .or_ f d a b | .xor_ f d a b | .andn f d a b | .shl f d a b | .shr f d a b | .sra f d a b | .rotr f d a b | .min_ f d a b
  | .max_ f d a b | .minn f d a b | .maxn f d a b =>
    some ⟨f, .l64, { cond := true }, [⟨.dst, 8, d⟩, ⟨.src, 14, a⟩, ⟨.src, 20, b⟩], []⟩
  | .addI f imm d a | .andI f imm d a | .orI f imm d a | .xorI f imm d a =>
    some ⟨f, .l96, { cond := true }, [⟨.dst, 8, d⟩, ⟨.src, 14, a⟩], [(f.isLong && imm != 0, 20)]⟩
  | .shlI f _ d a | .shrI f _ d a | .sraI f _ d a | .rotrI f _ d a | .clz f d a | .ctz f d a | .popc f d a =>
    some ⟨f, .l64, { cond := true }, [⟨.dst, 8, d⟩, ⟨.src, 14, a⟩], []⟩
  | .sext f d a b | .zext f d a b =>
    some ⟨f, .l64, { cond := true }, [⟨.dst, 8, d⟩, ⟨.src, 14, a⟩], [(2 < b.toNat, 20)]⟩
  | .mov f d a =>
    some ⟨f, .l64, { cond := true }, [⟨.dst, 8, d⟩, ⟨.src, 14, a⟩], []⟩
  | .cmp f cc d a b =>
    some ⟨f, .l64, { cond := true }, [⟨.cond, 8, d⟩, ⟨.src, 14, a⟩, ⟨.src, 20, b⟩], [(5 < cc.toNat, 26)]⟩
  | .sel f _ _ d a b =>
    some ⟨f, .l64, { cond := true }, [⟨.dst, 8, d⟩, ⟨.src, 14, a⟩, ⟨.src, 20, b⟩], []⟩
  | .li f h d =>
    some ⟨f, .only96, {}, [⟨.dst, 8, d⟩], [(2 < h.toNat, 26)]⟩
  | .fadd f _ d a b | .fsub f _ d a b | .fmul f _ d a b | .fdiv f _ d a b | .fmin f _ d a b | .fmax f _ d a b =>
    some ⟨f, .l64, { cond := true, rnd := true }, [⟨.dst, 8, d⟩, ⟨.src, 14, a⟩, ⟨.src, 20, b⟩], []⟩
  | .fcmp f _ cc d a b =>
    some ⟨f, .l64, { cond := true }, [⟨.cond, 8, d⟩, ⟨.src, 14, a⟩, ⟨.src, 20, b⟩], [(3 < cc.toNat, 26)]⟩
  | .fcvt f dt st d a =>
    some ⟨f, .l64, { cond := true, rnd := true, sat := true }, [⟨.dst, 8, d⟩, ⟨.src, 14, a⟩], [(!plainType dt, 26), (!plainType st, 20)]⟩
  | .fclass f _ d a =>
    some ⟨f, .l64, { cond := true }, [⟨.dst, 8, d⟩, ⟨.src, 14, a⟩], []⟩
  | .br f _ _ _ =>
    some ⟨f, .l64, { cond := true }, [], []⟩
  | .brz f _ a | .bnz f _ a =>
    some ⟨f, .l64, { cond := true }, [⟨.src, 8, a⟩], []⟩
  | .jmp f _ | .call f _ =>
    some ⟨f, .l64, { cond := true }, [], []⟩
  | .jr f d a =>
    some ⟨f, .l64, { cond := true }, [⟨.dst, 8, d⟩, ⟨.src, 14, a⟩], []⟩
  | .ret f =>
    some ⟨f, .l64, { cond := true }, [], []⟩
  | .loopn cnt _ a =>
    some ⟨.w32, .l32, {}, [⟨.src, 8, a⟩], [(a != 0 && cnt != 0, 19)]⟩
  | .endlp | .brkl _ _ =>
    some ⟨.w32, .l32, {}, [], []⟩
  | .ld f imm sz d a =>
    some ⟨f, .l96, { cond := true, scope := .load }, [⟨.dst, 8, d⟩, ⟨.src, 14, a⟩], [(6 < sz.toNat, 20), (f.isLong && imm != 0, 23)]⟩
  | .st f imm sz d a =>
    some ⟨f, .l96, { cond := true, scope := .store }, [⟨.src, 8, d⟩, ⟨.src, 14, a⟩], [(3 < sz.toNat, 20), (f.isLong && imm != 0, 23)]⟩
  | .lds f imm sz d a =>
    some ⟨f, .l96, { cond := true }, [⟨.dst, 8, d⟩, ⟨.src, 14, a⟩], [(6 < sz.toNat, 20), (f.isLong && imm != 0, 23)]⟩
  | .sts f imm sz d a =>
    some ⟨f, .l96, { cond := true }, [⟨.src, 8, d⟩, ⟨.src, 14, a⟩], [(3 < sz.toNat, 20), (f.isLong && imm != 0, 23)]⟩
  | .amoAdd f _ d a b | .amoAnd f _ d a b | .amoOr f _ d a b | .amoXor f _ d a b | .amoMin f _ d a b | .amoMax f _ d a b
  | .amoMinn f _ d a b | .amoMaxn f _ d a b | .amoSwap f _ d a b =>
    some ⟨f, .l64, { cond := true, scope := .atomic }, [⟨.dst, 8, d⟩, ⟨.src, 14, a⟩, ⟨.src, 20, b⟩], []⟩
  | .cas f _ d a b =>
    some ⟨f, .only64, { cond := true, c := true, scope := .atomic }, [⟨.dst, 8, d⟩, ⟨.src, 14, a⟩, ⟨.src, 20, b⟩, ⟨.src, 32, f.mods.c⟩], []⟩
  | .fenceCt f sc | .fenceTc f sc | .fenceTt f sc | .fenceAll f sc =>
    some ⟨f, .l64, { cond := true }, [], [(sc.toNat < 2 || 11 < sc.toNat, 20)]⟩
  | .tdrain f =>
    some ⟨f, .l64, { cond := true }, [], []⟩
  | .bar f sc a =>
    some ⟨f, .l64, { cond := true }, [⟨.src, 14, a⟩], [(sc != 8 && a != 0, 14), (sc.toNat < 5 || 8 < sc.toNat, 20)]⟩
  | .waitaEq f d a b | .waitaNe f d a b | .waitaGen f d a b =>
    some ⟨f, .l64, { cond := true }, [⟨.dst, 8, d⟩, ⟨.src, 14, a⟩, ⟨.src, 20, b⟩], []⟩
  | .slpt f a =>
    some ⟨f, .l64, { cond := true }, [⟨.src, 14, a⟩], []⟩
  | .rdtime f d =>
    some ⟨f, .l64, { cond := true }, [⟨.dst, 8, d⟩], []⟩
  | .yield_ f | .exit f | .nop f =>
    some ⟨f, .l64, { cond := true }, [], []⟩
  | .rdsr f b d =>
    some ⟨f, .l64, { cond := true }, [⟨.dst, 8, d⟩], [(0x1D < b.toNat, 20)]⟩
  | .wrsr f b a =>
    some ⟨f, .l64, { cond := true }, [⟨.src, 14, a⟩], [(!writableSr b, 20)]⟩
  | .eret f =>
    some ⟨f, .l64, {}, [], []⟩
  | .trap f _ | .bbx f _ =>
    some ⟨f, .l64, { cond := true }, [], []⟩
  | .qcfg f b a =>
    some ⟨f, .l64, { cond := true }, [⟨.src, 14, a⟩], [(15 < b.toNat, 20)]⟩
  | .qtry f b d =>
    some ⟨f, .l64, { cond := true }, [⟨.dst, 8, d⟩], [(15 < b.toNat, 20)]⟩
  | .launch f d a b =>
    some ⟨f, .l64, { cond := true }, [⟨.dst, 8, d⟩, ⟨.src, 14, a⟩, ⟨.src, 20, b⟩], []⟩
  | .heatq f d a b =>
    some ⟨f, .l64, { cond := true }, [⟨.dst, 8, d⟩, ⟨.src, 14, a⟩], [(b == 1 && a != 0, 14), (1 < b.toNat, 20)]⟩
  | .tshape f _ a b =>
    some ⟨f, .l64, { cond := true }, [⟨.src, 14, a⟩, ⟨.src, 20, b⟩], []⟩
  | .tbind f _ a =>
    some ⟨f, .l64, { cond := true }, [⟨.src, 14, a⟩], []⟩
  | .tbound f _ _ a =>
    some ⟨f, .l64, { cond := true }, [⟨.pair, 14, a⟩], []⟩
  | .tmon f _ a =>
    some ⟨f, .l64, { cond := true }, [⟨.src, 14, a⟩], []⟩
  | .tverd f _ a b =>
    some ⟨f, .l64, { cond := true }, [⟨.src, 14, a⟩, ⟨.src, 20, b⟩], []⟩
  | .tfree f _ =>
    some ⟨f, .l64, { cond := true }, [], []⟩
  | .trdsh f d _ b =>
    some ⟨f, .l64, { cond := true }, [⟨.dst, 8, d⟩], [(7 < b.toNat, 20)]⟩
  | .tld f imm op _ a =>
    some ⟨f, .l96, { cond := true, mask := true, scope := .free }, [⟨.pair, 14, a⟩], [(1 < (op.extractLsb' 0 3).toNat, 20), (op.getLsbD 3 && !f.isLong, 23), (f.isLong && !op.getLsbD 3 && imm != 0, 24), (op.getLsbD 3 && badSlot (f.lit.extractLsb' 0 16), 77), (op.getLsbD 3 && badSlot (f.lit.extractLsb' 16 16), 93)]⟩
  | .tst f imm op _ a =>
    some ⟨f, .l96, { cond := true, scope := .free }, [⟨.pair, 14, a⟩], [(0 < (op.extractLsb' 0 3).toNat, 20), (op.getLsbD 3 && !f.isLong, 23), (f.isLong && !op.getLsbD 3 && imm != 0, 24), (op.getLsbD 3 && badSlot (f.lit.extractLsb' 0 16), 77), (op.getLsbD 3 && badSlot (f.lit.extractLsb' 16 16), 93)]⟩
  | .tstr f imm op _ a =>
    some ⟨f, .l96, { cond := true, scope := .free }, [⟨.pair, 14, a⟩], [(5 < (op.extractLsb' 0 3).toNat, 20), (op.getLsbD 3 && !f.isLong, 23), (f.isLong && !op.getLsbD 3 && imm != 0, 24), (op.getLsbD 3 && badSlot (f.lit.extractLsb' 0 16), 77), (op.getLsbD 3 && badSlot (f.lit.extractLsb' 16 16), 93)]⟩
  | .tldg f _ _ b =>
    some ⟨f, .l64, { cond := true, mask := true, scope := .free }, [⟨.src, 20, b⟩], []⟩
  | .tstg f _ _ b =>
    some ⟨f, .l64, { cond := true, scope := .free }, [⟨.src, 20, b⟩], []⟩
  | .tcopy f _ _ =>
    some ⟨f, .l64, { cond := true, mask := true }, [], []⟩
  | .tfill f _ a =>
    some ⟨f, .l64, { cond := true, mask := true }, [⟨.src, 14, a⟩], []⟩
  | .tiota f _ a b =>
    some ⟨f, .l64, { cond := true, mask := true, rnd := true }, [⟨.src, 14, a⟩, ⟨.src, 20, b⟩], []⟩
  | .ttrans f _ _ =>
    some ⟨f, .l64, { cond := true, mask := true }, [], []⟩
  | .tcvt f _ _ =>
    some ⟨f, .l64, { cond := true, mask := true, rnd := true, sat := true, ty := true, v := true }, [], []⟩
  | .tbfly f _ _ _ _ =>
    some ⟨f, .l64, { cond := true, rnd := true, ty := true }, [], []⟩
  | .tcmpr f _ _ _ =>
    some ⟨f, .l64, { cond := true }, [], []⟩
  | .texpd f _ _ _ | .tbcast f _ _ _ =>
    some ⟨f, .l64, { cond := true, mask := true }, [], []⟩
  | .tsend f _ _ =>
    some ⟨f, .l64, { cond := true }, [], []⟩
  | .trecv f _ _ =>
    some ⟨f, .l64, { cond := true, mask := true }, [], []⟩
  | .tldl f b _ =>
    some ⟨f, .l64, { cond := true }, [⟨.src, 20, b⟩], []⟩
  | .tstl f b _ =>
    some ⟨f, .l64, { cond := true, mask := true }, [⟨.src, 20, b⟩], []⟩
  | .tadd f _ _ _ | .tsub f _ _ _ | .tmul f _ _ _ =>
    some ⟨f, .l64, { cond := true, mask := true, rnd := true, sat := true, ty := true }, [], []⟩
  | .tdiv f _ _ _ =>
    some ⟨f, .l64, { cond := true, mask := true, rnd := true, ty := true }, [], []⟩
  | .tmin f _ _ _ | .tmax f _ _ _ =>
    some ⟨f, .l64, { cond := true, mask := true, ty := true, v := true }, [], []⟩
  | .tscale f _ _ _ =>
    some ⟨f, .l64, { cond := true, mask := true, rnd := true, sat := true }, [], []⟩
  | .tfma f _ _ _ =>
    some ⟨f, .only64, { cond := true, mask := true, rnd := true, sat := true, ty := true, c := true }, [], []⟩
  | .tclamp f _ _ _ =>
    some ⟨f, .only64, { cond := true, mask := true, ty := true, c := true }, [], []⟩
  | .tsel f _ _ _ =>
    some ⟨f, .only64, { cond := true, mask := true, ty := true, v := true, c := true }, [], []⟩
  | .tsqrt f _ _ | .trsq f _ _ | .trcp f _ _ | .texp2 f _ _ | .tlog2 f _ _ =>
    some ⟨f, .l64, { cond := true, mask := true, rnd := true, ty := true }, [], []⟩
  | .tabs f _ _ | .tneg f _ _ =>
    some ⟨f, .l64, { cond := true, mask := true, ty := true }, [], []⟩
  | .tcmp f cc _ _ _ =>
    some ⟨f, .l64, { cond := true, mask := true, ty := true }, [], [(6 < cc.toNat, 26)]⟩
  | .tand f _ _ _ | .tor f _ _ _ | .txor f _ _ _ | .tnot f _ _ | .tshl f _ _ _ | .tshr f _ _ _ | .tsra f _ _ _ | .tclz f _ _
  | .tctz f _ _ | .tpopc f _ _ =>
    some ⟨f, .l64, { cond := true, mask := true, ty := true }, [], []⟩
  | .tred f r o d _ b =>
    some ⟨f, .l64, { cond := true, rnd := true, ty := true }, [], [(r == 2 && b != 0 && d != 0, 8), (r != 2 && b != 0, 20), (popPort b, 20), (4 < o.toNat, 26), (r == 3, 29), (f.mods.rnd != 0 && o != 0, 47)]⟩
  | .tscan f r o _ _ =>
    some ⟨f, .l64, { cond := true, mask := true, rnd := true, ty := true }, [], [(4 < o.toNat, 26), (1 < r.toNat, 29), (f.mods.rnd != 0 && o != 0, 47)]⟩
  | .targmx f r _ _ =>
    some ⟨f, .l64, { cond := true, ty := true }, [], [(r == 3, 26)]⟩
  | .tchkf f d _ | .tany f d _ | .tall f d _ =>
    some ⟨f, .l64, { cond := true, ty := true }, [⟨.cond, 8, d⟩], []⟩
  | .matt f d a | .mattW f d a =>
    some ⟨f, .l64, { cond := true }, [⟨.dst, 8, d⟩, ⟨.src, 14, a⟩], []⟩
  | .mdet f =>
    some ⟨f, .l64, { cond := true }, [], []⟩
  | .mma f _ _ _ =>
    some ⟨f, .l64, { cond := true, sat := true, c := true }, [], []⟩
  | .mmas f _ _ _ =>
    some ⟨f, .only64, { cond := true, sat := true, c := true }, [], []⟩
  | .mmav f _ _ _ =>
    some ⟨f, .l64, { cond := true, c := true }, [⟨.src, 32, f.mods.c⟩], []⟩
  | .azero f _ =>
    some ⟨f, .l64, { cond := true }, [], []⟩
  | .ttopk f _ _ _ =>
    some ⟨f, .l64, { cond := true, c := true }, [⟨.src, 32, f.mods.c⟩], []⟩
  | .thrup f _ a =>
    some ⟨f, .l64, { cond := true }, [⟨.src, 14, a⟩], []⟩
  | .tmap f _ _ _ | .tmapr f _ _ _ =>
    some ⟨f, .only96, { mask := true, rnd := true, c := true }, [], [(f.lit.extractLsb' 0 2 != 0, 64)]⟩
  | .tcred f _ a b =>
    some ⟨f, .l64, { cond := true, c := true }, [⟨.src, 14, a⟩, ⟨.src, 20, b⟩, ⟨.src, 32, f.mods.c⟩], []⟩
  | .tcbc f _ a b | .tcag f _ a b =>
    some ⟨f, .l64, { cond := true }, [⟨.src, 14, a⟩, ⟨.src, 20, b⟩], []⟩
  | .monset f b a | .monref f b a =>
    some ⟨f, .l64, { cond := true }, [⟨.src, 14, a⟩, ⟨.pair, 20, b⟩], []⟩
  | .monrd f d a b =>
    some ⟨f, .l64, { cond := true }, [⟨.dst, 8, d⟩, ⟨.src, 14, a⟩], [(6 < b.toNat, 20)]⟩
  | .monclr f a =>
    some ⟨f, .l64, { cond := true }, [⟨.src, 14, a⟩], []⟩
  | _ => none

/-- The breaches among the modifier fields (R80, R81, R85, R88). -/
def modFaults (acc : Accepts) (long : Bool) (m : Mods) : List (Bool × Nat) :=
  [ (m.c != 0 && !acc.c, 32),
    (m.pmode == 3 || (m.pmode == 1 && !acc.cond) || (m.pmode == 2 && !acc.mask), 38),
    ((m.pmode == 0 && m.psel != 0) || (m.pmode == 1 && 7 < m.psel.toNat), 40),
    (m.pmode == 0 && m.pneg, 46),
    (m.rnd != 0 && (!acc.rnd || m.rnd.toNat < 4), 47),
    (m.sat && !acc.sat, 50),
    (match acc.scope with
      | .none => m.scope != 0
      | .free => m.scope == 1 || 11 < m.scope.toNat
      | .load | .store => m.scope == 1 || 11 < m.scope.toNat || ((m.ord == 0) != (m.scope == 0))
      | .atomic => long && (m.scope.toNat < 2 || 11 < m.scope.toNat), 51),
    (m.ty != 0 && !(acc.ty && plainType m.ty), 55),
    (m.v && !acc.v, 61),
    (match acc.scope with
      | .none | .free => m.ord != 0
      | .load => m.ord.toNat > 1
      | .store => m.ord != 0 && m.ord != 2
      | .atomic => false, 62) ]

/-- Whether another scalar source of the instruction names the same register. -/
def namedTwice (us : List Use) (u : Use) : Bool :=
  us.any (fun v => v.kind == .src && v.pos != u.pos && v.r == u.r)

/-- The breaches among the register fields (R28, R85, R107, R167, R170, R228). -/
def useFaults (us : List Use) : List (Bool × Nat) :=
  us.map (fun u => (match u.kind with
    | .src => popPort u.r && namedTwice us u
    | .dst => popPort u.r
    | .pair => badPair u.r
    | .cond => 7 < u.r.toNat, u.pos))

/-- Every check of a main-map instruction's own fields, each with the lowest bit of its field (R85, R86). A form that only 64 bits can encode, CAS or
MMAS, is charged to LEN in a 32-bit word, and not to F: R86 and R133 do not say which field offends (log 95). -/
def Info.faults (x : Info) : List (Bool × Nat) :=
  (!x.lens.ok x.form.len, 0) :: useFaults x.uses ++ x.own ++ modFaults x.acc (x.form.len != 0) x.form.mods

/-- The element type codes a lane instruction's C field may hold (R221). -/
inductive LaneTypes where
  | word     -- n32, i32
  | number   -- n32, i32, FP32
  | float    -- FP32
  | element  -- every integer and floating-point code of at most 32 bits
  deriving DecidableEq, Repr

/-- Whether C holds an accepted code (R221). -/
def LaneTypes.ok (t : LaneTypes) (c : R6) : Bool :=
  match t with
  | .word => c == 3 || c == 7
  | .number => c == 3 || c == 7 || c == 0x14
  | .float => c == 0x14
  | .element => (1 ≤ c.toNat && c.toNat ≤ 3) || (5 ≤ c.toNat && c.toNat ≤ 7) || (0x10 ≤ c.toNat && c.toNat ≤ 0x14)

/-- A lane register field beyond l31 (R89). -/
def badLane (r : R6) : Bool := 31 < r.toNat

/-- The checks of an LR word with three register fields and a type. -/
def laneLR (t : LaneTypes) (c b a d : R6) : List (Bool × Nat) :=
  [(badLane d, 8), (badLane a, 14), (badLane b, 20), (!t.ok c, 26)]

/-- The checks of an LR word with two register fields and a type. -/
def laneLR2 (t : LaneTypes) (c a d : R6) : List (Bool × Nat) :=
  [(badLane d, 8), (badLane a, 14), (!t.ok c, 26)]

/-- Every check of a lane-function instruction's fields (R89 to R91, R221); none for every other row. -/
def laneFaults : Instr → Option (List (Bool × Nat))
  | .ladd c b a d | .lsub c b a d | .lmul c b a d | .ldiv c b a d | .lcmp c b a d | .lmin c b a d | .lmax c b a d =>
    some (laneLR .number c b a d)
  | .land c b a d | .lor c b a d | .lxor c b a d | .lshl c b a d | .lshr c b a d | .lsra c b a d => some (laneLR .word c b a d)
  | .lldt c b a d | .lstt c b a d => some (laneLR .element c b a d)
  | .lfma c b a d | .lsel c b a d => some [(badLane d, 8), (badLane a, 14), (badLane b, 20), (badLane c, 26)]
  | .lcvt c b a d => some [(badLane d, 8), (badLane a, 14), (!LaneTypes.element.ok b, 20), (!LaneTypes.element.ok c, 26)]
  | .lclz c a d | .lpopc c a d => some (laneLR2 .word c a d)
  | .lexp2 c a d | .llog2 c a d | .lrsq c a d => some (laneLR2 .float c a d)
  | .lmov c a d => some (laneLR2 .number c a d)
  | .lld _ a d | .lst _ a d => some [(badLane d, 8), (badLane a, 14)]
  | .lbr _ a => some [(badLane a, 8)]
  | .lli _ _ _ | .lj _ | .lcall _ | .lret | .lend => some []
  | _ => none

/-- The least number whose check holds. -/
def lowest : List (Bool × Nat) → Option Nat
  | [] => none
  | (bad, n) :: xs =>
    match bad, lowest xs with
    | true, some k => some (min n k)
    | true, none => some n
    | false, r => r

end Sys2Proof
end

