-- ==== Sys2Proof/WellFormed.lean ====
section
/-! DEFINITION. Well-formed instructions: the operands and modifiers that some encoding holds (03_encoding R85; 06 R221). -/

namespace Sys2Proof

/-- Whether every field of the instruction holds a value its encoding admits. An engine command is named by its place in a queue and a
device event by its arguments: they have no encoding here and are always well formed. -/
def Instr.wf (i : Instr) : Bool :=
  match instrInfo i, laneFaults i with
  | some x, _ => x.faults.all (fun p => !p.1)
  | none, some l => l.all (fun p => !p.1)
  | none, none => true

end Sys2Proof
end

