-- ==== Sys2Proof/Decode.lean ====
section
/-! DEFINITION. Decoding (03_encoding R77 to R91) and, after it, the encoder. The decoder is total: it answers an instruction or the
number of the lowest bit of the lowest offending field (R86, R91). -/

namespace Sys2Proof

/-- The words of an instruction, split into their fields (R77, R78, R80). -/
structure Raw where
  len : BitVec 2
  major : R6
  f : R6
  b : R6
  a : R6
  d : R6
  m : Mods
  lit : Word
  deriving DecidableEq, Repr

/-- The form the words are in (R77). -/
def Raw.form (r : Raw) : Form :=
  if r.len = 0 then .w32 else if r.len = 1 then .w64 r.m else .w96 r.m r.lit

/-- The fields of a modifier word (R80). -/
def splitMods (w : Word) : Mods :=
  { ord := w.extractLsb' 30 2, v := w.getLsbD 29, ty := w.extractLsb' 23 6, scope := w.extractLsb' 19 4, sat := w.getLsbD 18,
    rnd := w.extractLsb' 15 3, pneg := w.getLsbD 14, psel := w.extractLsb' 8 6, pmode := w.extractLsb' 6 2,
    c := w.extractLsb' 0 6 }

/-- How many words follow word 0 (R77). -/
def extraWords (w0 : Word) : Nat := (w0.extractLsb' 0 2).toNat

/-- The fields of word 0, of the modifier word w1 and of the literal word w2; words the length leaves out do not count. -/
def splitWords (w0 w1 w2 : Word) : Raw :=
  { len := w0.extractLsb' 0 2, major := w0.extractLsb' 2 6, d := w0.extractLsb' 8 6, a := w0.extractLsb' 14 6,
    b := w0.extractLsb' 20 6, f := w0.extractLsb' 26 6,
    m := if extraWords w0 = 0 then Mods.zero else splitMods w1,
    lit := if extraWords w0 = 2 then w2 else 0 }

/-- The lengths a major permits; none when it is unallocated (R84, R87). -/
def majorLens (m : R6) : Option Lens :=
  let n := m.toNat
  if n = 0x16 || n = 0x17 then some .l32
  else if n = 0x0A || n = 0x3D then some .only96
  else if n = 0x31 then some .only64
  else if (2 ≤ n && n ≤ 5) || (0x18 ≤ n && n ≤ 0x1B) || (0x21 ≤ n && n ≤ 0x23) then some .l96
  else if n = 0 || n = 0x0F || (0x28 ≤ n && n ≤ 0x2F) || (0x39 ≤ n && n ≤ 0x3B) then none
  else some .l64

/-- Major 0x01, selected by F. -/
def parse01 (r : Raw) : Option (Instr × List (Bool × Nat)) :=
  match r.f.toNat with
  | 0 => some (.add r.form r.d r.a r.b, [])
  | 1 => some (.sub r.form r.d r.a r.b, [])
  | 2 => some (.mul r.form r.d r.a r.b, [])
  | 3 => some (.mulh r.form r.d r.a r.b, [])
  | 4 => some (.mulhn r.form r.d r.a r.b, [])
  | 5 => some (.div r.form r.d r.a r.b, [])
  | 6 => some (.divn r.form r.d r.a r.b, [])
  | 7 => some (.rem r.form r.d r.a r.b, [])
  | 8 => some (.remn r.form r.d r.a r.b, [])
  | 9 => some (.and_ r.form r.d r.a r.b, [])
  | 10 => some (.or_ r.form r.d r.a r.b, [])
  | 11 => some (.xor_ r.form r.d r.a r.b, [])
  | 12 => some (.andn r.form r.d r.a r.b, [])
  | 13 => some (.shl r.form r.d r.a r.b, [])
  | 14 => some (.shr r.form r.d r.a r.b, [])
  | 15 => some (.sra r.form r.d r.a r.b, [])
  | 16 => some (.rotr r.form r.d r.a r.b, [])
  | 17 => some (.min_ r.form r.d r.a r.b, [])
  | 18 => some (.max_ r.form r.d r.a r.b, [])
  | 19 => some (.minn r.form r.d r.a r.b, [])
  | 20 => some (.maxn r.form r.d r.a r.b, [])
  | _ => none

/-- Major 0x02. -/
def parse02 (r : Raw) : Option (Instr × List (Bool × Nat)) :=
  some (.addI r.form (r.f ++ r.b) r.d r.a, [])

/-- Major 0x03. -/
def parse03 (r : Raw) : Option (Instr × List (Bool × Nat)) :=
  some (.andI r.form (r.f ++ r.b) r.d r.a, [])

/-- Major 0x04. -/
def parse04 (r : Raw) : Option (Instr × List (Bool × Nat)) :=
  some (.orI r.form (r.f ++ r.b) r.d r.a, [])

/-- Major 0x05. -/
def parse05 (r : Raw) : Option (Instr × List (Bool × Nat)) :=
  some (.xorI r.form (r.f ++ r.b) r.d r.a, [])

/-- Major 0x06, selected by F. -/
def parse06 (r : Raw) : Option (Instr × List (Bool × Nat)) :=
  match (r.f.extractLsb' 0 2).toNat with
  | 0 => some (.shlI r.form r.b r.d r.a, [(r.f.extractLsb' 2 4 != 0, 28)])
  | 1 => some (.shrI r.form r.b r.d r.a, [(r.f.extractLsb' 2 4 != 0, 28)])
  | 2 => some (.sraI r.form r.b r.d r.a, [(r.f.extractLsb' 2 4 != 0, 28)])
  | 3 => some (.rotrI r.form r.b r.d r.a, [(r.f.extractLsb' 2 4 != 0, 28)])
  | _ => none

/-- Major 0x07, selected by F. -/
def parse07 (r : Raw) : Option (Instr × List (Bool × Nat)) :=
  match r.f.toNat with
  | 0 => some (.clz r.form r.d r.a, [(r.b != 0, 20)])
  | 1 => some (.ctz r.form r.d r.a, [(r.b != 0, 20)])
  | 2 => some (.popc r.form r.d r.a, [(r.b != 0, 20)])
  | 3 => some (.sext r.form r.d r.a r.b, [])
  | 4 => some (.zext r.form r.d r.a r.b, [])
  | 5 => some (.mov r.form r.d r.a, [(r.b != 0, 20)])
  | _ => none

/-- Major 0x08. -/
def parse08 (r : Raw) : Option (Instr × List (Bool × Nat)) :=
  some (.cmp r.form r.f r.d r.a r.b, [])

/-- Major 0x09. -/
def parse09 (r : Raw) : Option (Instr × List (Bool × Nat)) :=
  some (.sel r.form (r.f.getLsbD 3) (r.f.extractLsb' 0 3) r.d r.a r.b, [(r.f.extractLsb' 4 2 != 0, 30)])

/-- Major 0x0A. -/
def parse0A (r : Raw) : Option (Instr × List (Bool × Nat)) :=
  some (.li r.form r.f r.d, [(r.a != 0, 14), (r.b != 0, 20)])

/-- Major 0x0B, selected by F. -/
def parse0B (r : Raw) : Option (Instr × List (Bool × Nat)) :=
  match (r.f.extractLsb' 0 5).toNat with
  | 0 => some (.fadd r.form (r.f.getLsbD 5) r.d r.a r.b, [])
  | 1 => some (.fsub r.form (r.f.getLsbD 5) r.d r.a r.b, [])
  | 2 => some (.fmul r.form (r.f.getLsbD 5) r.d r.a r.b, [])
  | 3 => some (.fdiv r.form (r.f.getLsbD 5) r.d r.a r.b, [])
  | 4 => some (.fmin r.form (r.f.getLsbD 5) r.d r.a r.b, [])
  | 5 => some (.fmax r.form (r.f.getLsbD 5) r.d r.a r.b, [])
  | _ => none

/-- Major 0x0C. -/
def parse0C (r : Raw) : Option (Instr × List (Bool × Nat)) :=
  some (.fcmp r.form (r.f.getLsbD 5) (r.f.extractLsb' 0 3) r.d r.a r.b, [(r.f.extractLsb' 3 2 != 0, 29)])

/-- Major 0x0D. -/
def parse0D (r : Raw) : Option (Instr × List (Bool × Nat)) :=
  some (.fcvt r.form r.f r.b r.d r.a, [])

/-- Major 0x0E. -/
def parse0E (r : Raw) : Option (Instr × List (Bool × Nat)) :=
  some (.fclass r.form (r.f.getLsbD 5) r.d r.a, [(r.b != 0, 20), (r.f.extractLsb' 0 5 != 0, 26)])

/-- Major 0x10. -/
def parse10 (r : Raw) : Option (Instr × List (Bool × Nat)) :=
  some (.br r.form (r.f ++ r.b ++ r.a) (r.d.getLsbD 5) (r.d.extractLsb' 0 3), [(r.d.extractLsb' 3 2 != 0, 11)])

/-- Major 0x11. -/
def parse11 (r : Raw) : Option (Instr × List (Bool × Nat)) :=
  some (.brz r.form (r.f ++ r.b ++ r.a) r.d, [])

/-- Major 0x12. -/
def parse12 (r : Raw) : Option (Instr × List (Bool × Nat)) :=
  some (.bnz r.form (r.f ++ r.b ++ r.a) r.d, [])

/-- Major 0x13. -/
def parse13 (r : Raw) : Option (Instr × List (Bool × Nat)) :=
  some (.jmp r.form (r.f ++ r.b ++ r.a ++ r.d), [])

/-- Major 0x14. -/
def parse14 (r : Raw) : Option (Instr × List (Bool × Nat)) :=
  some (.call r.form (r.f ++ r.b ++ r.a ++ r.d), [])

/-- Major 0x15, selected by F. -/
def parse15 (r : Raw) : Option (Instr × List (Bool × Nat)) :=
  match r.f.toNat with
  | 0 => some (.jr r.form r.d r.a, [(r.b != 0, 20)])
  | 1 => some (.ret r.form, [(r.d != 0, 8), (r.a != 0, 14), (r.b != 0, 20)])
  | _ => none

/-- Major 0x16. -/
def parse16 (r : Raw) : Option (Instr × List (Bool × Nat)) :=
  some (.loopn (r.f ++ r.b ++ r.a.extractLsb' 5 1) (r.a.extractLsb' 0 5) r.d, [])

/-- Major 0x17, selected by F. -/
def parse17 (r : Raw) : Option (Instr × List (Bool × Nat)) :=
  match r.f.toNat with
  | 0 => some (.endlp, [(r.d != 0, 8), (r.a != 0, 14), (r.b != 0, 20)])
  | 1 => some (.brkl (r.a.getLsbD 5) (r.a.extractLsb' 0 3), [(r.d != 0, 8), (r.a.extractLsb' 3 2 != 0, 17), (r.b != 0, 20)])
  | _ => none

/-- Major 0x18. -/
def parse18 (r : Raw) : Option (Instr × List (Bool × Nat)) :=
  some (.ld r.form (r.f ++ r.b.extractLsb' 3 3) (r.b.extractLsb' 0 3) r.d r.a, [])

/-- Major 0x19. -/
def parse19 (r : Raw) : Option (Instr × List (Bool × Nat)) :=
  some (.st r.form (r.f ++ r.b.extractLsb' 3 3) (r.b.extractLsb' 0 3) r.d r.a, [])

/-- Major 0x1A. -/
def parse1A (r : Raw) : Option (Instr × List (Bool × Nat)) :=
  some (.lds r.form (r.f ++ r.b.extractLsb' 3 3) (r.b.extractLsb' 0 3) r.d r.a, [])

/-- Major 0x1B. -/
def parse1B (r : Raw) : Option (Instr × List (Bool × Nat)) :=
  some (.sts r.form (r.f ++ r.b.extractLsb' 3 3) (r.b.extractLsb' 0 3) r.d r.a, [])

/-- Major 0x1C, selected by F. -/
def parse1C (r : Raw) : Option (Instr × List (Bool × Nat)) :=
  match (r.f.extractLsb' 0 5).toNat with
  | 0 => some (.amoAdd r.form (r.f.getLsbD 5) r.d r.a r.b, [])
  | 1 => some (.amoAnd r.form (r.f.getLsbD 5) r.d r.a r.b, [])
  | 2 => some (.amoOr r.form (r.f.getLsbD 5) r.d r.a r.b, [])
  | 3 => some (.amoXor r.form (r.f.getLsbD 5) r.d r.a r.b, [])
  | 4 => some (.amoMin r.form (r.f.getLsbD 5) r.d r.a r.b, [])
  | 5 => some (.amoMax r.form (r.f.getLsbD 5) r.d r.a r.b, [])
  | 6 => some (.amoMinn r.form (r.f.getLsbD 5) r.d r.a r.b, [])
  | 7 => some (.amoMaxn r.form (r.f.getLsbD 5) r.d r.a r.b, [])
  | 8 => some (.amoSwap r.form (r.f.getLsbD 5) r.d r.a r.b, [])
  | 9 => some (.cas r.form (r.f.getLsbD 5) r.d r.a r.b, [])
  | _ => none

/-- Major 0x1D, selected by F. -/
def parse1D (r : Raw) : Option (Instr × List (Bool × Nat)) :=
  match r.f.toNat with
  | 0 => some (.fenceCt r.form (r.b.extractLsb' 0 4), [(r.d != 0, 8), (r.a != 0, 14), (r.b.extractLsb' 4 2 != 0, 24)])
  | 1 => some (.fenceTc r.form (r.b.extractLsb' 0 4), [(r.d != 0, 8), (r.a != 0, 14), (r.b.extractLsb' 4 2 != 0, 24)])
  | 2 => some (.fenceTt r.form (r.b.extractLsb' 0 4), [(r.d != 0, 8), (r.a != 0, 14), (r.b.extractLsb' 4 2 != 0, 24)])
  | 3 => some (.fenceAll r.form (r.b.extractLsb' 0 4), [(r.d != 0, 8), (r.a != 0, 14), (r.b.extractLsb' 4 2 != 0, 24)])
  | 4 => some (.tdrain r.form, [(r.d != 0, 8), (r.a != 0, 14), (r.b != 0, 20)])
  | 5 => some (.bar r.form (r.b.extractLsb' 0 4) r.a, [(r.d != 0, 8), (r.b.extractLsb' 4 2 != 0, 24)])
  | 6 => some (.waitaEq r.form r.d r.a r.b, [])
  | 7 => some (.waitaNe r.form r.d r.a r.b, [])
  | 8 => some (.waitaGen r.form r.d r.a r.b, [])
  | 9 => some (.slpt r.form r.a, [(r.d != 0, 8), (r.b != 0, 20)])
  | _ => none

/-- Major 0x1E, selected by F. -/
def parse1E (r : Raw) : Option (Instr × List (Bool × Nat)) :=
  match r.f.toNat with
  | 0 => some (.rdtime r.form r.d, [(r.a != 0, 14), (r.b != 0, 20)])
  | 1 => some (.yield_ r.form, [(r.d != 0, 8), (r.a != 0, 14), (r.b != 0, 20)])
  | 2 => some (.exit r.form, [(r.d != 0, 8), (r.a != 0, 14), (r.b != 0, 20)])
  | 3 => some (.nop r.form, [(r.d != 0, 8), (r.a != 0, 14), (r.b != 0, 20)])
  | 4 => some (.rdsr r.form r.b r.d, [(r.a != 0, 14)])
  | 5 => some (.wrsr r.form r.b r.a, [(r.d != 0, 8)])
  | 6 => some (.eret r.form, [(r.d != 0, 8), (r.a != 0, 14), (r.b != 0, 20)])
  | 7 => some (.trap r.form (r.b ++ r.a), [(r.d != 0, 8)])
  | 8 => some (.bbx r.form (r.b ++ r.a), [(r.d != 0, 8)])
  | _ => none

/-- Major 0x1F, selected by F. -/
def parse1F (r : Raw) : Option (Instr × List (Bool × Nat)) :=
  match r.f.toNat with
  | 0 => some (.qcfg r.form r.b r.a, [(r.d != 0, 8)])
  | 1 => some (.qtry r.form r.b r.d, [(r.a != 0, 14)])
  | 2 => some (.launch r.form r.d r.a r.b, [])
  | 3 => some (.heatq r.form r.d r.a r.b, [])
  | _ => none

/-- Major 0x20, selected by F. -/
def parse20 (r : Raw) : Option (Instr × List (Bool × Nat)) :=
  match r.f.toNat with
  | 0 => some (.tshape r.form r.d r.a r.b, [])
  | 1 => some (.tbind r.form r.d r.a, [(r.b != 0, 20)])
  | 2 => some (.tbound r.form (r.b.extractLsb' 0 2) r.d r.a, [(r.b.extractLsb' 2 4 != 0, 22)])
  | 3 => some (.tmon r.form r.d r.a, [(r.b != 0, 20)])
  | 4 => some (.tverd r.form r.d r.a r.b, [])
  | 5 => some (.tfree r.form r.d, [(r.a != 0, 14), (r.b != 0, 20)])
  | 6 => some (.trdsh r.form r.d r.a r.b, [])
  | _ => none

/-- Major 0x21. -/
def parse21 (r : Raw) : Option (Instr × List (Bool × Nat)) :=
  some (.tld r.form (r.f ++ r.b.extractLsb' 4 2) (r.b.extractLsb' 0 4) r.d r.a, [])

/-- Major 0x22. -/
def parse22 (r : Raw) : Option (Instr × List (Bool × Nat)) :=
  some (.tst r.form (r.f ++ r.b.extractLsb' 4 2) (r.b.extractLsb' 0 4) r.d r.a, [])

/-- Major 0x23. -/
def parse23 (r : Raw) : Option (Instr × List (Bool × Nat)) :=
  some (.tstr r.form (r.f ++ r.b.extractLsb' 4 2) (r.b.extractLsb' 0 4) r.d r.a, [])

/-- Major 0x24. -/
def parse24 (r : Raw) : Option (Instr × List (Bool × Nat)) :=
  some (.tldg r.form r.d r.a r.b, [(r.f != 0, 26)])

/-- Major 0x25. -/
def parse25 (r : Raw) : Option (Instr × List (Bool × Nat)) :=
  some (.tstg r.form r.d r.a r.b, [(r.f != 0, 26)])

/-- Major 0x26, selected by F. -/
def parse26 (r : Raw) : Option (Instr × List (Bool × Nat)) :=
  match r.f.toNat with
  | 0 => some (.tcopy r.form r.d r.a, [(r.b != 0, 20)])
  | 1 => some (.tfill r.form r.d r.a, [(r.b != 0, 20)])
  | 2 => some (.tiota r.form r.d r.a r.b, [])
  | 3 => some (.ttrans r.form r.d r.a, [(r.b != 0, 20)])
  | 4 => some (.tcvt r.form r.d r.a, [(r.b != 0, 20)])
  | 5 => some (.tbfly r.form (r.b.getLsbD 3) (r.b.extractLsb' 0 3) r.d r.a, [(r.b.extractLsb' 4 2 != 0, 24)])
  | 6 => some (.tcmpr r.form r.d r.a r.b, [])
  | 7 => some (.texpd r.form r.d r.a r.b, [])
  | 8 => some (.tbcast r.form (r.b.getLsbD 0) r.d r.a, [(r.b.extractLsb' 1 5 != 0, 21)])
  | _ => none

/-- Major 0x27, selected by F. -/
def parse27 (r : Raw) : Option (Instr × List (Bool × Nat)) :=
  match r.f.toNat with
  | 0 => some (.tsend r.form r.d r.a, [(r.b != 0, 20)])
  | 1 => some (.trecv r.form r.d r.a, [(r.b != 0, 20)])
  | 2 => some (.tldl r.form r.b r.a, [(r.d != 0, 8)])
  | 3 => some (.tstl r.form r.b r.d, [(r.a != 0, 14)])
  | _ => none

/-- Major 0x30, selected by F. -/
def parse30 (r : Raw) : Option (Instr × List (Bool × Nat)) :=
  match r.f.toNat with
  | 0 => some (.tadd r.form r.d r.a r.b, [])
  | 1 => some (.tsub r.form r.d r.a r.b, [])
  | 2 => some (.tmul r.form r.d r.a r.b, [])
  | 3 => some (.tdiv r.form r.d r.a r.b, [])
  | 4 => some (.tmin r.form r.d r.a r.b, [])
  | 5 => some (.tmax r.form r.d r.a r.b, [])
  | 6 => some (.tscale r.form r.d r.a r.b, [])
  | _ => none

/-- Major 0x31, selected by F. -/
def parse31 (r : Raw) : Option (Instr × List (Bool × Nat)) :=
  match r.f.toNat with
  | 0 => some (.tfma r.form r.d r.a r.b, [])
  | 1 => some (.tclamp r.form r.d r.a r.b, [])
  | 2 => some (.tsel r.form r.d r.a r.b, [])
  | _ => none

/-- Major 0x32, selected by F. -/
def parse32 (r : Raw) : Option (Instr × List (Bool × Nat)) :=
  match r.f.toNat with
  | 0 => some (.tsqrt r.form r.d r.a, [(r.b != 0, 20)])
  | 1 => some (.trsq r.form r.d r.a, [(r.b != 0, 20)])
  | 2 => some (.trcp r.form r.d r.a, [(r.b != 0, 20)])
  | 3 => some (.texp2 r.form r.d r.a, [(r.b != 0, 20)])
  | 4 => some (.tlog2 r.form r.d r.a, [(r.b != 0, 20)])
  | 5 => some (.tabs r.form r.d r.a, [(r.b != 0, 20)])
  | 6 => some (.tneg r.form r.d r.a, [(r.b != 0, 20)])
  | _ => none

/-- Major 0x33. -/
def parse33 (r : Raw) : Option (Instr × List (Bool × Nat)) :=
  some (.tcmp r.form r.f r.d r.a r.b, [])

/-- Major 0x34, selected by F. -/
def parse34 (r : Raw) : Option (Instr × List (Bool × Nat)) :=
  match r.f.toNat with
  | 0 => some (.tand r.form r.d r.a r.b, [])
  | 1 => some (.tor r.form r.d r.a r.b, [])
  | 2 => some (.txor r.form r.d r.a r.b, [])
  | 3 => some (.tnot r.form r.d r.a, [(r.b != 0, 20)])
  | 4 => some (.tshl r.form r.d r.a r.b, [])
  | 5 => some (.tshr r.form r.d r.a r.b, [])
  | 6 => some (.tsra r.form r.d r.a r.b, [])
  | 7 => some (.tclz r.form r.d r.a, [(r.b != 0, 20)])
  | 8 => some (.tctz r.form r.d r.a, [(r.b != 0, 20)])
  | 9 => some (.tpopc r.form r.d r.a, [(r.b != 0, 20)])
  | _ => none

/-- Major 0x35. -/
def parse35 (r : Raw) : Option (Instr × List (Bool × Nat)) :=
  some (.tred r.form (r.f.extractLsb' 3 2) (r.f.extractLsb' 0 3) r.d r.a r.b, [(r.f.getLsbD 5, 31)])

/-- Major 0x36. -/
def parse36 (r : Raw) : Option (Instr × List (Bool × Nat)) :=
  some (.tscan r.form (r.f.extractLsb' 3 2) (r.f.extractLsb' 0 3) r.d r.a, [(r.b != 0, 20), (r.f.getLsbD 5, 31)])

/-- Major 0x37. -/
def parse37 (r : Raw) : Option (Instr × List (Bool × Nat)) :=
  some (.targmx r.form (r.f.extractLsb' 0 2) r.d r.a, [(r.b != 0, 20), (r.f.extractLsb' 2 4 != 0, 28)])

/-- Major 0x38, selected by F. -/
def parse38 (r : Raw) : Option (Instr × List (Bool × Nat)) :=
  match r.f.toNat with
  | 0 => some (.tchkf r.form r.d r.a, [(r.b != 0, 20)])
  | 1 => some (.tany r.form r.d r.a, [(r.b != 0, 20)])
  | 2 => some (.tall r.form r.d r.a, [(r.b != 0, 20)])
  | _ => none

/-- Major 0x3C, selected by F. -/
def parse3C (r : Raw) : Option (Instr × List (Bool × Nat)) :=
  match r.f.toNat with
  | 0 => if r.b.getLsbD 0 then some (.mattW r.form r.d r.a, [(r.b.extractLsb' 1 5 != 0, 21)]) else some (.matt r.form r.d r.a, [(r.b.extractLsb' 1 5 != 0, 21)])
  | 1 => some (.mdet r.form, [(r.d != 0, 8), (r.a != 0, 14), (r.b != 0, 20)])
  | 2 => some (.mma r.form r.d r.a r.b, [])
  | 3 => some (.mmas r.form r.d r.a r.b, [])
  | 4 => some (.mmav r.form r.d r.a r.b, [])
  | 5 => some (.azero r.form r.d, [(r.a != 0, 14), (r.b != 0, 20)])
  | 6 => some (.ttopk r.form r.d r.a r.b, [])
  | 7 => some (.thrup r.form r.d r.a, [(r.b != 0, 20)])
  | _ => none

/-- Major 0x3D, selected by F. -/
def parse3D (r : Raw) : Option (Instr × List (Bool × Nat)) :=
  match r.f.toNat with
  | 0 => some (.tmap r.form r.d r.a r.b, [])
  | 1 => some (.tmapr r.form r.d r.a r.b, [])
  | _ => none

/-- Major 0x3E, selected by F. -/
def parse3E (r : Raw) : Option (Instr × List (Bool × Nat)) :=
  match r.f.toNat with
  | 0 => some (.tcred r.form r.d r.a r.b, [])
  | 1 => some (.tcbc r.form r.d r.a r.b, [])
  | 2 => some (.tcag r.form r.d r.a r.b, [])
  | _ => none

/-- Major 0x3F, selected by F. -/
def parse3F (r : Raw) : Option (Instr × List (Bool × Nat)) :=
  match r.f.toNat with
  | 0 => some (.monset r.form r.b r.a, [(r.d != 0, 8)])
  | 1 => some (.monref r.form r.b r.a, [(r.d != 0, 8)])
  | 2 => some (.monrd r.form r.d r.a r.b, [])
  | 3 => some (.monclr r.form r.a, [(r.d != 0, 8), (r.b != 0, 20)])
  | _ => none

/-- The instruction an allocated major holds, with the checks of its reserved fields (R85); none for an unallocated function. -/
def parse (r : Raw) : Option (Instr × List (Bool × Nat)) :=
  if r.major = 0x01#6 then parse01 r
  else if r.major = 0x02#6 then parse02 r
  else if r.major = 0x03#6 then parse03 r
  else if r.major = 0x04#6 then parse04 r
  else if r.major = 0x05#6 then parse05 r
  else if r.major = 0x06#6 then parse06 r
  else if r.major = 0x07#6 then parse07 r
  else if r.major = 0x08#6 then parse08 r
  else if r.major = 0x09#6 then parse09 r
  else if r.major = 0x0A#6 then parse0A r
  else if r.major = 0x0B#6 then parse0B r
  else if r.major = 0x0C#6 then parse0C r
  else if r.major = 0x0D#6 then parse0D r
  else if r.major = 0x0E#6 then parse0E r
  else if r.major = 0x10#6 then parse10 r
  else if r.major = 0x11#6 then parse11 r
  else if r.major = 0x12#6 then parse12 r
  else if r.major = 0x13#6 then parse13 r
  else if r.major = 0x14#6 then parse14 r
  else if r.major = 0x15#6 then parse15 r
  else if r.major = 0x16#6 then parse16 r
  else if r.major = 0x17#6 then parse17 r
  else if r.major = 0x18#6 then parse18 r
  else if r.major = 0x19#6 then parse19 r
  else if r.major = 0x1A#6 then parse1A r
  else if r.major = 0x1B#6 then parse1B r
  else if r.major = 0x1C#6 then parse1C r
  else if r.major = 0x1D#6 then parse1D r
  else if r.major = 0x1E#6 then parse1E r
  else if r.major = 0x1F#6 then parse1F r
  else if r.major = 0x20#6 then parse20 r
  else if r.major = 0x21#6 then parse21 r
  else if r.major = 0x22#6 then parse22 r
  else if r.major = 0x23#6 then parse23 r
  else if r.major = 0x24#6 then parse24 r
  else if r.major = 0x25#6 then parse25 r
  else if r.major = 0x26#6 then parse26 r
  else if r.major = 0x27#6 then parse27 r
  else if r.major = 0x30#6 then parse30 r
  else if r.major = 0x31#6 then parse31 r
  else if r.major = 0x32#6 then parse32 r
  else if r.major = 0x33#6 then parse33 r
  else if r.major = 0x34#6 then parse34 r
  else if r.major = 0x35#6 then parse35 r
  else if r.major = 0x36#6 then parse36 r
  else if r.major = 0x37#6 then parse37 r
  else if r.major = 0x38#6 then parse38 r
  else if r.major = 0x3C#6 then parse3C r
  else if r.major = 0x3D#6 then parse3D r
  else if r.major = 0x3E#6 then parse3E r
  else if r.major = 0x3F#6 then parse3F r
  else none

/-- The main map's decoder over split words: the instruction, or the lowest offending bit (R85, R86). -/
def decodeRaw (r : Raw) : Except Nat Instr :=
  if r.len = 3 then .error 0
  else match majorLens r.major with
    | none => .error 2
    | some lens =>
      if !lens.ok r.len then .error 0
      else match parse r with
        | none => .error 26
        | some (i, rsv) =>
          match lowest (rsv ++ (match instrInfo i with | some x => x.faults | none => [])) with
          | some n => .error n
          | none => .ok i

/-- The main map's decoder over the words of an instruction (words beyond its length do not count). -/
def decodeWords (w0 w1 w2 : Word) : Except Nat Instr := decodeRaw (splitWords w0 w1 w2)

/-- The little-endian word at the head of a byte sequence (R6); missing bytes read as 0. -/
def wordAt (bs : List Byte) (n : Nat) : Word := BitVec.ofNat 32 (Machine.ofLe ((bs.drop n).take 4))

/-- Why bytes hold no instruction. -/
inductive DecodeError where
  | short             -- fewer bytes than the instruction's length
  | illegal (bit : Nat) -- R85: the lowest bit of the lowest offending field
  deriving DecidableEq, Repr

/-- The decoder over bytes: the instruction and the bytes after it. -/
def decode (bs : List Byte) : Except DecodeError (Instr × List Byte) :=
  let w0 := wordAt bs 0
  let n := if extraWords w0 = 3 then 4 else 4 * (extraWords w0 + 1)
  if bs.length < n then .error .short
  else match decodeWords w0 (wordAt bs 4) (wordAt bs 8) with
    | .error k => .error (.illegal k)
    | .ok i => .ok (i, bs.drop n)

/-- %tcause.DETAIL of an encoding fault whose lowest offending bit is n (R86). -/
def illegalDetail (n : Nat) : BitVec 16 := BitVec.ofNat 16 (0x8000 + n)

/-- The lane map (R89, R90): the instruction a lane word holds with the checks of its reserved fields; none when unallocated. -/
def parseLane (w : Word) : Option (Instr × List (Bool × Nat)) :=
  let d : R6 := w.extractLsb' 8 6
  let a : R6 := w.extractLsb' 14 6
  let b : R6 := w.extractLsb' 20 6
  let c : R6 := w.extractLsb' 26 6
  match (w.extractLsb' 2 6).toNat with
  | 0x01 => some (.ladd c b a d, [])
  | 0x02 => some (.lsub c b a d, [])
  | 0x03 => some (.lmul c b a d, [])
  | 0x04 => some (.lfma c b a d, [])
  | 0x05 => some (.ldiv c b a d, [])
  | 0x06 => some (.land c b a d, [])
  | 0x07 => some (.lor c b a d, [])
  | 0x08 => some (.lxor c b a d, [])
  | 0x09 => some (.lshl c b a d, [])
  | 0x0A => some (.lshr c b a d, [])
  | 0x0B => some (.lsra c b a d, [])
  | 0x0C => some (.lcmp c b a d, [])
  | 0x0D => some (.lsel c b a d, [])
  | 0x0E => some (.lmin c b a d, [])
  | 0x0F => some (.lmax c b a d, [])
  | 0x10 => some (.lcvt c b a d, [])
  | 0x11 => some (.lclz c a d, [(b != 0, 20)])
  | 0x12 => some (.lpopc c a d, [(b != 0, 20)])
  | 0x13 => some (.lexp2 c a d, [(b != 0, 20)])
  | 0x14 => some (.llog2 c a d, [(b != 0, 20)])
  | 0x15 => some (.lrsq c a d, [(b != 0, 20)])
  | 0x16 => some (.lli (w.extractLsb' 14 18) (w.getLsbD 13) (w.extractLsb' 8 5), [])
  | 0x17 => some (.lmov c a d, [(b != 0, 20)])
  | 0x18 => some (.lld (w.extractLsb' 20 12) a d, [])
  | 0x19 => some (.lst (w.extractLsb' 20 12) a d, [])
  | 0x1A => some (.lldt c b a d, [])
  | 0x1B => some (.lstt c b a d, [])
  | 0x1C => some (.lbr (w.extractLsb' 14 18) d, [])
  | 0x1D => some (.lj (w.extractLsb' 8 24), [])
  | 0x1E => some (.lcall (w.extractLsb' 8 24), [])
  | 0x1F => some (.lret, [(d != 0, 8), (a != 0, 14), (b != 0, 20), (c != 0, 26)])
  | 0x20 => some (.lend, [(d != 0, 8), (a != 0, 14), (b != 0, 20), (c != 0, 26)])
  | _ => none

/-- The lane-function decoder: the instruction, or the lowest offending bit within the lane word (R89 to R91). -/
def decodeLane (w : Word) : Except Nat Instr :=
  if w.extractLsb' 0 2 != 0#2 then .error 0
  else match parseLane w with
    | none => .error 2
    | some (i, rsv) =>
      match lowest (rsv ++ (laneFaults i).getD []) with
      | some n => .error n
      | none => .ok i

/-- The instruction that bits numbered as the opcode table numbers them hold: bit 0 the least significant bit of word 0, the modifier
word from bit 32, the literal word from bit 64 (R77). Bits above nbits are 0. -/
def decodeTableWord (nbits w : Nat) : Option Instr :=
  match decode (Machine.leBytes 12 (w % 2 ^ nbits)) with
  | .ok (i, _) => some i
  | .error _ => none

/-! The encoder, written from the same tables. -/

/-- Split words of an instruction in a form. -/
def Raw.ofForm (x : Form) (major f b a d : R6) : Raw :=
  { len := x.len, major, f, b, a, d, m := x.mods, lit := x.lit }

/-- Word 0 (R78). -/
def Raw.word0 (r : Raw) : Word := r.f ++ r.b ++ r.a ++ r.d ++ r.major ++ r.len

/-- The modifier word (R80). -/
def Mods.word (m : Mods) : Word :=
  m.ord ++ BitVec.ofBool m.v ++ m.ty ++ m.scope ++ BitVec.ofBool m.sat ++ m.rnd ++ BitVec.ofBool m.pneg ++ m.psel ++ m.pmode ++ m.c

/-- The fields of a main-map instruction (R78, R87); none for every other row. -/
def instrRaw : Instr → Option Raw
  | .add f d a b => some (Raw.ofForm f 0x01 0x00 b a d)
  | .sub f d a b => some (Raw.ofForm f 0x01 0x01 b a d)
  | .mul f d a b => some (Raw.ofForm f 0x01 0x02 b a d)
  | .mulh f d a b => some (Raw.ofForm f 0x01 0x03 b a d)
  | .mulhn f d a b => some (Raw.ofForm f 0x01 0x04 b a d)
  | .div f d a b => some (Raw.ofForm f 0x01 0x05 b a d)
  | .divn f d a b => some (Raw.ofForm f 0x01 0x06 b a d)
  | .rem f d a b => some (Raw.ofForm f 0x01 0x07 b a d)
  | .remn f d a b => some (Raw.ofForm f 0x01 0x08 b a d)
  | .and_ f d a b => some (Raw.ofForm f 0x01 0x09 b a d)
  | .or_ f d a b => some (Raw.ofForm f 0x01 0x0A b a d)
  | .xor_ f d a b => some (Raw.ofForm f 0x01 0x0B b a d)
  | .andn f d a b => some (Raw.ofForm f 0x01 0x0C b a d)
  | .shl f d a b => some (Raw.ofForm f 0x01 0x0D b a d)
  | .shr f d a b => some (Raw.ofForm f 0x01 0x0E b a d)
  | .sra f d a b => some (Raw.ofForm f 0x01 0x0F b a d)
  | .rotr f d a b => some (Raw.ofForm f 0x01 0x10 b a d)
  | .min_ f d a b => some (Raw.ofForm f 0x01 0x11 b a d)
  | .max_ f d a b => some (Raw.ofForm f 0x01 0x12 b a d)
  | .minn f d a b => some (Raw.ofForm f 0x01 0x13 b a d)
  | .maxn f d a b => some (Raw.ofForm f 0x01 0x14 b a d)
  | .addI f imm d a => some (Raw.ofForm f 0x02 (imm.extractLsb' 6 6) (imm.extractLsb' 0 6) a d)
  | .andI f imm d a => some (Raw.ofForm f 0x03 (imm.extractLsb' 6 6) (imm.extractLsb' 0 6) a d)
  | .orI f imm d a => some (Raw.ofForm f 0x04 (imm.extractLsb' 6 6) (imm.extractLsb' 0 6) a d)
  | .xorI f imm d a => some (Raw.ofForm f 0x05 (imm.extractLsb' 6 6) (imm.extractLsb' 0 6) a d)
  | .shlI f n d a => some (Raw.ofForm f 0x06 0x00 n a d)
  | .shrI f n d a => some (Raw.ofForm f 0x06 0x01 n a d)
  | .sraI f n d a => some (Raw.ofForm f 0x06 0x02 n a d)
  | .rotrI f n d a => some (Raw.ofForm f 0x06 0x03 n a d)
  | .clz f d a => some (Raw.ofForm f 0x07 0x00 0 a d)
  | .ctz f d a => some (Raw.ofForm f 0x07 0x01 0 a d)
  | .popc f d a => some (Raw.ofForm f 0x07 0x02 0 a d)
  | .sext f d a b => some (Raw.ofForm f 0x07 0x03 b a d)
  | .zext f d a b => some (Raw.ofForm f 0x07 0x04 b a d)
  | .mov f d a => some (Raw.ofForm f 0x07 0x05 0 a d)
  | .cmp f cc d a b => some (Raw.ofForm f 0x08 cc b a d)
  | .sel f n k d a b => some (Raw.ofForm f 0x09 (0#2 ++ BitVec.ofBool n ++ k) b a d)
  | .li f h d => some (Raw.ofForm f 0x0A h 0 0 d)
  | .fadd f p d a b => some (Raw.ofForm f 0x0B (BitVec.ofBool p ++ 0#5) b a d)
  | .fsub f p d a b => some (Raw.ofForm f 0x0B (BitVec.ofBool p ++ 1#5) b a d)
  | .fmul f p d a b => some (Raw.ofForm f 0x0B (BitVec.ofBool p ++ 2#5) b a d)
  | .fdiv f p d a b => some (Raw.ofForm f 0x0B (BitVec.ofBool p ++ 3#5) b a d)
  | .fmin f p d a b => some (Raw.ofForm f 0x0B (BitVec.ofBool p ++ 4#5) b a d)
  | .fmax f p d a b => some (Raw.ofForm f 0x0B (BitVec.ofBool p ++ 5#5) b a d)
  | .fcmp f p cc d a b => some (Raw.ofForm f 0x0C (BitVec.ofBool p ++ 0#2 ++ cc) b a d)
  | .fcvt f dt st d a => some (Raw.ofForm f 0x0D dt st a d)
  | .fclass f p d a => some (Raw.ofForm f 0x0E (BitVec.ofBool p ++ 0#5) 0 a d)
  | .br f off n k => some (Raw.ofForm f 0x10 (off.extractLsb' 12 6) (off.extractLsb' 6 6) (off.extractLsb' 0 6) (BitVec.ofBool n ++ 0#2 ++ k))
  | .brz f off a => some (Raw.ofForm f 0x11 (off.extractLsb' 12 6) (off.extractLsb' 6 6) (off.extractLsb' 0 6) a)
  | .bnz f off a => some (Raw.ofForm f 0x12 (off.extractLsb' 12 6) (off.extractLsb' 6 6) (off.extractLsb' 0 6) a)
  | .jmp f off => some (Raw.ofForm f 0x13 (off.extractLsb' 18 6) (off.extractLsb' 12 6) (off.extractLsb' 6 6) (off.extractLsb' 0 6))
  | .call f off => some (Raw.ofForm f 0x14 (off.extractLsb' 18 6) (off.extractLsb' 12 6) (off.extractLsb' 6 6) (off.extractLsb' 0 6))
  | .jr f d a => some (Raw.ofForm f 0x15 0x00 0 a d)
  | .ret f => some (Raw.ofForm f 0x15 0x01 0 0 0)
  | .loopn cnt len a => some (Raw.ofForm .w32 0x16 (cnt.extractLsb' 7 6) (cnt.extractLsb' 1 6) ((cnt.extractLsb' 0 1) ++ len) a)
  | .endlp => some (Raw.ofForm .w32 0x17 0x00 0 0 0)
  | .brkl n k => some (Raw.ofForm .w32 0x17 0x01 0 (BitVec.ofBool n ++ 0#2 ++ k) 0)
  | .ld f imm sz d a => some (Raw.ofForm f 0x18 (imm.extractLsb' 3 6) (imm.extractLsb' 0 3 ++ sz) a d)
  | .st f imm sz d a => some (Raw.ofForm f 0x19 (imm.extractLsb' 3 6) (imm.extractLsb' 0 3 ++ sz) a d)
  | .lds f imm sz d a => some (Raw.ofForm f 0x1A (imm.extractLsb' 3 6) (imm.extractLsb' 0 3 ++ sz) a d)
  | .sts f imm sz d a => some (Raw.ofForm f 0x1B (imm.extractLsb' 3 6) (imm.extractLsb' 0 3 ++ sz) a d)
  | .amoAdd f w d a b => some (Raw.ofForm f 0x1C (BitVec.ofBool w ++ 0#5) b a d)
  | .amoAnd f w d a b => some (Raw.ofForm f 0x1C (BitVec.ofBool w ++ 1#5) b a d)
  | .amoOr f w d a b => some (Raw.ofForm f 0x1C (BitVec.ofBool w ++ 2#5) b a d)
  | .amoXor f w d a b => some (Raw.ofForm f 0x1C (BitVec.ofBool w ++ 3#5) b a d)
  | .amoMin f w d a b => some (Raw.ofForm f 0x1C (BitVec.ofBool w ++ 4#5) b a d)
  | .amoMax f w d a b => some (Raw.ofForm f 0x1C (BitVec.ofBool w ++ 5#5) b a d)
  | .amoMinn f w d a b => some (Raw.ofForm f 0x1C (BitVec.ofBool w ++ 6#5) b a d)
  | .amoMaxn f w d a b => some (Raw.ofForm f 0x1C (BitVec.ofBool w ++ 7#5) b a d)
  | .amoSwap f w d a b => some (Raw.ofForm f 0x1C (BitVec.ofBool w ++ 8#5) b a d)
  | .cas f w d a b => some (Raw.ofForm f 0x1C (BitVec.ofBool w ++ 9#5) b a d)
  | .fenceCt f sc => some (Raw.ofForm f 0x1D 0x00 (0#2 ++ sc) 0 0)
  | .fenceTc f sc => some (Raw.ofForm f 0x1D 0x01 (0#2 ++ sc) 0 0)
  | .fenceTt f sc => some (Raw.ofForm f 0x1D 0x02 (0#2 ++ sc) 0 0)
  | .fenceAll f sc => some (Raw.ofForm f 0x1D 0x03 (0#2 ++ sc) 0 0)
  | .tdrain f => some (Raw.ofForm f 0x1D 0x04 0 0 0)
  | .bar f sc a => some (Raw.ofForm f 0x1D 0x05 (0#2 ++ sc) a 0)
  | .waitaEq f d a b => some (Raw.ofForm f 0x1D 0x06 b a d)
  | .waitaNe f d a b => some (Raw.ofForm f 0x1D 0x07 b a d)
  | .waitaGen f d a b => some (Raw.ofForm f 0x1D 0x08 b a d)
  | .slpt f a => some (Raw.ofForm f 0x1D 0x09 0 a 0)
  | .rdtime f d => some (Raw.ofForm f 0x1E 0x00 0 0 d)
  | .yield_ f => some (Raw.ofForm f 0x1E 0x01 0 0 0)
  | .exit f => some (Raw.ofForm f 0x1E 0x02 0 0 0)
  | .nop f => some (Raw.ofForm f 0x1E 0x03 0 0 0)
  | .rdsr f b d => some (Raw.ofForm f 0x1E 0x04 b 0 d)
  | .wrsr f b a => some (Raw.ofForm f 0x1E 0x05 b a 0)
  | .eret f => some (Raw.ofForm f 0x1E 0x06 0 0 0)
  | .trap f imm => some (Raw.ofForm f 0x1E 0x07 (imm.extractLsb' 6 6) (imm.extractLsb' 0 6) 0)
  | .bbx f imm => some (Raw.ofForm f 0x1E 0x08 (imm.extractLsb' 6 6) (imm.extractLsb' 0 6) 0)
  | .qcfg f b a => some (Raw.ofForm f 0x1F 0x00 b a 0)
  | .qtry f b d => some (Raw.ofForm f 0x1F 0x01 b 0 d)
  | .launch f d a b => some (Raw.ofForm f 0x1F 0x02 b a d)
  | .heatq f d a b => some (Raw.ofForm f 0x1F 0x03 b a d)
  | .tshape f d a b => some (Raw.ofForm f 0x20 0x00 b a d)
  | .tbind f d a => some (Raw.ofForm f 0x20 0x01 0 a d)
  | .tbound f p d a => some (Raw.ofForm f 0x20 0x02 (0#4 ++ p) a d)
  | .tmon f d a => some (Raw.ofForm f 0x20 0x03 0 a d)
  | .tverd f d a b => some (Raw.ofForm f 0x20 0x04 b a d)
  | .tfree f d => some (Raw.ofForm f 0x20 0x05 0 0 d)
  | .trdsh f d a b => some (Raw.ofForm f 0x20 0x06 b a d)
  | .tld f imm op d a => some (Raw.ofForm f 0x21 (imm.extractLsb' 2 6) (imm.extractLsb' 0 2 ++ op) a d)
  | .tst f imm op d a => some (Raw.ofForm f 0x22 (imm.extractLsb' 2 6) (imm.extractLsb' 0 2 ++ op) a d)
  | .tstr f imm op d a => some (Raw.ofForm f 0x23 (imm.extractLsb' 2 6) (imm.extractLsb' 0 2 ++ op) a d)
  | .tldg f d a b => some (Raw.ofForm f 0x24 0 b a d)
  | .tstg f d a b => some (Raw.ofForm f 0x25 0 b a d)
  | .tcopy f d a => some (Raw.ofForm f 0x26 0x00 0 a d)
  | .tfill f d a => some (Raw.ofForm f 0x26 0x01 0 a d)
  | .tiota f d a b => some (Raw.ofForm f 0x26 0x02 b a d)
  | .ttrans f d a => some (Raw.ofForm f 0x26 0x03 0 a d)
  | .tcvt f d a => some (Raw.ofForm f 0x26 0x04 0 a d)
  | .tbfly f ch h d a => some (Raw.ofForm f 0x26 0x05 (0#2 ++ BitVec.ofBool ch ++ h) a d)
  | .tcmpr f d a b => some (Raw.ofForm f 0x26 0x06 b a d)
  | .texpd f d a b => some (Raw.ofForm f 0x26 0x07 b a d)
  | .tbcast f r d a => some (Raw.ofForm f 0x26 0x08 (0#5 ++ BitVec.ofBool r) a d)
  | .tsend f d a => some (Raw.ofForm f 0x27 0x00 0 a d)
  | .trecv f d a => some (Raw.ofForm f 0x27 0x01 0 a d)
  | .tldl f b a => some (Raw.ofForm f 0x27 0x02 b a 0)
  | .tstl f b d => some (Raw.ofForm f 0x27 0x03 b 0 d)
  | .tadd f d a b => some (Raw.ofForm f 0x30 0x00 b a d)
  | .tsub f d a b => some (Raw.ofForm f 0x30 0x01 b a d)
  | .tmul f d a b => some (Raw.ofForm f 0x30 0x02 b a d)
  | .tdiv f d a b => some (Raw.ofForm f 0x30 0x03 b a d)
  | .tmin f d a b => some (Raw.ofForm f 0x30 0x04 b a d)
  | .tmax f d a b => some (Raw.ofForm f 0x30 0x05 b a d)
  | .tscale f d a b => some (Raw.ofForm f 0x30 0x06 b a d)
  | .tfma f d a b => some (Raw.ofForm f 0x31 0x00 b a d)
  | .tclamp f d a b => some (Raw.ofForm f 0x31 0x01 b a d)
  | .tsel f d a b => some (Raw.ofForm f 0x31 0x02 b a d)
  | .tsqrt f d a => some (Raw.ofForm f 0x32 0x00 0 a d)
  | .trsq f d a => some (Raw.ofForm f 0x32 0x01 0 a d)
  | .trcp f d a => some (Raw.ofForm f 0x32 0x02 0 a d)
  | .texp2 f d a => some (Raw.ofForm f 0x32 0x03 0 a d)
  | .tlog2 f d a => some (Raw.ofForm f 0x32 0x04 0 a d)
  | .tabs f d a => some (Raw.ofForm f 0x32 0x05 0 a d)
  | .tneg f d a => some (Raw.ofForm f 0x32 0x06 0 a d)
  | .tcmp f cc d a b => some (Raw.ofForm f 0x33 cc b a d)
  | .tand f d a b => some (Raw.ofForm f 0x34 0x00 b a d)
  | .tor f d a b => some (Raw.ofForm f 0x34 0x01 b a d)
  | .txor f d a b => some (Raw.ofForm f 0x34 0x02 b a d)
  | .tnot f d a => some (Raw.ofForm f 0x34 0x03 0 a d)
  | .tshl f d a b => some (Raw.ofForm f 0x34 0x04 b a d)
  | .tshr f d a b => some (Raw.ofForm f 0x34 0x05 b a d)
  | .tsra f d a b => some (Raw.ofForm f 0x34 0x06 b a d)
  | .tclz f d a => some (Raw.ofForm f 0x34 0x07 0 a d)
  | .tctz f d a => some (Raw.ofForm f 0x34 0x08 0 a d)
  | .tpopc f d a => some (Raw.ofForm f 0x34 0x09 0 a d)
  | .tred f r o d a b => some (Raw.ofForm f 0x35 (0#1 ++ r ++ o) b a d)
  | .tscan f r o d a => some (Raw.ofForm f 0x36 (0#1 ++ r ++ o) 0 a d)
  | .targmx f r d a => some (Raw.ofForm f 0x37 (0#4 ++ r) 0 a d)
  | .tchkf f d a => some (Raw.ofForm f 0x38 0x00 0 a d)
  | .tany f d a => some (Raw.ofForm f 0x38 0x01 0 a d)
  | .tall f d a => some (Raw.ofForm f 0x38 0x02 0 a d)
  | .matt f d a => some (Raw.ofForm f 0x3C 0x00 0x00 a d)
  | .mattW f d a => some (Raw.ofForm f 0x3C 0x00 0x01 a d)
  | .mdet f => some (Raw.ofForm f 0x3C 0x01 0 0 0)
  | .mma f d a b => some (Raw.ofForm f 0x3C 0x02 b a d)
  | .mmas f d a b => some (Raw.ofForm f 0x3C 0x03 b a d)
  | .mmav f d a b => some (Raw.ofForm f 0x3C 0x04 b a d)
  | .azero f d => some (Raw.ofForm f 0x3C 0x05 0 0 d)
  | .ttopk f d a b => some (Raw.ofForm f 0x3C 0x06 b a d)
  | .thrup f d a => some (Raw.ofForm f 0x3C 0x07 0 a d)
  | .tmap f d a b => some (Raw.ofForm f 0x3D 0x00 b a d)
  | .tmapr f d a b => some (Raw.ofForm f 0x3D 0x01 b a d)
  | .tcred f d a b => some (Raw.ofForm f 0x3E 0x00 b a d)
  | .tcbc f d a b => some (Raw.ofForm f 0x3E 0x01 b a d)
  | .tcag f d a b => some (Raw.ofForm f 0x3E 0x02 b a d)
  | .monset f b a => some (Raw.ofForm f 0x3F 0x00 b a 0)
  | .monref f b a => some (Raw.ofForm f 0x3F 0x01 b a 0)
  | .monrd f d a b => some (Raw.ofForm f 0x3F 0x02 b a d)
  | .monclr f a => some (Raw.ofForm f 0x3F 0x03 0 a 0)
  | _ => none

/-- A lane word in format LR (R89). -/
def laneWordLR (c b a d major : R6) : Word := c ++ b ++ a ++ d ++ major ++ 0#2

/-- The word of a lane-function instruction (R89, R90); none for every other row. -/
def laneWord : Instr → Option Word
  | .ladd c b a d => some (laneWordLR c b a d 0x01)
  | .lsub c b a d => some (laneWordLR c b a d 0x02)
  | .lmul c b a d => some (laneWordLR c b a d 0x03)
  | .lfma c b a d => some (laneWordLR c b a d 0x04)
  | .ldiv c b a d => some (laneWordLR c b a d 0x05)
  | .land c b a d => some (laneWordLR c b a d 0x06)
  | .lor c b a d => some (laneWordLR c b a d 0x07)
  | .lxor c b a d => some (laneWordLR c b a d 0x08)
  | .lshl c b a d => some (laneWordLR c b a d 0x09)
  | .lshr c b a d => some (laneWordLR c b a d 0x0A)
  | .lsra c b a d => some (laneWordLR c b a d 0x0B)
  | .lcmp c b a d => some (laneWordLR c b a d 0x0C)
  | .lsel c b a d => some (laneWordLR c b a d 0x0D)
  | .lmin c b a d => some (laneWordLR c b a d 0x0E)
  | .lmax c b a d => some (laneWordLR c b a d 0x0F)
  | .lcvt c b a d => some (laneWordLR c b a d 0x10)
  | .lldt c b a d => some (laneWordLR c b a d 0x1A)
  | .lstt c b a d => some (laneWordLR c b a d 0x1B)
  | .lclz c a d => some (laneWordLR c 0 a d 0x11)
  | .lpopc c a d => some (laneWordLR c 0 a d 0x12)
  | .lexp2 c a d => some (laneWordLR c 0 a d 0x13)
  | .llog2 c a d => some (laneWordLR c 0 a d 0x14)
  | .lrsq c a d => some (laneWordLR c 0 a d 0x15)
  | .lmov c a d => some (laneWordLR c 0 a d 0x17)
  | .lli i h d => some (i ++ BitVec.ofBool h ++ d ++ 0x16#6 ++ 0#2)
  | .lld i a d => some (i ++ a ++ d ++ 0x18#6 ++ 0#2)
  | .lst i a d => some (i ++ a ++ d ++ 0x19#6 ++ 0#2)
  | .lbr off a => some (off ++ a ++ 0x1C#6 ++ 0#2)
  | .lj off => some (off ++ 0x1D#6 ++ 0#2)
  | .lcall off => some (off ++ 0x1E#6 ++ 0#2)
  | .lret => some (laneWordLR 0 0 0 0 0x1F)
  | .lend => some (laneWordLR 0 0 0 0 0x20)
  | _ => none

/-- The words of split fields, first word first. -/
def Raw.words (r : Raw) : List Word :=
  if r.len = 0 then [r.word0] else if r.len = 1 then [r.word0, r.m.word] else [r.word0, r.m.word, r.lit]

/-- The words of an instruction, first word first; none for an engine command or an event. -/
def encode (i : Instr) : List Word :=
  match instrRaw i, laneWord i with
  | some r, _ => r.words
  | none, some w => [w]
  | none, none => []

/-- The bytes of an instruction as memory holds them (R6, R77). -/
def encodeBytes (i : Instr) : List Byte := (encode i).flatMap (fun w => Machine.leBytes 4 w.toNat)

end Sys2Proof
end

