-- ==== Sys2Proof/Config.lean ====
section
/-! DEFINITION. What the spec leaves open for good: free values, which nothing can evaluate, and the two cryptographic services it names
without their contents (log 2, log 20). -/

namespace Sys2Proof

/-- The n-th free bit: whether an unpersisted sector survives a warm reset (R258), or a byte that a CPY6's source and destination share is
written (R93). -/
opaque Config.freeBool : Nat → Bool

/-- The n-th free integer: the slew that removes a measured offset, within SLEWMAX (R368). -/
opaque Config.freeInt : Nat → Int

/-- Whether an ML-DSA-65 signature verifies: key, message, signature (R384). -/
opaque Config.mldsaVerify : List Byte → List Byte → List Byte → Bool

/-- The content of the ROM, which the spec does not give (R388). -/
opaque Config.rom : List Byte

/-- The certificate chain of slot 0, which ends at Tuisal's root key (R388). -/
opaque Config.certChain : List Byte

/-- The answer to an SPDM 1.4 request for neither a certificate nor a measurement (R388 names SPDM 1.4 without its contents). -/
opaque Config.spdmAnswer : List Byte → List Byte

/-- Whether a command to raise a class's fused version to a value bears a valid signature (R384 names neither its key nor its form). -/
opaque Config.svnSigned : Nat → Nat → List Byte → Bool

/-- The ML-DSA-65 signature of a message under the device's key (R388). -/
opaque Config.mldsaSign : List Byte → List Byte

/-- Whether a positive offset of QTBSTAT says that the QTB is ahead of its source (R368 does not say). -/
opaque Config.qtbAhead : Bool

end Sys2Proof
end

