-- ==== Sys2Proof/Machine/Num.lean ====
section
/-! DEFINITION. Number formats and exact arithmetic (02_number_formats): element types, rounding, conversions and the functions the
instruction chapters name. A finite value is held exactly as m × 2^e; nothing here rounds before the one rounding the spec states. -/

namespace Sys2Proof.Machine

/-- A rounding mode (R56). -/
inductive RMode where
  | rne
  | rtz
  | rup
  | rdn
  deriving DecidableEq, Repr

/-- The mode of a two-bit code (R56). -/
def RMode.ofCode (c : Nat) : RMode := if c % 4 = 0 then .rne else if c % 4 = 1 then .rtz else if c % 4 = 2 then .rup else .rdn

/-- A floating-point format: exponent and fraction widths, and whether it has an infinity (R51, R52). -/
structure Fmt where
  eb : Nat
  fb : Nat
  hasInf : Bool
  deriving DecidableEq, Repr

def fp64 : Fmt := ⟨11, 52, true⟩
def fp32 : Fmt := ⟨8, 23, true⟩
def fp16 : Fmt := ⟨5, 10, true⟩
def bf16 : Fmt := ⟨8, 7, true⟩
def e5m2 : Fmt := ⟨5, 2, true⟩
def e4m3 : Fmt := ⟨4, 3, false⟩

/-- The bias (R51). -/
def Fmt.bias (f : Fmt) : Nat := 2 ^ (f.eb - 1) - 1
/-- Bits of the format. -/
def Fmt.width (f : Fmt) : Nat := f.eb + f.fb + 1
/-- The exponent of the smallest subnormal (R52). -/
def Fmt.qmin (f : Fmt) : Int := 1 - (f.bias : Int) - f.fb
/-- The bits of the largest finite magnitude (R51, R52). -/
def Fmt.maxBits (f : Fmt) : Nat := if f.hasInf then (2 ^ f.eb - 1) * 2 ^ f.fb - 1 else 2 ^ (f.eb + f.fb) - 2
/-- The canonical quiet NaN (R53). -/
def Fmt.qnan (f : Fmt) : Nat := if f.hasInf then (2 ^ f.eb - 1) * 2 ^ f.fb + 2 ^ (f.fb - 1) else 2 ^ (f.eb + f.fb) - 1
/-- The sign bit. -/
def Fmt.signBit (f : Fmt) (neg : Bool) : Nat := b2n neg * 2 ^ (f.eb + f.fb)
/-- The bits of an infinity (R52). -/
def Fmt.infBits (f : Fmt) (neg : Bool) : Nat := f.signBit neg + (2 ^ f.eb - 1) * 2 ^ f.fb

/-- The value of an encoding (R52). A finite value is (−1)^neg × m × 2^e. -/
inductive FVal where
  | nan (signalling : Bool)
  | inf (neg : Bool)
  | fin (neg : Bool) (m : Nat) (e : Int)
  deriving DecidableEq, Repr

/-- The value a bit pattern encodes (R52). -/
def Fmt.value (f : Fmt) (bits : Nat) : FVal :=
  let fr := bits % 2 ^ f.fb
  let ex := bits / 2 ^ f.fb % 2 ^ f.eb
  let neg := bitOf bits (f.eb + f.fb)
  if ex = 2 ^ f.eb - 1 && f.hasInf then
    if fr = 0 then .inf neg else .nan (fr < 2 ^ (f.fb - 1))
  else if ex = 2 ^ f.eb - 1 && fr = 2 ^ f.fb - 1 && !f.hasInf then .nan false
  else if ex = 0 then .fin neg fr f.qmin
  else .fin neg (2 ^ f.fb + fr) (f.qmin + ex - 1)

/-- The five flags as bits (R57). -/
def fNV : Nat := 16
def fDZ : Nat := 8
def fOF : Nat := 4
def fUF : Nat := 2
def fNX : Nat := 1

/-- m / 2^k rounded to an integer in a mode, for a value whose sign is neg; and whether it is inexact (R56). -/
def roundShift (mode : RMode) (neg : Bool) (m k : Nat) : Nat × Bool :=
  let k := min k (Nat.log2 m + 3)
  let q := m / 2 ^ k
  let r := m % 2 ^ k
  let up := match mode with
    | .rne => 2 ^ k < 2 * r || (2 * r = 2 ^ k && q % 2 = 1)
    | .rtz => false
    | .rup => r != 0 && !neg
    | .rdn => r != 0 && neg
  (q + b2n up, r != 0)

/-- m × 2^e rounded to a multiple of 2^q, in units of 2^q (R56). -/
def roundUnits (mode : RMode) (neg : Bool) (m : Nat) (e q : Int) : Nat × Bool :=
  if q ≤ e then (m * 2 ^ (e - q).toNat, false) else roundShift mode neg m (q - e).toNat

/-- round_F of a finite value, its flags with it (R56, R57, R60); sat selects ±largest on overflow. Overflow is judged on the rounded value as
R57 says, so that 465 to E4M3 under RTZ, whose largest is 448, raises NX alone: an example of R60 lists OF with it (log 84). -/
def roundFin (f : Fmt) (mode : RMode) (sat : Bool) (neg : Bool) (m : Nat) (e : Int) : Nat × Nat :=
  if m = 0 then (f.signBit neg, 0) else
  let top : Int := Nat.log2 m + e
  let qn := top - f.fb
  let q := max qn f.qmin
  let (sig, nx) := roundUnits mode neg m e q
  let mag := ((q - f.qmin) * 2 ^ f.fb + sig).toNat
  if f.maxBits < mag then
    let big := f.signBit neg + f.maxBits
    let infinite := if f.hasInf then f.infBits neg else f.qnan
    let toInf := !sat && (match mode with
      | .rne => true
      | .rtz => false
      | .rup => !neg
      | .rdn => neg)
    (if toInf then infinite else big, fOF ||| fNX)
  else
    let (sigU, _) := roundUnits mode neg m e qn
    let tiny := qn < f.qmin && sigU < 2 ^ (f.fb + min 2 (f.qmin - qn).toNat)
    (f.signBit neg + mag, if nx then (if tiny then fUF ||| fNX else fNX) else 0)

/-- round_F of a value; an infinity stays one where the format has it (R60). -/
def roundVal (f : Fmt) (mode : RMode) (sat : Bool) : FVal → Nat × Nat
  | .nan s => (f.qnan, if s then fNV else 0)
  | .inf neg => if f.hasInf then (f.infBits neg, 0) else (f.qnan, fNV)
  | .fin neg m e => roundFin f mode sat neg m e

/-- The signed mantissa. -/
def signed (neg : Bool) (m : Nat) : Int := if neg then -(m : Int) else m

/-- An exact finite value from a signed mantissa; z is the sign of a zero. -/
def finOf (z : Bool) (n : Int) (e : Int) : FVal := if n = 0 then .fin z 0 e else .fin (n < 0) n.natAbs e

/-- The exact sum of two finite values, as mantissa and exponent. -/
def sumDyadic (n1 e1 n2 e2 : Int) : Int × Int :=
  let e := min e1 e2
  (n1 * 2 ^ (e1 - e).toNat + n2 * 2 ^ (e2 - e).toNat, e)

/-- NV when either operand is a signalling NaN (R53). -/
def FVal.isSig : FVal → Bool
  | .nan s => s
  | _ => false

def FVal.isNan : FVal → Bool
  | .nan _ => true
  | _ => false

def FVal.isZero : FVal → Bool
  | .fin _ 0 _ => true
  | _ => false

def FVal.neg? : FVal → Bool
  | .nan _ => false
  | .inf n => n
  | .fin n _ _ => n

def FVal.negate : FVal → FVal
  | .nan s => .nan s
  | .inf n => .inf (!n)
  | .fin n m e => .fin (!n) m e

/-- A quiet NaN result with NV where a signalling operand or an invalid operation asks for it. -/
def nanWith (nv : Bool) : FVal × Nat := (.nan false, if nv then fNV else 0)

/-- a + b, exact (R54, R57). -/
def addVal (mode : RMode) (a b : FVal) : FVal × Nat :=
  match a, b with
  | .nan s, y => nanWith (s || y.isSig)
  | x, .nan s => nanWith (s || x.isSig)
  | .inf n, .inf k => if n = k then (.inf n, 0) else nanWith true
  | .inf n, .fin _ _ _ => (.inf n, 0)
  | .fin _ _ _, .inf k => (.inf k, 0)
  | .fin n1 m1 e1, .fin n2 m2 e2 =>
    let (n, e) := sumDyadic (signed n1 m1) e1 (signed n2 m2) e2
    let z := if n1 = n2 then n1 else decide (mode = .rdn)
    (finOf z n e, 0)

/-- a × b, exact (R54, R57). -/
def mulVal (a b : FVal) : FVal × Nat :=
  match a, b with
  | .nan s, y => nanWith (s || y.isSig)
  | x, .nan s => nanWith (s || x.isSig)
  | .inf n, .inf k => (.inf (n != k), 0)
  | .inf n, .fin k m _ => if m = 0 then nanWith true else (.inf (n != k), 0)
  | .fin k m _, .inf n => if m = 0 then nanWith true else (.inf (n != k), 0)
  | .fin n1 m1 e1, .fin n2 m2 e2 => (.fin (n1 != n2) (m1 * m2) (e1 + e2), 0)

/-- A quotient m1 / m2 to at least 128 bits; a lost remainder is kept as an odd lowest bit, which no rounding to a format confuses with
an exact value. -/
def quotient (neg : Bool) (m1 : Nat) (e1 : Int) (m2 : Nat) (e2 : Int) : FVal :=
  let k := 128 + Nat.log2 m2
  let q := m1 * 2 ^ k / m2
  let r := m1 * 2 ^ k % m2
  .fin neg (2 * q + b2n (r != 0)) (e1 - e2 - k - 1)

/-- a / b (R54, R57). -/
def divVal (a b : FVal) : FVal × Nat :=
  match a, b with
  | .nan s, y => nanWith (s || y.isSig)
  | x, .nan s => nanWith (s || x.isSig)
  | .inf _, .inf _ => nanWith true
  | .inf n, .fin k _ _ => (.inf (n != k), 0)
  | .fin k _ _, .inf n => (.fin (n != k) 0 0, 0)
  | .fin n1 m1 e1, .fin n2 m2 e2 =>
    if m2 = 0 then if m1 = 0 then nanWith true else (.inf (n1 != n2), fDZ)
    else if m1 = 0 then (.fin (n1 != n2) 0 0, 0)
    else (quotient (n1 != n2) m1 e1 m2 e2, 0)

/-- a × b + c with no intermediate rounding (R187, R57: 0 × ∞ raises NV whatever c is). -/
def fmaVal (mode : RMode) (a b c : FVal) : FVal × Nat :=
  let (p, f) := mulVal a b
  let (s, g) := addVal mode p c
  (s, f ||| g)

/-- Comparison of two values that are no NaNs, with −0 = +0: less, equal or greater. -/
def ordVal (a b : FVal) : Ordering :=
  match a, b with
  | .inf n, .inf k => if n = k then .eq else if n then .lt else .gt
  | .inf n, _ => if n then .lt else .gt
  | _, .inf k => if k then .gt else .lt
  | .fin n1 m1 e1, .fin n2 m2 e2 =>
    let d := (sumDyadic (signed n1 m1) e1 (-(signed n2 m2)) e2).1
    if d < 0 then .lt else if d = 0 then .eq else .gt
  | _, _ => .eq

/-- The order of R54: as numbers, with −0 below +0. -/
def ordZero (a b : FVal) : Ordering :=
  match ordVal a b with
  | .eq => if a.isZero && b.isZero && a.neg? != b.neg? then (if a.neg? then .lt else .gt) else .eq
  | o => o

/-- Minimum or maximum (R54). -/
def minMaxVal (max : Bool) (a b : FVal) : FVal × Nat :=
  if a.isSig || b.isSig then (.nan false, fNV)
  else if a.isNan then (if b.isNan then .nan false else b, 0)
  else if b.isNan then (a, 0)
  else match ordZero a b with
    | .lt => (if max then b else a, 0)
    | .eq => (a, 0)
    | .gt => (if max then a else b, 0)

/-- floor(√n), by bits: r² ≤ n is kept while the lower k bits are tried from the top. -/
def isqrtGo (n : Nat) : Nat → Nat → Nat
  | 0, r => r
  | k + 1, r => if (r + 2 ^ k) * (r + 2 ^ k) ≤ n then isqrtGo n k (r + 2 ^ k) else isqrtGo n k r

/-- floor(√n). -/
def isqrt (n : Nat) : Nat := isqrtGo n (Nat.log2 n / 2 + 1) 0

/-- √(m × 2^e) for m > 0, a lost remainder kept as an odd lowest bit. -/
def sqrtFin (m : Nat) (e : Int) : FVal :=
  let up := 256 + (e % 2).toNat          -- e − up is even
  let n := m * 2 ^ up
  let r := isqrt n
  .fin false (2 * r + b2n (r * r != n)) ((e - up) / 2 - 1)

/-- 1/√(m × 2^e) for m > 0. -/
def rsqrtFin (m : Nat) (e : Int) : FVal :=
  let odd := (e % 2).toNat
  let n := m * 2 ^ odd                   -- value n × 2^(e − odd), exponent even
  let k := 2 * (130 + Nat.log2 n)
  let r := isqrt (2 ^ k / n)
  .fin false (2 * r + b2n (r * r * n != 2 ^ k)) (-((k / 2 : Nat) : Int) - (e - odd) / 2 - 1)

/-- Bits kept after the point by the transcendental functions. -/
def fixP : Nat := 512

/-- 2^fixP × atanh(a/b), truncated term by term: Σ (a/b)^(2k+1) / (2k+1). -/
def atanhGo (a2 b2 : Nat) : Nat → Nat → Nat → Nat → Nat
  | 0, _, _, acc => acc
  | n + 1, t, k, acc => atanhGo a2 b2 n (t * a2 / b2) (k + 2) (acc + t / k)

/-- 2^fixP × atanh(a/b) for a/b at most 1/3. -/
def atanhFix (a b : Nat) : Nat := atanhGo (a * a) (b * b) 180 (2 ^ fixP * a / b) 1 0

/-- 2^fixP × ln 2 = 2 atanh(1/3). -/
def ln2Fix : Nat := 2 * atanhFix 1 3

/-- Σ y^k / k! in fixed point. -/
def expGo (y : Nat) : Nat → Nat → Nat → Nat → Nat
  | 0, _, _, acc => acc
  | n + 1, t, k, acc => expGo y n (t * y / 2 ^ fixP / k) (k + 1) (acc + t)

/-- x², n times, in fixed point. -/
def squareFix : Nat → Nat → Nat
  | 0, x => x
  | n + 1, x => squareFix n (x * x / 2 ^ fixP)

/-- 2^fixP × 2^f for f = y / 2^fixP in [0, 1). -/
def exp2Fix (y : Nat) : Nat := squareFix 8 (expGo (y * ln2Fix / 2 ^ (fixP + 8)) 64 (2 ^ fixP) 1 0)

/-- 2^x for finite x. An integer x is exact. Every other result is irrational: it is given to about 400 bits with an odd lowest bit
(log 22: that so many bits decide every rounding is PRESUMED). -/
def exp2Fin (neg : Bool) (m : Nat) (e : Int) : FVal :=
  if 0 ≤ e then .fin false 1 (signed neg m * 2 ^ e.toNat) else
  let k := (-e).toNat
  if m % 2 ^ k = 0 then .fin false 1 (signed neg (m / 2 ^ k))
  else if (Nat.log2 m : Int) + e < -200 then
    .fin false (if neg then 2 ^ 401 - 1 else 2 ^ 401 + 1) (-401)
  else
    let fl := signed neg m / (2 ^ k : Nat)          -- floor
    let fr := (signed neg m % (2 ^ k : Nat)).toNat
    let y := if k ≤ fixP then fr * 2 ^ (fixP - k) else fr / 2 ^ (k - fixP)
    .fin false (2 * (exp2Fix y / 2 ^ 100) + 1) (fl - (fixP - 100 : Nat) - 1)

/-- log2 of m × 2^e, m > 0. A power of two is exact; see exp2Fin for the others. -/
def log2Fin (m : Nat) (e : Int) : FVal :=
  let l := Nat.log2 m
  if m = 2 ^ l then finOf false ((l : Int) + e) 0
  else
    let at_ := atanhFix (m - 2 ^ l) (m + 2 ^ l)
    let v : Int := ((l : Int) + e) * 2 ^ fixP + (2 * at_ * 2 ^ fixP / ln2Fix : Nat)
    .fin (v < 0) (2 * (v.natAbs / 2 ^ 60) + 1) (-(fixP - 60 : Nat) - 1)

/-- The functions of one operand (R187, R192). -/
inductive UnFn where
  | sqrt
  | rsq
  | rcp
  | exp2
  | log2
  deriving DecidableEq, Repr

/-- The exact value of a unary function, with the flags of its special cases (R57, R192). -/
def unVal (g : UnFn) (a : FVal) : FVal × Nat :=
  match a with
  | .nan s => nanWith s
  | .inf n =>
    match g with
    | .sqrt => if n then nanWith true else (.inf false, 0)
    | .rsq => if n then nanWith true else (.fin false 0 0, 0)
    | .rcp => (.fin n 0 0, 0)
    | .exp2 => if n then (.fin false 0 0, 0) else (.inf false, 0)
    | .log2 => if n then nanWith true else (.inf false, 0)
  | .fin n m e =>
    if m = 0 then
      match g with
      | .sqrt => (.fin n 0 0, 0)
      | .rsq => (.inf n, fDZ)
      | .rcp => (.inf n, fDZ)
      | .exp2 => (.fin false 1 0, 0)
      | .log2 => (.inf true, fDZ)
    else
      match g with
      | .sqrt => if n then nanWith true else (sqrtFin m e, 0)
      | .rsq => if n then nanWith true else (rsqrtFin m e, 0)
      | .rcp => (quotient n 1 0 m e, 0)
      | .exp2 => (exp2Fin n m e, 0)
      | .log2 => if n then nanWith true else (log2Fin m e, 0)

/-! Element types (R49). -/

/-- What an element's bits mean: an integer of a width, or a floating-point format. -/
inductive Ty where
  | int (signed : Bool) (w : Nat)
  | fp (f : Fmt)
  deriving DecidableEq, Repr

/-- The type of an element type code; planes gives N for the bit-plane codes; a reserved code reads as n8 and is refused before use. -/
def tyOf (code planes : Nat) : Ty :=
  if code = 0x01 then .int false 8
  else if code = 0x02 then .int false 16
  else if code = 0x03 then .int false 32
  else if code = 0x04 then .int false 64
  else if code = 0x05 then .int true 8
  else if code = 0x06 then .int true 16
  else if code = 0x07 then .int true 32
  else if code = 0x08 then .int true 64
  else if code = 0x10 then .fp e4m3
  else if code = 0x11 then .fp e5m2
  else if code = 0x12 then .fp fp16
  else if code = 0x13 then .fp bf16
  else if code = 0x14 then .fp fp32
  else if code = 0x15 then .fp fp64
  else if code = 0x20 then .int true planes
  else if code = 0x21 then .int false planes
  else .int false 8

/-- Whether the code is allocated (R49). -/
def typeCode (c : Nat) : Bool := (1 ≤ c && c ≤ 8) || (0x10 ≤ c && c ≤ 0x15) || c == 0x20 || c == 0x21
/-- A bit-plane code. -/
def isPlane (c : Nat) : Bool := c == 0x20 || c == 0x21
/-- An integer code other than bit-plane. -/
def isIntCode (c : Nat) : Bool := 1 ≤ c && c ≤ 8
/-- A floating-point code. -/
def isFpCode (c : Nat) : Bool := 0x10 ≤ c && c ≤ 0x15
/-- FP8. -/
def isFp8 (c : Nat) : Bool := c == 0x10 || c == 0x11
/-- FP16, BF16, FP32 or FP64. -/
def isFpBig (c : Nat) : Bool := 0x12 ≤ c && c ≤ 0x15
/-- A signed integer or signed bit-plane code. -/
def isSignedCode (c : Nat) : Bool := (5 ≤ c && c ≤ 8) || c == 0x20

/-- Bits of a type. -/
def Ty.width : Ty → Nat
  | .int _ w => w
  | .fp f => f.width

/-- Bits of an element of a code that is not bit-plane. -/
def codeBits (c : Nat) : Nat := (tyOf c 8).width
/-- element_bytes (R49); 1 for bit-plane codes. -/
def codeBytes (c : Nat) : Nat := if isPlane c then 1 else codeBits c / 8

/-- The integer an element's bits hold. -/
def intVal (sg : Bool) (w bits : Nat) : Int := if sg then sx w bits else (bits % 2 ^ w : Nat)

/-- An integer type's range (R55). -/
def intMin (sg : Bool) (w : Nat) : Int := if sg then -(2 ^ (w - 1) : Nat) else 0
def intMax (sg : Bool) (w : Nat) : Int := if sg then (2 ^ (w - 1) : Nat) - 1 else (2 ^ w : Nat) - 1

/-- Clamp to a range. -/
def clampInt (lo hi x : Int) : Int := if x < lo then lo else if hi < x then hi else x

/-- sat_T, as bits (R55). -/
def satBits (sg : Bool) (w : Nat) (x : Int) : Nat := wrapBits w (clampInt (intMin sg w) (intMax sg w) x)

/-- The value of an element as a real number. -/
def Ty.value (t : Ty) (bits : Nat) : FVal :=
  match t with
  | .int sg w => finOf false (intVal sg w bits) 0
  | .fp f => f.value bits

/-- A finite value rounded to an integer (R56), and whether it is inexact. -/
def toInteger (mode : RMode) (neg : Bool) (m : Nat) (e : Int) : Int × Bool :=
  let (q, nx) := roundUnits mode neg m e 0
  (signed neg q, nx)

/-- FP → iW or nW (R60). -/
def fpToInt (mode : RMode) (sg : Bool) (w : Nat) : FVal → Nat × Nat
  | .nan _ => (0, fNV)
  | .inf n => (wrapBits w (if n then intMin sg w else intMax sg w), fNV)
  | .fin neg m e =>
    let (z, nx) := toInteger mode neg m e
    if z < intMin sg w then (wrapBits w (intMin sg w), fNV)
    else if intMax sg w < z then (wrapBits w (intMax sg w), fNV)
    else (wrapBits w z, if nx then fNX else 0)

/-- Whether every value of the source format is a value of the destination (R60). The same format counts as wider, so that E5M2 to E5M2 keeps an
infinity under .sat, which R60's own row for E5M2 leaves open (log 94). -/
def widerFp (s d : Fmt) : Bool :=
  s == d || d == fp64 || (d == fp32 && s != fp64) || ((d == fp16 || d == bf16) && (s == e4m3 || s == e5m2))

/-- The conversion of a floating-point value to a type (R60); wide says that the destination format is wider. -/
def convFp (d : Ty) (mode : RMode) (sat wide : Bool) (v : FVal) : Nat × Nat :=
  match d with
  | .int sg w => fpToInt mode sg w v
  | .fp f =>
    match v with
    | .inf neg => if sat && !wide then (f.signBit neg + f.maxBits, fNX) else roundVal f mode sat v
    | _ => roundVal f mode sat v

/-- The conversion of an element that is no abandoned result (R60). -/
def convert (s d : Ty) (mode : RMode) (sat : Bool) (bits : Nat) : Nat × Nat :=
  match s, d with
  | .int sg w, .int sg' w' =>
    let z := intVal sg w bits
    (if sat then satBits sg' w' z else wrapBits w' z, 0)
  | .int sg w, .fp f => roundVal f mode sat (finOf false (intVal sg w bits) 0)
  | .fp f, .int sg w => fpToInt mode sg w (f.value bits)
  | .fp f, .fp g => convFp (.fp g) mode sat (widerFp f g) (f.value bits)

/-! The abandoned result (R70 to R73). -/

/-- The abandoned-result encoding of a type code; none for integer, bit-plane and FP8 types (R70). -/
def abnOf (code : Nat) : Option Nat :=
  if code = 0x15 then some 0x7FF0000000000AB0
  else if code = 0x14 then some 0x7F800AB0
  else if code = 0x12 then some 0x7C2B
  else if code = 0x13 then some 0x7F8B
  else none

/-- is_abn (R70). -/
def isAbn (code bits : Nat) : Bool := abnOf code == some bits

/-- vsubst: what TCVT.v writes; sign says that the class is SIGN (R73). -/
def vsubst (sign : Bool) (d : Ty) : Nat :=
  if sign then 0 else
  match d with
  | .int sg w => wrapBits w (intMin sg w)
  | .fp f => if f.hasInf then f.infBits true else f.signBit true + f.maxBits

/-! Sums (R65 to R69, R75). -/

/-- The sign of a sum that is exactly 0: that of its terms when all are zeros of one sign, else +, or − under RDN (R54). -/
def zeroSign (mode : RMode) (vals : List FVal) : Bool :=
  if vals.all (fun v => v.isZero && !v.neg?) then false
  else if vals.all (fun v => v.isZero && v.neg?) then true
  else decide (mode = .rdn)

/-- exact_sum of terms, each with the flags of its product (R54, R66). -/
def exactSum (mode : RMode) (terms : List (FVal × Nat)) : FVal × Nat :=
  let flags := terms.foldl (fun g t => g ||| t.2) 0
  let vals := terms.map (·.1)
  let pos := vals.any (fun v => v == .inf false)
  let neg := vals.any (fun v => v == .inf true)
  if vals.any FVal.isNan then (.nan false, flags ||| (if vals.any FVal.isSig || (pos && neg) then fNV else 0))
  else
    if pos && neg then (.nan false, flags ||| fNV)
    else if pos then (.inf false, flags)
    else if neg then (.inf true, flags)
    else
      let (n, e) := vals.foldl (fun acc v => match v with
        | .fin s m x => sumDyadic acc.1 acc.2 (signed s m) x
        | _ => acc) ((0 : Int), (0 : Int))
      (finOf (zeroSign mode vals) n e, flags)

/-- The value n × 2^e as a number of units of 2^u rounded to nearest even, and whether it is inexact (R75). -/
def unitsOf (n : Int) (e u : Int) : Int × Bool :=
  let (q, nx) := roundUnits .rne (n < 0) n.natAbs e u
  (signed (n < 0) q, nx)

/-- The 32-bit key of an FP32 pattern (R208). -/
def thrKey (bits : Nat) : Nat := if bitOf bits 31 then 0xFFFFFFFF - bits % 2 ^ 32 else bits % 2 ^ 32 + 0x80000000

/-- The value a threshold sample reads as (R208). -/
def thrValue (sample : Nat) : FVal :=
  if 0xFF800000 < sample then .inf false
  else if sample < 0x007FFFFF then .inf true
  else if 0x80000000 ≤ sample then fp32.value (sample - 0x80000000)
  else fp32.value (0xFFFFFFFF - sample)

/-- An exact value below edge(t) (R211): its round_fp32 under RNE is below t. -/
def belowEdge (u : FVal) (t : FVal) : Bool :=
  ordVal (fp32.value (roundVal fp32 .rne false u).1) t == .lt

end Sys2Proof.Machine
end

