-- ==== Sys2Proof/Machine/State.lean ====
section
/-! DEFINITION. The state of the device as plain data (01_execution_model and the register maps of every chapter), what stops a step,
and the state after reset. A field's default is its value after reset. Fields the model adds for itself say so. -/

namespace Sys2Proof.Machine

/-- What stops the machine with a fault. -/
inductive Fault where
  /-- An event names a unit the device does not have (a context above 63, a zone above 23, a link above 27). Raised by the events that
  take a unit's number. Safe: no such event can happen. -/
  | noSuchUnit
  deriving DecidableEq, Repr

/-- Why an instruction has no meaning. -/
inductive Refusal where
  /-- Raised by an arm of the dispatcher whose instruction has no meaning yet; the argument is its mnemonic. Safe: nothing is claimed
  of it. -/
  | notModelled (mnemonic : String)
  deriving DecidableEq, Repr

/-- Bytes by address, in one canonical form: addresses strictly rising and no entry 0, since an unlisted byte reads 0. -/
abbrev Mem := List Host.Cell

/-- A tile shape record: six dwords (R33) and the strip address beside them (R168). -/
structure Tsr where
  d0 : Dword := 0
  d1 : Dword := 0
  d2 : Dword := 0
  d3 : Dword := 0
  d4 : Dword := 0
  d5 : Dword := 0
  strip : VAddr := 0
  deriving DecidableEq, Repr

/-- A queue control word: two dwords (R41). -/
structure Qcw where
  d0 : Dword := 0
  d1 : Dword := 0
  deriving DecidableEq, Repr

/-- One active LOOPN level (R124), with the words its loop buffer has captured (R128): per address, word 0 to the literal. -/
structure Level where
  start : VAddr
  lenm1 : Nat
  count : Nat
  index : Nat
  buf : Tab (Word × Word × Word) := []
  deriving DecidableEq, Repr

/-- The memory agents of a block (R23): its control lane, its tile datapath, and its core's engines acting for it. -/
inductive Agent where
  | c
  | t
  | e
  deriving DecidableEq, Repr

/-- A read-modify-write at a memory port (R132, R133, R173, R256). -/
inductive RmwOp where
  | add
  | and
  | or
  | xor
  | min
  | max
  | minn
  | maxn
  | swap
  | cas
  | red (op etype : Nat) -- TSTR: its operation and element type
  deriving DecidableEq, Repr

/-- What an access does (R129, R132, R133, R173). Bytes of a shared-store write of T are those it replaced. -/
inductive AccKind where
  | rd (sz : BitVec 3) (d : R6)
  | get (n : Nat)                     -- n bytes that a tile instruction or an engine reads from another die or device
  | wr (bytes : List Byte)
  | shw (old : List (Nat × Byte))     -- T's write of shared bytes, already in the store, with the bytes it replaced
  | shc (bytes : List Byte)           -- C's write of shared bytes (STS)
  | rmw (op : RmwOp) (w : Nat) (x y : Dword) (d : R6) (ret : Bool)
  deriving DecidableEq, Repr

/-- An access issued and not yet performed everywhere its agent's order may ask for (R239). -/
structure Pend where
  id : Nat
  agent : Agent
  kind : AccKind
  addr : Nat                 -- virtual address, or shared-store offset
  elem : Nat := 0            -- of T: its element, plane × 65,536 + row × 256 + column
  keys : List Nat := []      -- memory keys of the bytes (two on a replicated page, R238)
  pas : List Nat := []       -- those of them still to be reached
  cacheable : Bool := false  -- page attribute C (R237)
  ord : Nat := 0             -- ORD of R80
  scope : Nat := 0           -- SCOPE of R80
  done : Nat := 0            -- the scope code at which it is performed so far; 0 none
  sent : Bool := false       -- a request flit carries it (R338)
  got : Option (List Byte) := none -- the bytes, or the old value, that it found at its port (R338)
  bad : Option (Nat × Nat) := none -- the cause and DETAIL with which its port or its route refused it (R318, R343)
  owes : Bool := false       -- executed at its far port, its response flit not sent yet
  pc : VAddr := 0
  seq : Nat := 0             -- its instruction's place in program order; an engine command's name
  stamp : Nat := 0           -- order in which it passed the L1 of its core (R236); 0 not yet
  first : Nat := 0           -- order in which it reached the first copy of a replicated page (R238); 0 not yet
  ordC : Bool := false       -- of another agent, ordered before the control lane's later accesses (R246)
  port : Option R6 := none   -- the queue port that a returning atomic's instruction is to push its value to
  pops : List R6 := []       -- pop ports its instruction read, popped once it completes (R107)
  len : Nat := 0             -- the bytes of its instruction, where that completes with it
  deriving DecidableEq, Repr

/-- The state of an element in the cleat (R310). -/
structure CleatEl where
  q : Int
  st : Nat                       -- 0 live, 1 settled, 2 abandoned, 3 overflowed, 4 non-finite
  neg : Bool                     -- sign of the first out-of-range partial
  deriving DecidableEq, Repr

/-- The cleat state of an MMAV (R213, R310). -/
structure Cleat where
  placed : Bool                  -- holds one of the cluster's 4 places (R260)
  els : List CleatEl
  thr : Nat                      -- the effective threshold's key (R209)
  deriving DecidableEq, Repr

/-- A lane-function unit in progress (R219, R220). -/
structure LaneRun where
  els : List (Nat × Nat)         -- elements of the unit still to run, head first
  l : Vector Word 32 := Vector.replicate 32 0
  lpc : VAddr
  stack : List VAddr := []
  carry : Word := 0              -- TMAPR's running value
  results : List (Nat × Nat × Nat) := [] -- row, column, result bits
  flags : Nat := 0
  flagged : List (Nat × Nat × Nat) := [] -- flags raised, with the element whose invocation raised them
  writes : Mem := []             -- lane-store bytes written and not committed, keyed 1,024 × lane + byte
  deriving DecidableEq, Repr

/-- A tile operand as captured at issue (R157). -/
structure Opnd where
  name : Nat
  tsr : Tsr
  inst : Nat
  deriving DecidableEq, Repr

/-- The next unit of a tile instruction, in the fields of %pix (R45). -/
structure Idx where
  step : Nat := 0
  plane : Nat := 0
  row : Nat := 0
  col : Nat := 0
  deriving DecidableEq, Repr

/-- A trap that waits for its entry (R298, R301). -/
structure TrapInfo where
  cause : Nat
  detail : Nat := 0
  ttile : Dword := 0
  telem : Dword := 0
  taddr : Dword := 0
  tport : Dword := 0
  fmask : Dword := 0
  age : Nat := 0                 -- id of the instruction it belongs to (R300)
  pc : Option VAddr := none      -- the address %tpc is to hold, when it is not the next to issue (R301)
  now : Bool := false            -- its entry waits for no tile instruction (R94)
  deriving DecidableEq, Repr

/-- A tile instruction in flight, or the progress record it leaves (R25, R39, R309). -/
structure Flight where
  id : Nat
  pc : VAddr
  instr : Instr
  sc : List Dword := []          -- issue-time scalars in operand order, addresses after R83 or R87
  d : Option Opnd := none
  a : Option Opnd := none
  b : Option Opnd := none
  c : Option Opnd := none
  m : Option Opnd := none
  src : Nat := 0                 -- D's instance before the advance (R36, R37)
  idx : Idx := {}
  fin : Bool := false            -- every unit committed
  rm : Nat := 0                  -- mode() at issue
  grant : Nat := 0               -- %mgrant.GRANT at issue (R205)
  chain : List (Instr × Tsr) := [] -- further members, each with the record of its A (R184)
  fm : Option (List Nat) := none -- fault mask: linear elements (R177)
  unit : Option (Option Idx × List (Nat × Nat)) := none -- a unit whose writes are sent: the index after it, and its elements (R173, R174)
  late : Option TrapInfo := none -- a trap that waits for the writes of its elements that do not fault (R174, R177)
  verd : Option Cleat := none
  lane : Option LaneRun := none
  units : Nat := 0               -- units committed since issue or replay, for PROGRESS (R299)
  order : Nat := 0               -- its place in program order, which its replays keep (R255)
  ordinal : Nat := 0             -- strip ordinal at issue (R372)
  strip : VAddr := 0             -- strip address of its data tile at issue (R372)
  elems : Nat := 0               -- elements committed
  groups : Tab (Nat × Nat) := [] -- per lane group: clock time from issue to its first element group, and how many it has committed (R372)
  sample : Bool := false
  issued : Nat := 0              -- clock time at issue (R378)
  deriving DecidableEq, Repr

/-- An engine command started and not yet delivered (R326, R327). -/
structure EngCmd where
  id : Nat
  eng : Nat                      -- 0 copy, 1 gather, 2 collective
  dw : List Dword
  pushId : Nat                   -- age of the push of its last dword
  pos : Nat := 0                 -- next element
  status : Option Nat := none    -- outcome when finished (R94)
  faddr : Nat := 0
  detail : Nat := 0              -- DETAIL of its cause when CPL = 0
  delivered : Bool := false      -- completed: word written, element to be delivered or discarded
  told : Option (List (List Nat)) := none -- what a COL at .domain has sent the other devices: its elements, then how it fails
  deriving DecidableEq, Repr

/-- A complete command in a queue, as the core recorded its last push (R248, R251). -/
structure CmdMark where
  eng : Nat
  pushId : Nat
  at_ : Nat                      -- order of last pushes over the core (R326)
  lo : Nat
  hi : Nat
  shw : Bool                     -- writes shared store
  deriving DecidableEq, Repr

/-- A farm query (R97, R292). -/
structure FarmQuery where
  cval : Word
  ans : Nat
  m : Nat                        -- the block's query number, from 0
  ordinal : Option Nat := none   -- once it has reached the distributor
  reached : Bool := false
  deriving DecidableEq, Repr

/-- What a Waiting block waits for (R16). -/
inductive WaitOn where
  | bar (sc : BitVec 4)
  | addr (cmp : Nat) (va : Nat) (v : Dword) (d a b : R6) (len : Nat) -- WAITA: 0 eq, 1 ne, 2 gen
  | time (t : Dword) (a : R6) (len : Nat)
  | port (q : Nat)
  | chan (j : Nat) (push : Bool)
  | det
  | stop
  deriving DecidableEq, Repr

/-- A block's arrival at a barrier (R137): its scope, its mask at .domain (R139) with the register that gave it, and the bytes of the BAR. -/
structure Arrival where
  sc : BitVec 4
  mask : Dword := 0
  src : Option R6 := none
  len : Nat
  deriving DecidableEq, Repr

/-- Block states (R16). A Queued block is one its launch has not created yet (Launch.made). -/
inductive BState where
  | ready
  | waiting (w : WaitOn)
  | saving
  | saved
  | frozen
  | retiring
  | retired
  deriving DecidableEq, Repr

/-- What the kernel header declares (R358) with its declaration table (R359). -/
structure Header where
  sregs : Nat := 64
  farm : Nat := 0
  monn : Nat := 0
  tiles : Dword := 0
  roles : Nat := 0
  lane : Nat := 0
  acc : Nat := 0
  shared : Nat := 0
  ept : Nat := 0
  ten : Nat := 0
  handler : Option VAddr := none
  tileDecl : List (Nat × Tsr) := []
  queueDecl : List (Nat × Dword) := []
  deriving DecidableEq, Repr

/-- A block: its place, its architectural state and its work in progress (01_execution_model). -/
structure Block where
  launch : Nat := 0
  ctx : Nat := 0
  blkid : Nat := 0
  gx : Nat := 0
  gy : Nat := 0
  gz : Nat := 0
  core : Nat := 0
  slot : Nat := 0
  st : BState := .retired
  hdr : Header := {}
  pc : VAddr := 0
  s : Vector Dword 64 := Vector.replicate 64 0
  k : BitVec 8 := 1
  tsr : Vector Tsr 64 := Vector.replicate 64 {}
  qcw : Vector Qcw 16 := Vector.replicate 16 {}
  mode : Dword := 0
  fflags : Dword := 0
  nfin : Dword := 0
  bflag : Dword := 0
  mgrant : Dword := 0
  fmask : Dword := 0
  tcause : Dword := 0
  tpc : Dword := 0
  ttile : Dword := 0
  telem : Dword := 0
  taddr : Dword := 0
  tport : Dword := 0
  thr : Dword := 0
  eptPeriod : Nat := 1000         -- %ept.PERIOD, µs
  eptNs : Nat := 0                -- running time of the element-progress timer, ns
  intrap : Bool := false
  resumed : Bool := false
  detWait : Bool := false
  nest : List Level := []         -- outermost first
  inest : List Level := []        -- the interrupted nest (R127)
  shared : Mem := []
  acc : Mem := []
  lane : Mem := []                -- keyed 1,024 × lane + byte
  tags : List Nat := []           -- accumulator words whose verdict tag is 1 (R71), rising
  poisonSh : List Nat := []       -- poisoned words (R317): byte offset / 4
  poisonAcc : List Nat := []
  poisonLane : List Nat := []
  flights : List Flight := []     -- oldest first
  recs : List Flight := []        -- progress records, oldest first
  held : Nat := 0                 -- how many of a saved block's records its handler held, those after them being the handler's own (R39)
  pend : List Pend := []          -- oldest first
  fences : List (Nat × Nat) := [] -- FENCE.TT: mark and scope (R135)
  cmds : List EngCmd := []        -- started commands, in start order
  marks : List CmdMark := []      -- complete commands still in the queues
  shapes : Tab (List (Nat × Nat × Nat)) := [] -- per channel QCW: rows, columns and type of the tiles it holds, head first (R32)
  fqs : List FarmQuery := []
  fqN : Nat := 0
  cleatWait : Option Bool := none -- an MMAV at issue waits for a cleat place (false) or has been given one (true) (R260)
  bbx : Tab Nat := []             -- cached basic-block counts
  trapP : Option TrapInfo := none -- a trap that waits for its entry
  dueTrap : Option TrapInfo := none -- taken before the first instruction after a resume (R139, R270)
  exitIssued : Bool := false
  arrived : Option Arrival := none -- counted at a barrier (R137)
  passed : Option Arrival := none -- the arrival with which a BAR released while the block was saved (R17)
  rows : Nat := 0                 -- matrix rows held
  dem : Nat := 0                  -- demand taken at placement (R350)
  restoring : Bool := false       -- placed again, its first instruction not issued since (R355)
  heldBack : Bool := false        -- saved to make room for its own launch's Queued blocks (R288)
  cluster : Option Nat := none    -- cluster reserved for it while it is passed over (R287)
  frame : Option Nat := none      -- save frame taken or held
  reason : Nat := 0               -- save reason (R298)
  stopReq : Option Bool := none   -- debug stop pending; true asks for a dump (R373)
  stopped : Bool := false
  strip : VAddr := 0              -- strip address of the last tile instruction issued (R372, R373)
  lastIssue : Nat := 0            -- order of its last issue (R291)
  readyAt : Nat := 0              -- clock time of its last issue, or of its placement (R291, R378)
  promoted : Bool := false
  placedAt : Nat := 0             -- order of placement (R288, R289)
  passedAt : Option Nat := none   -- QTB since which the dispatcher passes it over (R287)
  seenHalf : List (Nat × Nat) := [] -- writes, as block and access, that its last acquire may have ordered before it and one copy of their page alone held (R238, R246)
  seenDirty : List Nat := []      -- sectors whose writes its last acquire may have ordered before it and the HBM array did not hold (R246, R258)
  defWait : Option Nat := none    -- memory key of the block's own deferred operations that its next instruction awaits (R333)
  walkWait : Option Nat := none   -- virtual address whose walk its next instruction awaits, for want of a slot (R314)
  deriving DecidableEq, Repr

/-- A monitor claim (R227 to R231). -/
structure Claim where
  cfg : Dword := 0
  bound : Nat := 0
  ref : Int := 0
  last : Int := 0
  sum0 : Int := 0                -- running sum of die 0's monitor, with its guard bits (R76, R266)
  sum1 : Int := 0
  outwin : Bool := false
  inexact : Bool := false
  ovf : Bool := false
  eOutwin : Bool := false        -- OUTWIN arose since the last release that closed or opened an epoch
  eInexact : Bool := false       -- INEXACT likewise
  hOutwin : Bool := false        -- OUTWIN arose before the first epoch opened: shown from the first close on (R76, R231)
  hInexact : Bool := false       -- INEXACT likewise
  fail : Bool := false
  failed : Bool := false
  set : Bool := false            -- CFG
  epochs : Word := 0
  opened : Bool := false         -- the first closing release after MONSET or MONCLR has happened (R230)
  deriving DecidableEq, Repr

/-- What a participant has sent into a tile collective (R223 to R226). -/
structure CollSent where
  ses : Nat                      -- names the collective under way; 0 for one at .domain told to the other devices and not yet met
  blk : Nat
  flight : Nat                   -- id of its tile instruction
  bits : List (List Nat) := []   -- source elements, a list per element group in commit order
  fin : Bool := false            -- every group committed there
  deriving DecidableEq, Repr

/-- The fields in which the participants of a collective agree: of a tile collective (R224) 0 TCRED, 1 TCBC, 2 TCAG, the control dword, PEERS,
D's rows, columns and type; of a COL (R96) 8, the header's low half, PEERS, COUNT, BASEBLK and ETYPE. -/
structure CollDesc where
  kind : Nat
  ctl : Dword
  peers : Dword
  rows : Nat
  cols : Nat
  etype : Nat
  deriving DecidableEq, Repr

/-- A collective at .domain that a block of another device has come to, with the element groups it has sent (R225, R344); of a COL its elements,
then, where it fails, how. -/
structure FarColl where
  ctx : Nat
  dev : Nat
  blkid : Nat
  desc : CollDesc
  groups : List (List Nat) := []
  deriving DecidableEq, Repr

/-- A LAUNCH's place reserved in deterministic mode (R153). -/
structure Reserved where
  blkid : Nat
  seq : Nat
  queue : Nat
  bytes : List Byte
  deriving DecidableEq, Repr

/-- States of a fetched launch (R279, R280). -/
inductive LState where
  | fetched
  | started
  | completed
  deriving DecidableEq, Repr

/-- A fetched launch (R277): its record's fields and its progress. -/
structure Launch where
  ctx : Nat := 0
  queue : Nat := 0
  lidx : Nat := 0                -- ring index of its record
  trsess : Nat := 0
  monc : Nat := 0
  cgsize : Nat := 0
  barr : Bool := false
  l1f : Bool := false
  det : Bool := false
  heat : Nat := 0
  prio : Nat := 0
  kind : Nat := 0
  entry : VAddr := 0
  x : Nat := 0
  y : Nat := 0
  z : Nat := 0
  pblk : Nat := 0
  argptr : Dword := 0
  argsize : Dword := 0
  bbxBase : Nat := 0
  cwaddr : Nat := 0
  cwval : Dword := 0
  hdr : Header := {}
  st : LState := .fetched
  startedAt : Nat := 0           -- order of starting
  terminated : Bool := false
  made : Nat := 0                -- blocks created so far; the others are Queued
  passed : Option Nat := none    -- QTB since which its next Queued block is passed over (R287)
  retired : Nat := 0
  epoch : Word := 0              -- %det.EPOCH (R138)
  farmNext : Nat := 0            -- the next ordinal in normal mode (R292)
  claims : List Claim := []
  ssms : List Nat := []          -- the monitors its claims hold (R266, R294)
  sent : List CollSent := []
  resv : List Reserved := []
  free : List Nat := []          -- free places of each queue of the context when the epoch opened (R153)
  snap : Mem := []               -- memory when the epoch opened, of a deterministic launch (R209)
  snapBad : Tab Nat := []        -- the sectors of it that were poisoned, with the DETAIL of POISON
  member : Option Nat := none    -- the replay it belongs to (R281)
  members : List Nat := []       -- a replay's members
  graph : Nat := 0
  conc : Bool := false
  cluster : Option Nat := none   -- cluster reserved for its passed-over block (R287)
  stopNew : Bool := false        -- a DBGSTOP holds for its blocks still Queued (R373)
  deriving DecidableEq, Repr

/-- A launch queue's registers (R274). -/
structure LaunchQueue where
  base : VAddr := 0
  log2sz : BitVec 5 := 4
  widx : Word := 0
  ridx : Word := 0
  open_ : Bool := false
  disc : Word := 0
  err : Byte := 0
  halt : Bool := false
  deriving DecidableEq, Repr

/-- A context's registers (R274, R306, R362) and the launch engine's tables for it. -/
structure Context where
  en : Bool := false
  pmax : BitVec 5 := 0x1F
  pregap : BitVec 5 := 8
  state : BitVec 2 := 0
  fq : BitVec 4 := 0
  faddr : VAddr := 0
  ptb : Nat := 0                 -- CTXPTB, a 52-bit physical address
  saveb : VAddr := 0
  saven : Nat := 0
  term : Dword := 0
  invSize : BitVec 2 := 0
  invVa : VAddr := 0
  invRun : Option (Nat × Nat) := none -- SIZE and VA of the invalidation under way (R315)
  codeDone : Bool := true
  queues : Vector LaunchQueue 16 := Vector.replicate 16 {}
  frames : List Nat := []        -- frames taken
  verified : List VAddr := []    -- verified-entry table, most recently used first (R361)
  deriving DecidableEq, Repr

/-- A message a flit carries (R338). -/
inductive Msg where
  | request (blk id : Nat)       -- an access of a block
  | reply (blk id : Nat) (bs : List Byte) (bad : Option (Nat × Nat))
  | arrive (ctx dev : Nat) (mask : Option Dword) -- a remote device's participants have arrived at BAR.domain (R137); none where their masks differ
  | collAt (ctx blkid : Nat) (d : CollDesc) -- a block has come to a collective at .domain (R224)
  | collBits (ctx blkid : Nat) (eng : Bool) (bits : List Nat) -- its next element group (R344), or (eng) what its collective engine sends
  | idle                         -- carries an acknowledgement only, and no number
  | farStore (dev off : Nat) (bs : List Byte) (bad : Bool) -- device dev's store to this device's memory; bad: of poisoned data
  | farRmw (dev off : Nat) (op : RmwOp) (w : Nat) (x y : Dword) -- its atomic on it
  | farLoad (dev off w : Nat)    -- its load from it
  | transit (dev slice : Nat) (bs : List Byte) -- for device dev, which this device only forwards (R342)
  deriving DecidableEq, Repr

/-- A flit: its sequence number, the number its sender expects next (the acknowledgement) and its message (R337). -/
structure Flit where
  seq : Nat
  ack : Nat
  dev : Nat                      -- the device it is for or, toward this device, from
  msg : Msg
  way : Nat := 0                 -- the slice of its line, which chooses its link (R336, R342)
  deriving DecidableEq, Repr

/-- One direction of a link (R337). -/
structure LinkDir where
  next : Nat := 0                -- the sender's next sequence number
  expect : Nat := 0              -- the receiver's expected number
  buf : List Flit := []          -- replay buffer, oldest first
  wire : List Flit := []
  nak : Option Nat := none       -- a NAK on its way to the sender
  deriving DecidableEq, Repr

/-- A sennit module or a hawser link (R339, R340, R344). -/
structure Link where
  half : Nat := 0                -- 0 all lanes; 1 lower half; 2 upper half; 3 none
  retrain : Nat := 0
  crcerr : Nat := 0
  replay : Nat := 0
  degn : Nat := 1
  laneerr : Dword := 0
  up : Bool := false             -- HLSTAT.UP
  peer : Nat := 0                -- the far end, which HLSTAT shows while the link is up
  plink : Nat := 0
  fails0 : List Nat := []        -- QTB of the localised failures of each half in the last 1 ms
  fails1 : List Nat := []
  target : Option Nat := none    -- retraining onto this half setting
  d0 : LinkDir := {}             -- from die 0, or from this device
  d1 : LinkDir := {}
  deriving DecidableEq, Repr

/-- A coolant zone's registers and sequence (R349, R354). -/
structure Zone where
  ownv : Bool := false
  ownctx : Nat := 0
  ownq : Nat := 0
  ownidx : Nat := 0
  ceil : Nat := 0
  floor : Nat := 0
  alloc : Nat := 0
  attempt : Nat := 0
  leak : Bool := false
  dry : Bool := false
  flowlow : Bool := false
  overtemp : Bool := false
  holdT : Bool := false          -- HOLD by OVERTEMP
  holdF : Bool := false          -- HOLD by FLOWLOW
  state : Nat := 0
  tdet : Dword := 0
  tgate : Dword := 0
  tout : Dword := 0
  press : BitVec 16 := 0
  outlet : BitVec 12 := 0
  inlet : BitVec 12 := 0
  drydet : Bool := false
  leakdet : Bool := false
  leaked : Bool := false         -- a LEAK has closed its valve until the next cold reset (R353, R354)
  flow : BitVec 9 := 0
  auto : Bool := true
  pos : BitVec 10 := 0
  gated : Bool := false          -- lane groups and matrix array gated (R354 step 3)
  since : Nat := 0               -- QTB at which its state began
  deriving DecidableEq, Repr

/-- A trace session slot (R369). -/
structure TraceSlot where
  en : Bool := false
  id : Nat := 0
  ctx : Nat := 0
  mode : Nat := 0
  sper : Nat := 0
  kinds : Nat := 0
  base : VAddr := 0
  log2 : Nat := 0x0C
  widx : Dword := 0
  ridx : Dword := 0
  fault : Bool := false
  drop : Nat := 0
  done : Bool := true
  lost : Nat := 0                -- records dropped since the last TRUNC of reason 4
  lastStamp : Dword := 0
  closed : Bool := false         -- a TRUNC of reason 1 or 2 has closed its stream; EN is to be written anew (R376)
  counts : Tab Nat := []         -- per core: tile instructions counted (R372)
  deriving DecidableEq, Repr

/-- A breakpoint (R373). -/
structure Breakpoint where
  en : Bool := false
  ctx : Nat := 0
  act : Nat := 0
  match_ : Nat := 0
  addr : VAddr := 0
  any : Bool := false
  wsize : Nat := 0
  ord : Nat := 0
  deriving DecidableEq, Repr

/-- A checkpoint (R387). -/
structure Ckpt where
  live : Bool
  dst : Nat
  len : Nat
  pos : Nat := 0
  error : Bool := false
  running : Bool := true
  deriving DecidableEq, Repr

/-- A leaf held in a translation cache (R314). -/
structure Tlb where
  core : Option Nat              -- a core's micro-TLB, or the translation cache of a die (none here)
  die : Nat
  ctx : Nat
  level : Nat
  vpn : Nat                      -- virtual address / page bytes
  pte : Nat                      -- physical address of the leaf's entry
  leaf : Dword
  deriving DecidableEq, Repr

/-- The ISA revision of every kernel (R358: ISAREV is 1). -/
def isaRev : Nat := 1

/-- An instruction held in a core's byte cache, or (op) in its decoded-operation cache (R367): its words as they were read together. -/
structure Code where
  core : Nat
  ctx : Nat
  rev : Nat := isaRev
  op : Bool
  addr : Nat
  words : List Word
  deriving DecidableEq, Repr

/-- An operation deferred at a memory port by a deterministic launch (R333). -/
structure Deferred where
  launch : Nat
  blk : Nat
  blkid : Nat
  seq : Nat                      -- its instruction's place in program order
  id : Nat                       -- its access
  pa : Nat
  op : RmwOp
  w : Nat                        -- bytes
  x : Dword
  deriving DecidableEq, Repr

/-- What the present step of the device is: the model's own. The agenda holds what happens outside the device and every order the spec
leaves open, in the order in which it comes about; with an empty agenda the device works eagerly. -/
inductive Turn where
  | core (c : Nat)               -- core c selects a slot and issues (R291)
  | lane (blk id : Nat)          -- one lane-function instruction of a TMAP in flight
  | ev (i : Instr)               -- one of the device's events
  | tick (ns : Nat)              -- time passes
  | wire (link dev : Nat) (m : Msg) -- the far end of a hawser link sends a device's message
  | dropTlb (n : Nat)            -- entry n of the translation caches is evicted
  | dropCode (n : Nat)           -- entry n of the instruction caches is evicted
  | hostMem (pa : Nat) (bs : List Byte) -- the host or a peer writes its own memory
  | sensors (z : Nat) (flow : BitVec 9) (outlet inlet : BitVec 12) (press : BitVec 16) (dry leak : Bool) -- a zone's sensors change (R349)
  | refusal (page : Nat) (on : Bool) -- a 256 KiB page of PCIe addresses refuses AtomicOps, or accepts them
  | copy (n : Nat)               -- a running checkpoint copies its next n sectors (R387)
  | barRead (off n : Nat)        -- the host reads n bytes through BAR0 (R346)
  | barWrite (off : Nat) (bs : List Byte) -- the host writes bytes through BAR0 (R346)
  | raiseSvn (cls svn : Nat) (sig : List Byte) -- a command to raise a class's fused SVN, with its signature (R384)
  | drain (line : Nat)           -- a write queue's entry of a line is applied and free (R332)
  | walks (die n : Nat)          -- the walks under way take n slots of a die (R314)
  deriving DecidableEq, Repr

/-- The stored coolant configuration: CSUPPLY, CDEM, CTHR, and CEIL, FLOOR and ALLOC of each zone (R382). -/
structure CoolCfg where
  supply : Nat
  cdem : Dword
  cthr : Dword
  zones : List (Nat × Nat × Nat)
  deriving DecidableEq, Repr

/-- The management controller's state (R381 to R388). -/
structure Mgmt where
  recovery : Bool := false
  step : Nat := 0                -- the bring-up step that failed; 0 none
  svn : List Nat := [0, 0, 0]    -- fused SVN of each class
  svnBoot : List Nat := [0, 0, 0] -- those at the last cold reset, which measurement 6 holds (R388)
  images : List (List Byte) := [] -- the images the device runs, class 1 to 3
  staged : List (List Byte) := []
  nextKey : List Byte := []
  lastStatus : Nat := 0          -- the last side-band response
  lastData : Dword := 0
  lastBytes : List Byte := []
  notices : List (Nat × Nat × Nat) := [] -- core, slot and %taddr told to secure firmware (R321)
  zoneNotices : List (Nat × Nat) := []   -- zone and event told to the management controller (R352)
  stored : Option CoolCfg := none
  deriving DecidableEq, Repr

/-- The state of the device. -/
structure State where
  agenda : List Turn := []                 -- the model's own
  cur : Nat := 0                           -- the model's own: the block the present instruction belongs to
  blocked : Option Bool := none            -- the model's own: the present instruction has not issued: it stalls, or (true) awaits what it has noted
  starved : Option Nat := none             -- the model's own: the address of a walk of the present step that found no slot (R314)
  curFlight : Nat := 0                     -- the model's own: the tile instruction the present lane instruction belongs to
  free : Nat := 0                          -- the model's own: free values used so far
  nextId : Nat := 1                        -- the model's own: names accesses, instructions and commands in order of age
  qtb : Nat := 0
  qtbOffset : Int := 0
  qtbSlew : Int := 0
  qtbRem : Int := 0                        -- the correction still to be slewed (R368), in 10^-6 ns
  qtbFrac : Nat := 0                       -- what slewing has added to the QTB below a nanosecond, in 10^-6 ns
  qtbLast : List Int := []                 -- the last three measured offsets (LOCK, R368)
  qtbSrc : BitVec 2 := 0
  slewMax : Nat := 500
  clkMHz : Nat := 1400
  clock : Nat := 0                         -- periods of the clock in force so far, in thousandths (R378)
  pkgPower : BitVec 16 := 0
  mem : Mem := []
  poison : List Nat := []                  -- poisoned 64-byte sectors: physical address / 64, rising
  dirty : Tab (List Byte) := []            -- sectors not yet in the HBM array, with the array's bytes
  poisonL2 : List Nat := []                -- poisoned sectors whose poison struck in L2 (R299)
  l1 : Tab (Tab (List Byte)) := []         -- core → sector → copy
  tlbs : List Tlb := []
  walks : Nat × Nat := (0, 0)              -- walk slots of each die that walks under way have taken, of 256 (R314; log 83)
  icache : List Code := []
  deferred : List Deferred := []
  wq : List Nat := []                      -- lines with an entry in their port's write queue (R332): key / 256
  blocks : Tab Block := []
  launches : Tab Launch := []
  ctxs : Vector Context 64 := Vector.replicate 64 {}
  ssms : List Nat := []                    -- claimed monitors (R266)
  fused : List Nat := []                   -- clusters whose L1s are fused
  saves : List (Nat × Nat) := []           -- die and block of each pre-emptive save in progress (R290)
  rrNext : Tab Nat := []                   -- per core: slot after the last issued, for round robin (R291)
  links : Vector Link 28 := Vector.replicate 28 {} -- 0 to 15 sennit, 16 to 27 hawser
  routes : Tab (List Nat) := []            -- device → links (R342)
  remoteArr : List (Nat × Nat × Option Dword) := [] -- context, device and mask of remote arrivals (R137), oldest first
  told : List Nat := []                    -- contexts whose blocks' present arrival at BAR.domain has been told to the other devices (R137)
  farColls : List FarColl := []            -- collectives at .domain of other devices' blocks, oldest first
  hostUp : Bool := true
  msix : List Nat := []                    -- vectors signalled (R380)
  refuses : List Nat := []                 -- 256 KiB pages of PCIe addresses whose target refuses AtomicOps (R256)
  zones : Vector Zone 24 := Vector.replicate 24 {}
  supply : Nat := 0
  cdem : Dword := 0x20100804
  tcrit : BitVec 12 := 0x460
  tmax : BitVec 12 := 0x3C0
  reprime : BitVec 4 := 2
  devid : R6 := 0
  rstCause : Byte := 0
  ce : Word := 0
  ue : Word := 0
  errIdx : BitVec 4 := 0
  errLog : Vector (Dword × Dword) 16 := Vector.replicate 16 (0, 0)
  stepping : Byte := 0
  wcore : Vector Dword 3 := Vector.replicate 3 0
  wrgn : Vector (Dword × Dword) 16 := Vector.replicate 16 (0, 0)
  secure : List Nat := []                  -- cores whose WCORE bit has taken effect (R385)
  resetting : Bool := false                -- a warm reset is in progress
  survivors : List Nat := []               -- contexts that survive it (R324)
  mgmt : Mgmt := {}
  ckpt : Option Ckpt := none
  traces : Vector TraceSlot 32 := Vector.replicate 32 {}
  bps : Vector Breakpoint 8 := Vector.replicate 8 {}
  dbgctx : R6 := 0
  hostRead : List Byte := []               -- the bytes the last host read returned (R345)
  hostPoison : Bool := false               -- whether they were sent as poisoned
  hostUnsupported : Bool := false          -- whether the last request through BAR2 was answered as an Unsupported Request (R345)
  deriving DecidableEq, Repr

/-- The hawser links' reset value of DEGN (R344). -/
def hawserDegn : Nat := 4

/-- The device right after reset (every field's default; log 1 to 5 name the values the spec does not give). -/
def State.reset : State :=
  { links := Vector.ofFn (fun i => if i.val < 16 then ({} : Link) else { degn := hawserDegn, half := 3 }) }

end Sys2Proof.Machine
end

