-- ==== Sys2Proof/Machine/Store.lean ====
section
/-! DEFINITION. Reading and writing the plain containers of the state: bytes by address in canonical form, tables by key, and rising
lists of numbers. -/

namespace Sys2Proof.Machine

/-- The byte at an address; an unlisted one reads 0 (R47; log 3 for global memory). -/
def Mem.get : Mem → Nat → Byte
  | [], _ => 0
  | (k, b) :: m, a => if k = a then b else Mem.get m a

/-- The canonical form: addresses strictly rising from lo, no entry 0. -/
def Mem.wfFrom : Nat → Mem → Bool
  | _, [] => true
  | lo, (k, b) :: m => lo ≤ k && b != 0 && Mem.wfFrom (k + 1) m

/-- The canonical form. -/
def Mem.wf (m : Mem) : Bool := Mem.wfFrom 0 m

/-- The listed bytes of a run of bytes from an address. -/
def Mem.ofBytes : Nat → List Byte → Mem
  | _, [] => []
  | a, b :: bs => if b = 0 then Mem.ofBytes (a + 1) bs else (a, b) :: Mem.ofBytes (a + 1) bs

/-- Entries below an address. -/
def Mem.below (m : Mem) (a : Nat) : Mem := m.filter (fun c => c.1 < a)
/-- Entries from an address up. -/
def Mem.from_ (m : Mem) (a : Nat) : Mem := m.filter (fun c => a ≤ c.1)

/-- Writing a run of bytes. -/
def Mem.write (m : Mem) (a : Nat) (bs : List Byte) : Mem :=
  m.below a ++ Mem.ofBytes a bs ++ m.from_ (a + bs.length)

/-- The entries of [lo, hi) that keep the canonical form, in order. -/
def Mem.within (hi : Nat) : Nat → Mem → Mem
  | _, [] => []
  | lo, (k, b) :: m => if lo ≤ k && k < hi && b != 0 then (k, b) :: Mem.within hi (k + 1) m else Mem.within hi lo m

/-- Reading n bytes. -/
def Mem.read (m : Mem) (a n : Nat) : List Byte :=
  let w := m.filter (fun c => a ≤ c.1 && c.1 < a + n)
  (List.range n).map (fun i => Mem.get w (a + i))

/-- Reading n bytes as a little-endian number (R6). -/
def Mem.num (m : Mem) (a n : Nat) : Nat := ofLe (m.read a n)

/-- Writing a number's low n bytes, little-endian (R6). -/
def Mem.putNum (m : Mem) (a n v : Nat) : Mem := m.write a (leBytes n v)

/-- The bytes at [k, k + bs.length) with those of a run ws at kk laid over them. -/
def patchBytes (k : Nat) (bs : List Byte) (kk : Nat) (ws : List Byte) : List Byte :=
  ((List.range bs.length).zip bs).map (fun e =>
    if kk ≤ k + e.1 && k + e.1 < kk + ws.length then ws.getD (k + e.1 - kk) 0 else e.2)

/-- The value at a key. -/
def Tab.get {α : Type} (t : Tab α) (k : Nat) : Option α := t.lookup k

/-- Setting the value at a key; keys stay rising. -/
def Tab.put {α : Type} : Tab α → Nat → α → Tab α
  | [], k, v => [(k, v)]
  | (j, x) :: t, k, v => if k < j then (k, v) :: (j, x) :: t else if k = j then (k, v) :: t else (j, x) :: Tab.put t k v

/-- Removing a key. -/
def Tab.del {α : Type} (t : Tab α) (k : Nat) : Tab α := t.filter (fun e => e.1 != k)

/-- Adding a number to a rising list. -/
def addNum : List Nat → Nat → List Nat
  | [], k => [k]
  | j :: t, k => if k < j then k :: j :: t else if k = j then j :: t else j :: addNum t k

/-- Removing a number. -/
def delNum (l : List Nat) (k : Nat) : List Nat := l.filter (fun j => j != k)

/-- Setting or clearing membership. -/
def setNum (l : List Nat) (k : Nat) (on : Bool) : List Nat := if on then addNum l k else delNum l k

/-- Whether any number of [lo, lo + n) is a member. -/
def anyIn (l : List Nat) (lo n : Nat) : Bool := l.any (fun k => lo ≤ k && k < lo + n)

end Sys2Proof.Machine
end

