-- ==== Sys2Proof/Machine/Access.lean ====
section
/-! DEFINITION. Reading and writing the parts of the state: blocks, launches, tile shape records, queue control words, condition
registers, and the fields of the special registers (01_execution_model). -/

namespace Sys2Proof.Machine

/-! Blocks and launches. -/

def State.blk (s : State) (b : Nat) : Block := (Tab.get s.blocks b).getD {}
def State.setBlk (s : State) (b : Nat) (x : Block) : State := { s with blocks := Tab.put s.blocks b x }
def State.modBlk (s : State) (b : Nat) (f : Block → Block) : State := s.setBlk b (f (s.blk b))

/-- The block whose instruction is being executed. -/
def State.me (s : State) : Block := s.blk s.cur
def State.setMe (s : State) (x : Block) : State := s.setBlk s.cur x
def State.modMe (s : State) (f : Block → Block) : State := s.setMe (f s.me)

def State.lch (s : State) (l : Nat) : Launch := (Tab.get s.launches l).getD {}
def State.setLch (s : State) (l : Nat) (x : Launch) : State := { s with launches := Tab.put s.launches l x }
def State.modLch (s : State) (l : Nat) (f : Launch → Launch) : State := s.setLch l (f (s.lch l))
/-- The launch of the current block. -/
def State.myLch (s : State) : Launch := s.lch s.me.launch

def State.ctx (s : State) (c : Nat) : Context := (s.ctxs[c]?).getD {}
def State.modCtx (s : State) (c : Nat) (f : Context → Context) : State :=
  { s with ctxs := s.ctxs.setIfInBounds c (f (s.ctx c)) }
/-- DONE of CTXINV: no invalidation is under way (R315). -/
def Context.invDone (x : Context) : Bool := x.invRun.isNone
def Context.queue (x : Context) (q : Nat) : LaunchQueue := (x.queues[q]?).getD {}
def State.modQueue (s : State) (c q : Nat) (f : LaunchQueue → LaunchQueue) : State :=
  s.modCtx c (fun x => { x with queues := x.queues.setIfInBounds q (f (x.queue q)) })
def State.zone (s : State) (z : Nat) : Zone := (s.zones[z]?).getD {}
def State.modZone (s : State) (z : Nat) (f : Zone → Zone) : State := { s with zones := s.zones.setIfInBounds z (f (s.zone z)) }
def State.link (s : State) (n : Nat) : Link := (s.links[n]?).getD {}
def State.modLink (s : State) (n : Nat) (f : Link → Link) : State := { s with links := s.links.setIfInBounds n (f (s.link n)) }
def State.slotOf (s : State) (n : Nat) : TraceSlot := (s.traces[n]?).getD {}
def State.modSlot (s : State) (n : Nat) (f : TraceSlot → TraceSlot) : State :=
  { s with traces := s.traces.setIfInBounds n (f (s.slotOf n)) }
def State.bp (s : State) (n : Nat) : Breakpoint := (s.bps[n]?).getD {}

/-- A fresh name; names rise with age. -/
def State.fresh (s : State) : Nat × State := (s.nextId, { s with nextId := s.nextId + 1 })

/-! Placement (R1, R46, R347). -/

def clusterOf (core : Nat) : Nat := core / 4
def dieOf (core : Nat) : Nat := core / 96
def zoneOf (core : Nat) : Nat := core / 8

/-- Whether the block is on a core: resident, restoring or retiring. -/
def Block.onCore (b : Block) : Bool :=
  match b.st with
  | .saved => b.restoring
  | .retired => false
  | _ => true

/-- Blocks on a core, with their names. -/
def State.onCore (s : State) (core : Nat) : List (Nat × Block) := s.blocks.filter (fun e => e.2.onCore && e.2.core == core)
def State.onCluster (s : State) (cl : Nat) : List (Nat × Block) :=
  s.blocks.filter (fun e => e.2.onCore && clusterOf e.2.core == cl)
def State.onZone (s : State) (z : Nat) : List (Nat × Block) := s.blocks.filter (fun e => e.2.onCore && zoneOf e.2.core == z)
/-- The blocks of a launch that exist, retired ones included. -/
def State.ofLaunch (s : State) (l : Nat) : List (Nat × Block) := s.blocks.filter (fun e => e.2.launch == l)
/-- The block of a launch with an index. -/
def State.byIndex (s : State) (l idx : Nat) : Option (Nat × Block) :=
  s.blocks.find? (fun e => e.2.launch == l && e.2.blkid == idx)

/-- How many blocks a launch has (R277). -/
def Launch.total (x : Launch) : Nat := if x.kind = 1 then x.pblk else if x.kind = 0 then x.x * x.y * x.z else 0

/-- Whether the block is a member of a cluster group, and its position (R278). -/
def State.grouped (s : State) (b : Block) : Bool := (s.lch b.launch).cgsize != 0
def State.cgpos (s : State) (b : Block) : Nat :=
  let n := (s.lch b.launch).cgsize
  if n = 0 then 0 else b.blkid % n
/-- The member of the block's group at a position. -/
def State.peer (s : State) (b : Block) (pos : Nat) : Option (Nat × Block) :=
  let n := (s.lch b.launch).cgsize
  if n = 0 || n ≤ pos then none else s.byIndex b.launch (b.blkid / n * n + pos)

/-! Tile shape records (R33). -/

def dfld (d : Dword) (hi lo : Nat) : Nat := fld d.toNat hi lo
def dset (d : Dword) (hi lo v : Nat) : Dword := BitVec.ofNat 64 (setFld d.toNat hi lo v)

def Tsr.space (t : Tsr) : Nat := dfld t.d0 63 62
def Tsr.depth (t : Tsr) : Nat := dfld t.d0 61 60 + 1
def Tsr.rot (t : Tsr) : Nat := dfld t.d0 59 57
def Tsr.v (t : Tsr) : Bool := bitOf t.d0.toNat 56
def Tsr.rows (t : Tsr) : Nat := dfld t.d0 55 48 + 1
def Tsr.cols (t : Tsr) : Nat := dfld t.d0 47 40 + 1
def Tsr.tpitch (t : Tsr) : Nat := dfld t.d0 39 20
def Tsr.base (t : Tsr) : Nat := dfld t.d0 19 0
def Tsr.rpitch (t : Tsr) : Nat := dfld t.d1 63 48
def Tsr.etype (t : Tsr) : Nat := dfld t.d1 47 42
def Tsr.layout (t : Tsr) : Nat := dfld t.d1 41 40
def Tsr.planes (t : Tsr) : Nat := dfld t.d1 39 35
def Tsr.pscale (t : Tsr) : Bool := bitOf t.d1.toNat 34
def Tsr.bpol (t : Tsr) : Nat := dfld t.d4 63 62
def Tsr.monen (t : Tsr) : Bool := bitOf t.d4.toNat 61
def Tsr.monall (t : Tsr) : Bool := bitOf t.d4.toNat 60
def Tsr.monid (t : Tsr) : Nat := dfld t.d4 59 57
def Tsr.moncol (t : Tsr) : Nat := dfld t.d4 55 48
def Tsr.vclass (t : Tsr) : Nat := dfld t.d4 47 46
def Tsr.km1 (t : Tsr) : Nat := dfld t.d4 45 40
def Tsr.thrsel (t : Tsr) : Nat := dfld t.d4 39 38
def Tsr.inst (t : Tsr) : Nat := dfld t.d4 3 2
def Tsr.setInst (t : Tsr) (i : Nat) : Tsr := { t with d4 := dset t.d4 3 2 i }
def Tsr.setV (t : Tsr) (v : Bool) : Tsr := { t with d0 := dset t.d0 56 56 (b2n v) }
def Tsr.setCols (t : Tsr) (n : Nat) : Tsr := { t with d0 := dset t.d0 47 40 (n - 1) }
/-- The record with another element type (R156). -/
def Tsr.setType (t : Tsr) (e : Nat) : Tsr := { t with d1 := dset t.d1 47 42 e }
def Tsr.ty (t : Tsr) : Ty := tyOf t.etype t.planes

def Block.tsrOf (b : Block) (n : Nat) : Tsr := (b.tsr[n]?).getD {}
def Block.setTsr (b : Block) (n : Nat) (t : Tsr) : Block := { b with tsr := b.tsr.setIfInBounds n t }

/-! Queue control words (R41). -/

def Qcw.v (q : Qcw) : Bool := bitOf q.d0.toNat 63
def Qcw.esize (q : Qcw) : Nat := dfld q.d0 42 40
def Qcw.depth (q : Qcw) : Nat := dfld q.d0 35 24 + 1
def Qcw.base (q : Qcw) : Nat := dfld q.d0 19 0
def Qcw.count (q : Qcw) : Nat := dfld q.d1 39 26
def Qcw.head (q : Qcw) : Nat := dfld q.d1 25 13
def Qcw.tail (q : Qcw) : Nat := dfld q.d1 12 0
def Qcw.free (q : Qcw) : Nat := q.depth - q.count
/-- Dword 1 from its fields. -/
def qcwState (count head tail : Nat) : Dword := BitVec.ofNat 64 (count * 2 ^ 26 + head * 2 ^ 13 + tail)
def Qcw.pushed (q : Qcw) (n : Nat) : Qcw := { q with d1 := qcwState (q.count + n) q.head ((q.tail + n) % q.depth) }
def Qcw.popped (q : Qcw) (n : Nat) : Qcw := { q with d1 := qcwState (q.count - n) ((q.head + n) % q.depth) q.tail }
/-- The queue with its n newest elements taken back. -/
def Qcw.unpushed (q : Qcw) (n : Nat) : Qcw :=
  { q with d1 := qcwState (q.count - n) q.head ((q.tail + q.depth - n % q.depth) % q.depth) }

def Block.qcwOf (b : Block) (n : Nat) : Qcw := (b.qcw[n]?).getD {}
def Block.setQcw (b : Block) (n : Nat) (q : Qcw) : Block := { b with qcw := b.qcw.setIfInBounds n q }
/-- The shared-store offset of the i-th element, from the head, of a queue of dwords. -/
def Qcw.slotAt (q : Qcw) (i : Nat) : Nat := q.base + (q.head + i) % q.depth * 8
/-- The i-th dword, from the head, of a queue. -/
def Block.queueDword (b : Block) (n i : Nat) : Dword := BitVec.ofNat 64 (b.shared.num ((b.qcwOf n).slotAt i) 8)

/-! Scalar and condition registers (R26, R30). -/

/-- The stored value of a scalar register; s0 reads 0. Ports are read through Ops. -/
def Block.reg (b : Block) (r : R6) : Dword := if r = 0 then 0 else b.s[r.toNat]
/-- Writing a stored scalar register; writes to s0 are discarded. -/
def Block.setReg (b : Block) (r : R6) (v : Dword) : Block := if r = 0 then b else { b with s := b.s.set r.toNat v }
/-- Condition register kN; k0 reads 1. -/
def Block.cond (b : Block) (n : Nat) : Bool := n == 0 || b.k.getLsbD n
/-- Writing kN; writes to k0 are discarded. -/
def Block.setCond (b : Block) (n : Nat) (v : Bool) : Block :=
  if n = 0 then b else { b with k := BitVec.ofNat 8 (setFld b.k.toNat n n (b2n v)) }

/-- A queue port (R26). -/
def isPort (r : R6) : Bool := 48 ≤ r.toNat && r.toNat ≤ 55
/-- A push port (R27). -/
def isPush (r : R6) : Bool := isPort r && !popPort r

/-! Special-register fields (R45). -/

def Block.rm (b : Block) : RMode := RMode.ofCode b.mode.toNat
def Block.ten (b : Block) : Nat := dfld b.mode 12 8
def Block.mergeFlags (b : Block) (f : Nat) : Block := { b with fflags := BitVec.ofNat 64 (b.fflags.toNat ||| f) }
def Block.grant (b : Block) : Nat := dfld b.mgrant 7 0
/-- %pix's layout, used for %telem as well (R45). -/
def pixWord (v : Bool) (tile : Nat) (i : Idx) : Dword :=
  BitVec.ofNat 64 (b2n v * 2 ^ 63 + tile % 64 * 2 ^ 56 + i.step % 256 * 2 ^ 24 + i.plane % 32 * 2 ^ 16 + i.row % 256 * 2 ^ 8 + i.col % 256)
/-- %telem naming an element (R45). -/
def telemWord (r c : Nat) : Dword := pixWord true 0 { row := r, col := c }
/-- %ttile and %fmask naming a tile. -/
def tileWord (n : Nat) : Dword := BitVec.ofNat 64 (2 ^ 63 + n)
/-- %taddr: a space and an address (R45). -/
def taddrWord (spc addr : Nat) : Dword := BitVec.ofNat 64 (spc * 2 ^ 62 + addr % 2 ^ 56)
/-- %tport naming a queue. -/
def tportQueue (q : Nat) : Dword := BitVec.ofNat 64 (2 ^ 63 + 2 ^ 62 + q * 2 ^ 8)
/-- %tport naming a memory port. -/
def tportPort (die slice : Nat) : Dword := BitVec.ofNat 64 (2 ^ 63 + die * 2 ^ 6 + slice)

/-- %ept (R45): ELAPSED in whole µs and PERIOD. -/
def Block.eptWord (b : Block) : Dword := BitVec.ofNat 64 (b.eptNs / 1000 % 2 ^ 32 * 2 ^ 32 + b.eptPeriod % 2 ^ 32)

/-- Restarting the element-progress timer (R22). -/
def Block.restartEpt (b : Block) : Block := { b with eptNs := 0 }

end Sys2Proof.Machine
end

