-- ==== Sys2Proof/Machine/Xlate.lean ====
section
/-! DEFINITION. Physical memory and its protection: memory keys, home ports, worlds, the page-table walk with its caches, and reads and
writes at the home port (07 R235-R238; 10 R311-R314, R317, R320; 11 R330, R331; 14 R385).

A memory key names a byte of mem: the offset o for this device's memory, (j + 1) × 2^45 + o for device j's, 2^52 + a for PCIe address a. -/

namespace Sys2Proof.Machine

/-- A refused access: cause and DETAIL (R298, R299). -/
structure AccFault where
  cause : Nat
  detail : Nat
  deriving DecidableEq, Repr

def cILLEGAL : Nat := 1
def cALIGN : Nat := 2
def cXLATE : Nat := 3
def cPROTECT : Nat := 4
def cPOISON : Nat := 5
def cWORLD : Nat := 6
def cQPORT : Nat := 7
def cFP : Nat := 8
def cVUSE : Nat := 9
def cVCONV : Nat := 10
def cBOUND : Nat := 11
def cMONITOR : Nat := 12
def cPROGRESS : Nat := 13
def cDETWAIT : Nat := 14
def cTRAPINST : Nat := 15
def cPREEMPT : Nat := 16
def cEVAC : Nat := 17

/-- Half of the device memory, the die of R330. -/
def halfMem : Nat := 0x3000000000
/-- Bytes of device memory (R313). -/
def devMem : Nat := 0x6000000000
/-- The key of PCIe address 0. -/
def hostBase : Nat := 2 ^ 52
def isHostKey (k : Nat) : Bool := hostBase ≤ k
/-- Whether the key names this device's own memory. -/
def isOwnKey (k : Nat) : Bool := k < devMem
/-- The device offset of a key. -/
def keyOff (k : Nat) : Nat := k % 2 ^ 45

/-- Whether device j is in the load-store domain (R342). -/
def State.inDomain (s : State) (j : Nat) : Bool := j == s.devid.toNat || ((Tab.get s.routes j).getD []) != []

/-- The memory key of a physical address; none where no memory is behind it (R313). -/
def State.keyOf (s : State) (pa : Nat) : Option Nat :=
  if bitOf pa 51 then some (hostBase + pa % 2 ^ 51)
  else
    let j := fld pa 50 45
    let o := pa % 2 ^ 45
    if devMem ≤ o || !s.inDomain j then none
    else if j = s.devid.toNat then some o else some ((j + 1) * 2 ^ 45 + o)

/-- Die, slice and sennit module of an offset (R330). -/
def portDie (o : Nat) : Nat := if o < halfMem then 0 else 1
def portSlice (o : Nat) : Nat :=
  let line := fld (o - portDie o * halfMem) 37 8
  fld line 5 0 ^^^ fld line 11 6 ^^^ fld line 17 12 ^^^ fld line 23 18 ^^^ fld line 29 24
def portModule (o : Nat) : Nat := portSlice o % 16
/-- %tport for a key's home port. -/
def tportOf (k : Nat) : Dword := if isHostKey k then 0 else tportPort (portDie (keyOff k)) (portSlice (keyOff k))

/-- The master of an access. -/
structure Master where
  core : Option Nat
  die : Nat
  ctx : Nat
  deriving DecidableEq, Repr

def Block.master (b : Block) : Master := ⟨some b.core, dieOf b.core, b.ctx⟩
/-- The launch engine, the trace unit and the flush of a block's counters, secure core's or not: masters that the model takes for non-secure, since
R320 gives worlds to the tile cores with their engines alone (log 81). -/
def engineMaster (ctx : Nat) : Master := ⟨none, 0, ctx⟩
def State.isSecure (s : State) (m : Master) : Bool :=
  match m.core with
  | some c => s.secure.contains c
  | none => false

/-- Whether a physical address lies in a secure region (R385). -/
def State.regionSecure (s : State) (pa : Nat) : Bool :=
  s.wrgn.toList.any (fun r => bitOf r.1.toNat 63 && bitOf r.1.toNat 62 &&
    dfld r.1 51 18 ≤ pa / 2 ^ 18 && pa / 2 ^ 18 ≤ dfld r.2 51 18)

/-- The world check (R320). -/
def State.worldOk (s : State) (m : Master) (sec : Bool) (pa : Nat) : Bool :=
  s.isSecure m || (!sec && !s.regionSecure pa)

/-! Poison and reads at the home port. -/

/-- DETAIL of the poison met in [k, k + n) at the home port, or none (R299). -/
def State.homePoison (s : State) (k n : Nat) : Option Nat :=
  match s.poison.find? (fun p => k / 64 ≤ p && p ≤ (k + n - 1) / 64) with
  | none => none
  | some p => some (if isHostKey k then 8 else if s.poisonL2.contains p then 2 else 1)

/-- The sectors touched by [k, k + n). -/
def sectorsOf (k n : Nat) : List Nat := if n = 0 then [] else rangeFrom (k / 64) ((k + n - 1) / 64 + 1 - k / 64)

/-- Which of n things a choice that the spec leaves open takes: a free one (log 2). -/
def State.pick (s : State) (n : Nat) : Nat × State := ((Config.freeInt s.free).natAbs % n, { s with free := s.free + 1 })

/-- Dirty sectors a slice can hold: 96 MiB of L2 in 64 slices (R1). -/
def sliceSectors : Nat := 24576

/-- The sectors of a slice that are dirty, by their place in the list of dirty sectors. -/
def State.dirtyOf (s : State) (die slice : Nat) : List Nat :=
  (s.dirty.map (fun e => e.1)).filter (fun p => portDie (p * 64) == die && portSlice (p * 64) == slice)

/-- A sector of this device's memory becomes dirty, keeping the HBM array's bytes; where its slice is full, another one is written back. A slice
fills, and loses entries, by 64-byte sectors: the spec does not say how its 256-byte lines fill it (log 89). -/
def State.makeDirty (s : State) (p : Nat) (old : List Byte) : State :=
  if (Tab.get s.dirty p).isSome then s
  else
    let full := if s.dirty.length < sliceSectors then [] else s.dirtyOf (portDie (p * 64)) (portSlice (p * 64))
    let s := if full.length < sliceSectors then s
      else let (i, s) := s.pick full.length; { s with dirty := Tab.del s.dirty (full.getD i 0) }
    { s with dirty := Tab.put s.dirty p old }

/-- A write performed at the home port (R235, R239): sectors of this device's memory become dirty, or, of a page that no cache holds
(c false, R237), reach the HBM array at once; a wholly written sector loses its poison (R317). -/
def State.homeWrite (s : State) (k : Nat) (bs : List Byte) (c : Bool := true) : State :=
  let secs := sectorsOf k bs.length
  let whole := secs.filter (fun p => k ≤ p * 64 && p * 64 + 64 ≤ k + bs.length)
  let mem := s.mem
  let s := if !isOwnKey k then s
    else if c then secs.foldl (fun (s : State) p => s.makeDirty p (mem.read (p * 64) 64)) s
    else { s with dirty := s.dirty.map (fun e => if secs.contains e.1 then (e.1, patchBytes (e.1 * 64) e.2 k bs) else e) }
  { s with mem := mem.write k bs, poison := whole.foldl delNum s.poison, poisonL2 := whole.foldl delNum s.poisonL2 }

/-! A port's write queue (R332). -/

/-- Whether two keys have one home port. -/
def onePort (j k : Nat) : Bool := portDie j == portDie k && portSlice j == portSlice k

/-- Whether the write queue of the slice of a key has no entry for its line: 256 other lines hold one (R332). -/
def State.queueFull (s : State) (k : Nat) : Bool :=
  isOwnKey k && !s.wq.contains (k / 256) && 256 ≤ (s.wq.filter (fun l => onePort (l * 256) k)).length

/-- The line of a key holds an entry in its port's write queue. -/
def State.queued (s : State) (k : Nat) : State := if isOwnKey k then { s with wq := addNum s.wq (k / 256) } else s

/-- A write queue's entry of a line is applied and free. -/
def State.drainLine (s : State) (line : Nat) : State := { s with wq := delNum s.wq line }

/-- The wait of a write of the device itself at a full queue: until an entry of it is applied, the one of the lowest line (log 83). -/
def State.roomFor (s : State) (k : Nat) : State :=
  if s.queueFull k then (match s.wq.find? (fun l => onePort (l * 256) k) with
    | some l => s.drainLine l
    | none => s) else s

/-- A write of the device itself (a page table's TOUCH, the launch engine, the trace unit) at a home port: each of its lines takes an entry of the
port's queue, for which it waits. -/
def State.portWrite (s : State) (k : Nat) (bs : List Byte) (c : Bool := true) : State :=
  ((sectorsOf k bs.length).foldl (fun (s : State) p => (s.roomFor (p * 64)).queued (p * 64)) s).homeWrite k bs c

/-! Translation. -/

/-- The lowest address bit a level's index starts at (R311). -/
def levelShift (l : Nat) : Nat := if l = 0 then 43 else if l = 1 then 30 else if l = 2 then 24 else 18
/-- A level's index field (R311). -/
def levelIndex (l va : Nat) : Nat := if l = 0 then fld va 55 43 else if l = 1 then fld va 42 30 else if l = 2 then fld va 29 24 else fld va 23 18

def pteV (e : Nat) : Bool := bitOf e 0
def pteLeaf (e : Nat) : Bool := bitOf e 1
def pteAddr (e : Nat) : Nat := fld e 51 12 * 2 ^ 12
def pteSec (e : Nat) : Bool := bitOf e 8

/-- Whether a valid entry is malformed at its level (R299, R312). -/
def pteBad (l e : Nat) : Bool :=
  fld e 63 52 != 0 || fld e 11 10 != 0 ||
  (if pteLeaf e then l == 0 || pteAddr e % 2 ^ levelShift l != 0 else l == 3 || fld e 9 2 != 0)

/-- Reading a table entry at physical address pa (R312, R320). -/
def State.readPte (s : State) (m : Master) (pa : Nat) : Except AccFault (Nat × Nat) :=
  match s.keyOf pa with
  | none => .error ⟨cXLATE, 0x30⟩
  | some k =>
    if !s.worldOk m false pa then .error ⟨cWORLD, 0⟩
    else match s.homePoison k 8 with
      | some d => .error ⟨cPOISON, d⟩
      | none => .ok (k, s.mem.num k 8)

/-- A cached entry (R314). -/
def State.tlbFind (s : State) (core : Option Nat) (die ctx l va : Nat) : Option Tlb :=
  s.tlbs.find? (fun t => t.core == core && (core.isSome || t.die == die) && t.ctx == ctx && t.level == l && t.vpn == va / 2 ^ levelShift l)

/-- A leaf found in the caches, the micro-TLB first. -/
def State.cachedLeaf (s : State) (m : Master) (va : Nat) : Option Tlb :=
  let look := fun core => [3, 2, 1].findSome? (fun l => (s.tlbFind core m.die m.ctx l va).filter (fun t => pteLeaf t.leaf.toNat))
  match m.core with
  | some c => (look (some c)).or (look none)
  | none => look none

/-- The walk from level l, the table at physical address base: the entries met, leaf last (R311). Fuel is 4 − l. -/
def State.walk (s : State) (m : Master) (va : Nat) : Nat → Nat → Nat → Except AccFault (List Tlb)
  | 0, _, _ => .error ⟨cXLATE, 0x13⟩
  | f + 1, l, base => do
    let t ← match s.tlbFind none m.die m.ctx l va with
      | some t => pure t
      | none => do
        let (k, e) ← s.readPte m (base + levelIndex l va * 8)
        if !pteV e then throw ⟨cXLATE, l⟩
        if pteBad l e then throw ⟨cXLATE, 0x10 + l⟩
        pure ⟨none, m.die, m.ctx, l, va / 2 ^ levelShift l, k, BitVec.ofNat 64 e⟩
    if pteLeaf t.leaf.toNat then pure [t]
    else do
      let r ← s.walk m va f (l + 1) (pteAddr t.leaf.toNat)
      pure (t :: r)

/-- What an access needs of its page. -/
structure Need where
  r : Bool := false
  w : Bool := false
  x : Bool := false
  atomic : Bool := false   -- AMO, CAS, TSTR or THRUP: not on a replicated page (R238)
  noSa : Bool := false     -- TSTR: not on a sysatomic page (R173)
  deriving DecidableEq, Repr

/-- A translated address: the keys a write goes to, the key a read of this master goes to, and the page's attributes. -/
structure Xl where
  keys : List Nat
  rkey : Nat
  c : Bool
  sa : Bool
  rep : Bool
  deriving DecidableEq, Repr

/-- The physical address a leaf gives (R311). -/
def leafPa (t : Tlb) (va : Nat) : Nat := pteAddr t.leaf.toNat + va % 2 ^ levelShift t.level

/-- The checks on a leaf: the memory behind it, permissions, then worlds (R299, R312, R320, R331). -/
def State.checkLeaf (s : State) (m : Master) (need : Need) (t : Tlb) (va : Nat) : Except AccFault Xl := do
  let e := t.leaf.toNat
  let pa := leafPa t va
  let rep := bitOf e 7
  let k ← match s.keyOf pa with
    | none => throw ⟨cXLATE, 0x30⟩
    | some k => pure k
  if rep && (isHostKey k || halfMem ≤ keyOff k) then throw ⟨cXLATE, 0x30⟩
  if need.r && !bitOf e 2 then throw ⟨cPROTECT, 1⟩
  if need.w && !bitOf e 3 then throw ⟨cPROTECT, 2⟩
  if need.x && !bitOf e 4 then throw ⟨cPROTECT, 3⟩
  if need.atomic && rep then throw ⟨cPROTECT, 4⟩
  if need.noSa && bitOf e 6 then throw ⟨cPROTECT, 5⟩
  if !s.worldOk m (pteSec e) pa || (rep && !s.worldOk m (pteSec e) (pa + halfMem)) then throw ⟨cWORLD, 0⟩
  let k2 := k + halfMem
  pure ⟨if rep then [k, k2] else [k], if rep && m.die = 1 then k2 else k, bitOf e 5, bitOf e 6, rep⟩

/-- Whether an entry lies in the same translation cache as another. -/
def Tlb.beside (t u : Tlb) : Bool := t.core == u.core && (t.core.isSome || t.die == u.die)

/-- Holding an entry in its cache, of 64 entries for a core and 16,384 for a die; a full cache loses one (R314). -/
def State.holdTlb (s : State) (u : Tlb) : State :=
  if s.tlbs.contains u then s
  else
    let lim := if u.core.isSome then 64 else 16384
    let full := if s.tlbs.length < lim then [] else s.tlbs.filter u.beside
    let s := if full.length < lim then s
      else
        let (i, s) := s.pick full.length
        match full[i]? with
        | some t => { s with tlbs := s.tlbs.erase t }
        | none => s
    { s with tlbs := u :: s.tlbs }

/-- Holding a leaf in the micro-TLB of the core (R314). -/
def State.fillMicro (s : State) (m : Master) (t : Tlb) : State :=
  match m.core with
  | some c => s.holdTlb { t with core := some c }
  | none => s

/-- Holding the entries of a walk in the translation cache of the die and its leaf in the micro-TLB of the core (R314). -/
def State.fillTlb (s : State) (m : Master) (ts : List Tlb) : State :=
  let s := ts.foldl State.holdTlb s
  match ts.getLast? with
  | some t => s.fillMicro m t
  | none => s

/-- Setting TOUCH, once, in memory and in the cached copies (R312). -/
def State.touch (s : State) (t : Tlb) : State :=
  if bitOf t.leaf.toNat 9 then s
  else
    let e := s.mem.num t.pte 8
    let s := if bitOf e 9 then s else s.portWrite t.pte (leBytes 8 (e + 2 ^ 9))
    { s with tlbs := s.tlbs.map (fun u => if u.pte == t.pte then { u with leaf := dset u.leaf 9 9 1 } else u) }

/-- Whether an access must be walked while its die has no walk slot free (R314; log 83). -/
def State.walkWaits (s : State) (m : Master) (va : Nat) : Bool :=
  256 ≤ (if m.die = 0 then s.walks.1 else s.walks.2) && va < 2 ^ 56 && (s.cachedLeaf m va).isNone

/-- The state as one sees it who looks at memory without an access of his own: his walks need no slot. -/
def State.unslotted (s : State) : State := { s with walks := (0, 0) }

/-- Translating an access of a master (R129, R311 to R314, R320). The caches are filled and TOUCH set as it passes. One whose walk finds no slot
is given no key, and the step it belongs to does not come about (orWalk, State.walkNoted). -/
def State.translate (s : State) (m : Master) (need : Need) (va : Nat) : Except AccFault Xl × State :=
  if 2 ^ 56 ≤ va then (.error ⟨cXLATE, 0x20⟩, s)
  else if s.walkWaits m va then (.ok ⟨[], 0, false, false, false⟩, { s with starved := some va })
  else match s.cachedLeaf m va with
    | some t =>
      match s.checkLeaf m need t va with
      | .error e => (.error e, s)
      | .ok x => (.ok x, (s.fillMicro m t).touch t)
    | none =>
      match s.walk m va 4 0 (s.ctx m.ctx).ptb with
      | .error e => (.error e, s)
      | .ok ts =>
        match ts.getLast? with
        | none => (.error ⟨cXLATE, 0⟩, s)
        | some t =>
          let s := s.fillTlb m ts
          match s.checkLeaf m need t va with
          | .error e => (.error e, s)
          | .ok x => (.ok x, s.touch t)

/-- The writes of blocks that have reached the other copy of a replicated page and overlap [k, k + n) at this one, with the key each is still
to reach, in the order in which they reached the first (R238). -/
def State.halves (s : State) (k n : Nat) : List (Nat × Pend × Nat) :=
  sortBy (fun x y => x.2.1.first < y.2.1.first) (s.blocks.flatMap (fun e => e.2.pend.flatMap (fun p =>
    if p.first = 0 then [] else (p.pas.filter (fun j => match p.kind with
      | .wr bs => k < j + bs.length && j < k + n
      | _ => false)).map (fun j => (e.1, p, j)))))

/-- A write at all its keys at once; on a replicated page after those that have reached one copy alone (R238). -/
def State.allWrite (s : State) (keys : List Nat) (bs : List Byte) (c : Bool) : State :=
  let s := if keys.length < 2 then s
    else (keys.flatMap (fun k => s.halves k bs.length)).foldl (fun (s : State) h =>
      let s := s.modBlk h.1 (fun b => { b with pend := b.pend.map (fun p => if p.id == h.2.1.id then { p with pas := delNum p.pas h.2.2 } else p) })
      match h.2.1.kind with
      | .wr ws => s.portWrite h.2.2 ws h.2.1.cacheable
      | _ => s) s
  keys.foldl (fun (s : State) k => s.portWrite k bs c) s

/-- Writing through a context's translation, page by page; the address of the first write that faults. Fuel bounds the pages. -/
def State.engineWriteFrom (ctx : Nat) : Nat → State → Nat → List Byte → Except Nat State
  | 0, s, _, _ => .ok s
  | f + 1, s, va, bs =>
    if bs = [] then .ok s
    else
      let n := min bs.length (0x40000 - va % 0x40000)
      match s.translate (engineMaster ctx) { w := true } va with
      | (.error _, _) => .error va
      | (.ok x, s) => State.engineWriteFrom ctx f (s.allWrite x.keys (bs.take n) x.c) (va + n) (bs.drop n)

/-- Writing through a context's translation in runs that stay within a 256 KiB page; the address of the first write that faults. -/
def State.engineWrite (s : State) (ctx va : Nat) (bs : List Byte) : Except Nat State :=
  State.engineWriteFrom ctx (bs.length / 0x40000 + 2) s va bs

end Sys2Proof.Machine
end

