-- ==== Sys2Proof/Machine/Global.lean ====
section
/-! DEFINITION. Global memory as a block's agents and engines see it: L1 copies, accesses issued and not yet performed, atomics, and the
views of the shared store (07 R236, R239, R242 to R246; 04 R132; 05 R173; 11 R331, R335). -/

namespace Sys2Proof.Machine

/-! L1 (R236, R335). A copy [] stands for a poisoned one. -/

/-- The core whose L1 may hold a key, for a core: its own, or its place in a fused cluster. -/
def State.l1Core (s : State) (core k : Nat) : Nat :=
  if s.fused.contains (clusterOf core) then clusterOf core * 4 + (fld k 9 8 ^^^ fld k 11 10) else core

/-- Whether two cores see one L1: the same core, or cores of a fused cluster. -/
def State.oneL1 (s : State) (c d : Nat) : Bool := c == d || (clusterOf c == clusterOf d && s.fused.contains (clusterOf c))

/-- The copies a core's L1 holds. -/
def State.l1Of (s : State) (core : Nat) : Tab (List Byte) := (Tab.get s.l1 core).getD []

def State.l1Copy (s : State) (core sec : Nat) : Option (List Byte) := Tab.get (s.l1Of (s.l1Core core (sec * 64))) sec

/-- Sectors an L1 of 128 KiB holds (R1); a fused one has four such parts. -/
def l1Sectors : Nat := 2048

/-- Holding a copy; a full L1 loses another one. An L1 fills, and loses copies, by 64-byte sectors: the spec does not say how its lines fill it
(log 89). -/
def State.l1Set (s : State) (core sec : Nat) (c : List Byte) : State :=
  let h := s.l1Core core (sec * 64)
  let t := s.l1Of h
  let (t, s) := if (Tab.get t sec).isSome || t.length < l1Sectors then (t, s)
    else let (i, s) := s.pick t.length; (t.eraseIdx i, s)
  { s with l1 := Tab.put s.l1 h (Tab.put t sec c) }

def State.l1Drop (s : State) (core sec : Nat) : State :=
  let h := s.l1Core core (sec * 64)
  { s with l1 := Tab.put s.l1 h (Tab.del (s.l1Of h) sec) }

/-- Discarding every copy of a core's L1. -/
def State.l1Clear (s : State) (core : Nat) : State := { s with l1 := Tab.del s.l1 core }

/-- An acquire at a scope of an agent on a core: it discards the copies private to a narrower unit (R236, R246). -/
def State.acquireL1 (s : State) (core sc : Nat) : State :=
  if s.fused.contains (clusterOf core) then
    if 6 ≤ sc then (rangeFrom (clusterOf core * 4) 4).foldl State.l1Clear s else s
  else if 5 ≤ sc then s.l1Clear core else s

/-- Whether a read at a scope passes over the L1 of its core (R174, R239). -/
def State.passesL1 (s : State) (core sc : Nat) : Bool := (if s.fused.contains (clusterOf core) then 6 else 5) ≤ sc

/-- A write passing a core's L1 updates the copies present there; a wholly written sector is good again. -/
def State.l1Write (s : State) (core k : Nat) (bs : List Byte) : State :=
  (sectorsOf k bs.length).foldl (fun s sec =>
    match s.l1Copy core sec with
    | none => s
    | some [] => if k ≤ sec * 64 && sec * 64 + 64 ≤ k + bs.length then s.l1Set core sec ((bs.drop (sec * 64 - k)).take 64) else s
    | some c => s.l1Set core sec (patchBytes (sec * 64) c k bs)) s

/-! Pending accesses (R239). -/

/-- A read-modify-write that returns nothing. -/
def AccKind.silent : AccKind → AccKind
  | .rmw op w x y d _ => .rmw op w x y d false
  | k => k

/-- Bytes an access covers in its space. -/
def Pend.size (p : Pend) : Nat :=
  match p.kind with
  | .rd sz _ => 2 ^ (sz.toNat % 4)
  | .get n => n
  | .wr bs => bs.length
  | .shw old => old.length
  | .shc bs => bs.length
  | .rmw _ w _ _ _ _ => w

def Pend.isRead (p : Pend) : Bool :=
  match p.kind with
  | .rd _ _ | .get _ => true
  | _ => false

/-- A read that a tile instruction or an engine has asked for. -/
def Pend.isGet (p : Pend) : Bool :=
  match p.kind with
  | .get _ => true
  | _ => false

def Pend.isRmw (p : Pend) : Bool :=
  match p.kind with
  | .rmw _ _ _ _ _ _ => true
  | _ => false

def Pend.isShared (p : Pend) : Bool :=
  match p.kind with
  | .shw _ | .shc _ => true
  | _ => false

/-- The bytes of shared store an access writes. -/
def Pend.shBytes (p : Pend) : List Nat :=
  match p.kind with
  | .shw old => old.map (fun e => e.1)
  | .shc bs => rangeFrom p.addr bs.length
  | _ => []

/-- Whether two accesses touch a common byte of one space. -/
def Pend.overlaps (p q : Pend) : Bool :=
  p.isShared == q.isShared &&
    (if p.isShared then p.shBytes.any (fun a => q.shBytes.contains a)
     else p.keys.any (fun k => q.keys.any (fun j => k < j + q.size && j < k + p.size)))

/-- Whether an access is still to reach bytes of [k, k + n). -/
def Pend.at_ (p : Pend) (k n : Nat) : Bool := p.pas.any (fun j => k < j + p.size && j < k + n)

/-- The register an access will write. -/
def Pend.dest (p : Pend) : Option R6 :=
  match p.kind with
  | .rd _ d => some d
  | .rmw _ _ _ _ d true => some d
  | _ => none

def Pend.isAcq (p : Pend) : Bool := p.ord % 2 == 1
def Pend.isRel (p : Pend) : Bool := 2 ≤ p.ord

/-- Whether it is the control lane's and still to reach memory, or refused there. -/
def Pend.openC (p : Pend) : Bool := p.agent == .c && !p.isShared && (p.sent || p.pas != [] || p.bad.isSome)

/-- A write or reduction of T that its unit awaits (R173, R174): a reduction not accepted by its port, or one not performed at its scope. -/
def Pend.owed (p : Pend) : Bool :=
  p.agent == .t && !p.isRead && !p.isShared && ((p.isRmw && p.pas != []) || p.done < p.scope)

/-- The writes of pending accesses laid over bytes read at a key. -/
def overlay (ps : List Pend) (k : Nat) (bs : List Byte) : List Byte :=
  ps.foldl (fun bs p =>
    match p.kind with
    | .wr ws => p.pas.foldl (fun bs kk => patchBytes k bs kk ws) bs
    | _ => bs) bs

/-- The writes that have passed the L1 that a core sees and are on the path to their home ports, in the order in which they passed it. Every
reader of that L1 sees them (R236, R239). -/
def State.passed (s : State) (core : Nat) : List Pend :=
  sortBy (fun p q => p.stamp < q.stamp)
    ((s.blocks.filter (fun e => s.oneL1 e.2.core core)).flatMap (fun e => e.2.pend.filter (fun p => p.stamp != 0 && p.pas != [])))

/-- An agent's own writes that have not passed the L1, older than an access, laid over what it reads (R242). -/
def Block.own (b : Block) (a : Agent) (lim k : Nat) (bs : List Byte) : List Byte :=
  overlay (b.pend.filter (fun p => p.agent == a && p.stamp == 0 && p.id < lim)) k bs

/-- The writes that one copy alone of their replicated page holds, as block and access (R238). -/
def State.halfWrites (s : State) : List (Nat × Nat) :=
  s.blocks.flatMap (fun e => (e.2.pend.filter (fun p => p.first != 0 && p.pas != [])).map (fun p => (e.1, p.id)))

/-- An acquire of a block at a scope: it discards the copies private to a narrower unit, and what others have written so far may be ordered
before the block's later accesses, whose releases carry it on (R246; log 96). -/
def State.acquire (s : State) (blk sc : Nat) : State :=
  (s.acquireL1 (s.blk blk).core sc).modBlk blk (fun b =>
    { b with seenHalf := s.halfWrites, seenDirty := s.dirty.map (fun e => e.1) })

/-- Whether the writes that a block's acquires have ordered before its accesses are performed at a scope (R246): both copies of a replicated
page hold them from .dev on. -/
def State.seenDone (s : State) (b : Block) (sc : Nat) : Bool :=
  sc < 7 || b.seenHalf.all (fun e => (s.blk e.1).pend.all (fun q => q.id != e.2 || q.pas == []))

/-! Reads through L1 (R236, R317). -/

/-- One sector as a core reads it: its L1 copy when the page is cacheable (c) and the read does not pass over it, else the home port's with
the writes on their way to it. A miss fills the L1 when alloc allows; a read that passes over a copy renews it (R242). -/
def State.sectorRead (s : State) (core : Nat) (c pass alloc : Bool) (sec : Nat) : Except Nat (List Byte) × State :=
  match if c && !pass then s.l1Copy core sec else none with
  | some [] => (.error 3, s)
  | some bs => (.ok bs, s)
  | none =>
    match s.homePoison (sec * 64) 64 with
    | some d => (.error d, s)
    | none =>
      let bs := overlay (s.passed core) (sec * 64) (s.mem.read (sec * 64) 64)
      (.ok bs, if c && (alloc && !pass || (s.l1Copy core sec).isSome) then s.l1Set core sec bs else s)

/-- The sectors of a run, joined; the first poisoned one ends it. -/
def State.sectorsRead (s : State) (core : Nat) (c pass alloc : Bool) : List Nat → Except Nat (List Byte) × State
  | [] => (.ok [], s)
  | sec :: rest =>
    match s.sectorRead core c pass alloc sec with
    | (.error d, s) => (.error d, s)
    | (.ok bs, s) =>
      match s.sectorsRead core c pass alloc rest with
      | (.error d, s) => (.error d, s)
      | (.ok cs, s) => (.ok (bs ++ cs), s)

/-- n bytes at a key as a core reads them at a scope (R236, R239); an error is the DETAIL of POISON. -/
def State.gRead (s : State) (core sc : Nat) (c alloc : Bool) (k n : Nat) : Except Nat (List Byte) × State :=
  match s.sectorsRead core c (s.passesL1 core sc) alloc (sectorsOf k n) with
  | (.error d, s) => (.error d, s)
  | (.ok bs, s) => (.ok ((bs.drop (k % 64)).take n), s)

/-- The L1 of a core after a read that another die or device has answered: the copies of [k, k + n) present there, and with alloc all of them, hold
what their home holds now, no older than the answer (R236, R242; log 89). -/
def State.l1Renew (s : State) (core sc : Nat) (c alloc : Bool) (k n : Nat) : State :=
  if !c then s
  else (sectorsOf k n).foldl (fun (s : State) sec =>
    let had := (s.l1Copy core sec).isSome
    let s := s.l1Drop core sec
    (s.sectorRead core c false (had || (alloc && !s.passesL1 core sc)) sec).2) s

/-- Whether a core's L1 answers a read of [k, k + n) at a scope. -/
def State.l1Has (s : State) (core sc : Nat) (c : Bool) (k n : Nat) : Bool :=
  c && !s.passesL1 core sc && (sectorsOf k n).all (fun sec => (s.l1Copy core sec).isSome)

/-! Atomics (R132, R133, R173). -/

/-- TSTR's reduction (R173). -/
def redNew (op etype old x : Nat) : Nat :=
  match tyOf etype 8 with
  | .int sg w =>
    let a := intVal sg w old
    let b := intVal sg w x
    if op = 0 then wrapBits w (a + b) else if op = 1 then wrapBits w (min a b) else if op = 2 then wrapBits w (max a b)
    else if op = 3 then old &&& x else if op = 4 then old ||| x else old ^^^ x
  | .fp f =>
    if op = 0 then (roundVal f .rne false (addVal .rne (f.value old) (f.value x)).1).1
    else (roundVal f .rne false (minMaxVal (op = 2) (f.value old) (f.value x)).1).1

/-- The new value of a read-modify-write of w bytes. -/
def rmwNew (op : RmwOp) (w old x y : Nat) : Nat :=
  let n := 8 * w
  let b := x % 2 ^ n
  match op with
  | .add => (old + b) % 2 ^ n
  | .and => old &&& b
  | .or => old ||| b
  | .xor => old ^^^ b
  | .min => if sx n old ≤ sx n b then old else b
  | .max => if sx n old ≤ sx n b then b else old
  | .minn => min old b
  | .maxn => max old b
  | .swap => b
  | .cas => if old = b then y % 2 ^ n else old
  | .red o e => redNew o e old b

/-- An indivisible read-modify-write at a home port: the old value, and the state after it (R254). -/
def State.homeRmw (s : State) (k : Nat) (op : RmwOp) (w : Nat) (x y : Dword) (c : Bool := true) : Nat × State :=
  let old := s.mem.num k w
  (old, s.homeWrite k (leBytes w (rmwNew op w old x.toNat y.toNat)) c)

/-! The shared store as its users see it (R131, R239, R245, R250). -/

/-- As the control lane reads it: with its own writes. -/
def Block.sharedC (b : Block) (off n : Nat) : List Byte :=
  b.pend.foldl (fun bs p =>
    match p.kind with
    | .shc ws => patchBytes off bs p.addr ws
    | _ => bs) (b.shared.read off n)

/-- As an engine reads it: a write-back of T not yet performed at .engine shows the bytes it replaced. -/
def Block.sharedE (b : Block) (off n : Nat) : List Byte :=
  b.pend.reverse.foldl (fun bs p =>
    match p.kind with
    | .shw old => if p.done < 3 then old.foldl (fun bs e => patchBytes off bs e.1 [e.2]) bs else bs
    | _ => bs) (b.shared.read off n)

/-- Words of a store touched by [off, off + n). -/
def wordsOf (off n : Nat) : List Nat := if n = 0 then [] else rangeFrom (off / 4) ((off + n - 1) / 4 + 1 - off / 4)

/-- A list of poisoned words after a write of [off, off + n): wholly written words are good again (R317). -/
def cleanWords (l : List Nat) (off n : Nat) : List Nat :=
  l.filter (fun w => !(off ≤ w * 4 && w * 4 + 4 ≤ off + n))

/-- Whether a poisoned word lies in [off, off + n). -/
def badWords (l : List Nat) (off n : Nat) : Bool := (wordsOf off n).any (fun w => l.contains w)

/-- Writing bytes of the shared store. -/
def Block.writeShared (b : Block) (off : Nat) (bs : List Byte) : Block :=
  { b with shared := b.shared.write off bs, poisonSh := cleanWords b.poisonSh off bs.length }

/-- Writing shared store for the control lane, an engine or the farm distributor: what T's writes replaced there no longer shows to an
engine. -/
def Block.storeC (b : Block) (off : Nat) (bs : List Byte) : Block :=
  { b.writeShared off bs with
    pend := b.pend.map (fun p => match p.kind with
      | .shw old => { p with kind := .shw (old.filter (fun e => !(off ≤ e.1 && e.1 < off + bs.length))) }
      | _ => p) }

end Sys2Proof.Machine
end

