-- ==== Sys2Proof/Machine/Special.lean ====
section
/-! DEFINITION. The special registers as RDSR, frames and dumps read them (01 R44 to R46). -/

namespace Sys2Proof.Machine

/-- The data tile of a tile instruction (R160): the tile it writes, else the one it reads. -/
def Flight.tile (f : Flight) : Nat :=
  match f.d with
  | some o => o.name
  | none => match f.a with
    | some o => o.name
    | none => 0

/-- Whether deterministic mode is on for a block. -/
def State.detOn (s : State) (b : Block) : Bool := (s.lch b.launch).det

/-- %status (R45). -/
def State.statusWord (s : State) (b : Block) : Dword :=
  BitVec.ofNat 64 (b.slot % 4 * 2 ^ 14 + s.cgpos b % 4 * 2 ^ 12 + b2n (s.grouped b) * 2 ^ 11 + b2n (s.detOn b) * 2 ^ 10
    + b2n (s.fused.contains (clusterOf b.core)) * 2 ^ 9 + b2n (s.secure.contains b.core) * 2 ^ 8 + b2n (b.rows != 0) * 2 ^ 7
    + b2n (b.recs != []) * 2 ^ 6 + b2n b.intrap * 2 ^ 5 + b2n b.resumed * 2 ^ 4)

/-- %pix: the index of the oldest progress record (R39, R45). -/
def Block.pixReg (b : Block) : Dword :=
  match b.recs with
  | [] => 0
  | f :: _ => pixWord true f.tile f.idx

/-- %det (R45). -/
def State.detWord (s : State) (b : Block) : Dword :=
  BitVec.ofNat 64 ((s.lch b.launch).epoch.toNat * 2 ^ 32 + b2n b.detWait * 2 + b2n (s.detOn b))

/-- The nest that %i0 to %i5 read: in a handler the interrupted one (R127). -/
def Block.seenNest (b : Block) : List Level := if b.intrap then b.inest else b.nest

/-- %iN (R46). -/
def Block.loopIndex (b : Block) (n : Nat) : Nat :=
  match b.seenNest[n]? with
  | some l => l.index
  | none => 0

/-- A special register's value (R44). -/
def State.srValue (s : State) (b : Block) (n : Nat) : Dword :=
  if n = 0 then s.statusWord b else if n = 1 then b.mode else if n = 2 then b.fflags else if n = 3 then b.nfin
  else if n = 4 then b.bflag else if n = 5 then b.mgrant else if n = 6 then b.pixReg else if n = 7 then b.fmask
  else if n = 8 then b.tcause else if n = 9 then b.tpc else if n = 10 then b.ttile else if n = 11 then b.telem
  else if n = 12 then b.taddr else if n = 13 then b.tport else if n = 14 then b.eptWord else if n = 15 then s.detWord b
  else if n = 16 then BitVec.ofNat 64 b.blkid else if n = 17 then BitVec.ofNat 64 (clusterOf b.core)
  else if n = 18 then BitVec.ofNat 64 b.core else if n = 19 then BitVec.ofNat 64 (dieOf b.core)
  else if n = 20 then BitVec.ofNat 64 s.devid.toNat
  else if n ≤ 26 then BitVec.ofNat 64 (b.loopIndex (n - 21))
  else if n = 27 then b.thr else if n = 28 then BitVec.ofNat 64 (zoneOf b.core) else BitVec.ofNat 64 s.qtb

/-- The special registers in the order of the frame header (R308). -/
def frameSrs : List Nat := rangeFrom 0 16 ++ [27]

/-- A tile shape record's bytes (R33). -/
def Tsr.bytes (t : Tsr) : List Byte := [t.d0, t.d1, t.d2, t.d3, t.d4, t.d5].flatMap (fun d => leBytes 8 d.toNat)

end Sys2Proof.Machine
end

