-- ==== Sys2Proof/Machine/Trace.lean ====
section
/-! DEFINITION. The trace unit: records, the sessions they go to, watchpoints, and basic-block counters (13 R369 to R376; 04 R150). -/

namespace Sys2Proof.Machine

/-- The dwords of a record's units: header, stamp, identity, payload, padded to whole units (R371). -/
def recordBytes (kind units id ctx core slot : Nat) (stamp who : Nat) (payload : List Nat) : List Byte :=
  let d0 := slot * 2 ^ 40 + core * 2 ^ 32 + ctx * 2 ^ 24 + id * 2 ^ 16 + (units - 1) * 2 ^ 8 + kind
  let ds := [d0, stamp, who] ++ payload
  (ds ++ List.replicate (8 * units - ds.length) 0).flatMap (leBytes 8)

/-- Writing bytes into a ring buffer of a slot at TSWIDX, through the context's translation; none on a fault (R370). No walk of the trace unit
waits for a slot (log 83). -/
def State.ringWrite (s : State) (n : Nat) (bs : List Byte) : Option State :=
  let t := s.slotOf n
  match s.unslotted.engineWrite t.ctx (t.base.toNat + t.widx.toNat % 2 ^ t.log2) bs with
  | .error _ => none
  | .ok s' => some (({ s' with walks := s.walks } : State).modSlot n (fun t => { t with widx := t.widx + BitVec.ofNat 64 bs.length }))

/-- The fault of a buffer write (R370). -/
def State.traceFault (s : State) (n : Nat) : State := s.modSlot n (fun t => { t with fault := true, drop := t.drop + 1, lost := t.lost + 1 })

/-- The PAD units before a record of several units that would wrap when the buffer's count is w (R370). -/
def TraceSlot.pad (t : TraceSlot) (w units : Nat) : Nat :=
  let left := 2 ^ t.log2 - w % 2 ^ t.log2
  if units * 64 ≤ left then 0 else left / 64

/-- Whether a record, after extra records of one unit, fits under stop mode, its PAD included (R370). -/
def TraceSlot.room (t : TraceSlot) (extra units : Nat) : Bool :=
  let w := t.widx.toNat + extra * 64
  t.mode == 0 || w + (t.pad w units + units) * 64 ≤ t.ridx.toNat + 2 ^ t.log2

/-- Filling the remainder of the buffer with one PAD record when a record of several units would wrap (R370). -/
def State.padFor (s : State) (n units : Nat) : Option State :=
  let t := s.slotOf n
  match t.pad t.widx.toNat units with
  | 0 => some s
  | k => s.ringWrite n (recordBytes 0 k t.id t.ctx 0xFF 0 s.qtb 0 [])

/-- Writing one record into one slot: PAD and TRUNC of reason 4 as R370 asks, or the record dropped. -/
def State.putRecord (s : State) (n kind units core cslot who : Nat) (payload : List Nat) : State :=
  let t := s.slotOf n
  let extra := if t.lost = 0 then 0 else 1
  if !t.room extra units then s.modSlot n (fun t => { t with drop := t.drop + 1, lost := t.lost + 1 })
  else
    let s1 := if t.lost = 0 then some s
      else (s.ringWrite n (recordBytes 0x0B 1 t.id t.ctx 0xFF 0 s.qtb 0 [4, t.lost, t.lastStamp.toNat])).map
        (fun s => s.modSlot n (fun t => { t with lost := 0 }))
    match s1.bind (fun s => s.padFor n units) with
    | none => s.traceFault n
    | some s =>
      match s.ringWrite n (recordBytes kind units t.id t.ctx core cslot s.qtb who payload) with
      | none => s.traceFault n
      | some s => s.modSlot n (fun t => { t with lastStamp := BitVec.ofNat 64 s.qtb })

/-- Enabled slots of a context, with one session id or any (0). -/
def State.slotsOf (s : State) (ctx sess : Nat) : List Nat :=
  (List.range 32).filter (fun n => let t := s.slotOf n; t.en && !t.closed && t.ctx == ctx && (sess == 0 || t.id == sess))

/-- A record for the sessions of a context whose streams are open; KINDS selects, except TRUNC and QSTEP (R371, R373, R376). -/
def State.record (s : State) (slots : List Nat) (kind units core cslot who : Nat) (payload : List Nat) : State :=
  slots.foldl (fun s n =>
    if (s.slotOf n).closed then s
    else if kind == 0x0B || kind == 0x0C || bitOf (s.slotOf n).kinds kind then s.putRecord n kind units core cslot who payload else s) s

/-- Dword 2 of a record about a launch (R371). -/
def Launch.who (x : Launch) (blkid : Nat) : Nat := x.queue * 2 ^ 48 + x.lidx % 2 ^ 16 * 2 ^ 32 + blkid

/-- The slots of a launch's session; none without one (R369). -/
def State.sessionOf (s : State) (x : Launch) : List Nat := if x.trsess = 0 then [] else s.slotsOf x.ctx x.trsess

/-- A record about a block, in its launch's session. -/
def State.blkRecord (s : State) (b : Block) (kind units : Nat) (payload : List Nat) : State :=
  let x := s.lch b.launch
  s.record (s.sessionOf x) kind units b.core b.slot (x.who b.blkid) payload

/-- A record about a launch, in its session. -/
def State.lchRecord (s : State) (x : Launch) (kind : Nat) (payload : List Nat) : State :=
  s.record (s.sessionOf x) kind 1 0xFF 0 (x.who 0) payload

/-- A TRUNC record, which closes a session's stream for a reason; a stream that is closed gets none (R376). -/
def State.trunc (s : State) (n reason : Nat) : State :=
  let t := s.slotOf n
  if t.closed then s
  else (s.putRecord n 0x0B 1 0xFF 0 0 [reason, 0, t.lastStamp.toNat]).modSlot n (fun t => { t with closed := reason == 1 || reason == 2 })

/-- The loop ordinal (R372). -/
def Block.ordinal (b : Block) : Nat := b.nest.foldl (fun o l => (o * l.count + l.index) % 2 ^ 32) 0

/-- A STOP record, written to every enabled slot of the context (R371, R373). -/
def State.stopRecord (s : State) (b : Block) (pc strip ord : Nat) : State :=
  s.record (s.slotsOf b.ctx 0) 0x09 1 b.core b.slot ((s.lch b.launch).who b.blkid) [pc, strip, ord]

/-- A DUMP record (R374). Dwords 3 to 7 of unit 0 are 0. -/
def State.dumpRecord (s : State) (b : Block) : State :=
  let regs := (List.range 64).map (fun i => (b.reg (BitVec.ofNat 6 i)).toNat)
  let srs := frameSrs.map (fun n => (s.srValue b n).toNat)
  let mid := [b.k.toNat % 256 ||| 1] ++ srs
  let tsrs := (List.range 64).flatMap (fun i => let t := b.tsrOf i; [t.d0, t.d1, t.d2, t.d3, t.d4, t.d5].map BitVec.toNat)
  s.record (s.slotsOf b.ctx 0) 0x0A 60 b.core b.slot ((s.lch b.launch).who b.blkid)
    (List.replicate 5 0 ++ regs ++ (mid ++ List.replicate (24 - mid.length) 0) ++ tsrs)

/-- What a breakpoint does to a block when it triggers (R373): a STOP record only, or a pending stop. -/
def State.trigger (s : State) (blk : Nat) (bp : Breakpoint) (pc strip ord : Nat) : State :=
  let b := s.blk blk
  if bp.act = 0 then s.stopRecord b pc strip ord
  else s.setBlk blk { b with stopReq := some (bp.act = 2 || b.stopReq == some true) }

/-- Watchpoints on a global access of a block or its engines (R373, R259). -/
def State.watch (s : State) (blk va n : Nat) (write : Bool) : State :=
  let b := s.blk blk
  (List.range 8).foldl (fun s i =>
    let bp := s.bp i
    let len := 2 ^ (bp.wsize + 3)
    if bp.en && bp.ctx == b.ctx && bp.match_ == (if write then 3 else 2) && va < bp.addr.toNat + len && bp.addr.toNat < va + n then
      s.trigger blk bp b.pc.toNat b.strip.toNat b.ordinal else s) s

/-- Breakpoints on an instruction that a block of a context has issued, at an address and with an ordinal (R373). -/
def State.breakPc (s : State) (blk ctx pc ord : Nat) : State :=
  (List.range 8).foldl (fun s i =>
    let bp := s.bp i
    if bp.en && bp.ctx == ctx && bp.match_ == 0 && bp.addr.toNat == pc then s.trigger blk bp pc (s.blk blk).strip.toNat ord else s) s

/-- Breakpoints on an issued tile instruction's strip (R373). -/
def State.breakStrip (s : State) (blk pc strip ord : Nat) : State :=
  let b := s.blk blk
  (List.range 8).foldl (fun s i =>
    let bp := s.bp i
    if bp.en && bp.ctx == b.ctx && bp.match_ == 1 && bp.addr.toNat == strip && (bp.any || bp.ord == ord) then
      s.trigger blk bp pc strip ord else s) s

/-- Adding a block's cached basic-block counts into the launch's array (R150); a fault drops them and writes BBXF (R375). -/
def State.flushBbx (s : State) (blk : Nat) : State :=
  let b := s.blk blk
  let x := s.lch b.launch
  let step := fun (acc : Bool × State) (e : Nat × Nat) =>
    if !acc.1 || e.2 = 0 then acc
    else match acc.2.unslotted.translate (engineMaster b.ctx) { r := true, w := true } (x.bbxBase + 8 * e.1) with
      | (.error _, s) => (false, s)
      | (.ok t, s) =>
        if (s.homePoison t.rkey 8).isSome then (false, s)
        else (true, s.allWrite t.keys (leBytes 8 (s.mem.num t.rkey 8 + e.2)) t.c)
  let walks := s.walks
  let r := if x.bbxBase = 0 then (true, s) else b.bbx.foldl step (true, s)
  let r := (r.1, { r.2 with walks })
  let s := if r.1 then r.2 else r.2.blkRecord b 0x0D 1 [x.bbxBase]
  s.modBlk blk (fun b => { b with bbx := [] })

end Sys2Proof.Machine
end

