-- ==== Sys2Proof/Machine/Tile.lean ====
section
/-! DEFINITION. Tiles in their stores: the constraints on a tile shape record, element addresses, reading and writing elements, bounds and
clamps (01 R33 to R37, R41, R42; 02 R50, R62 to R64, R71; 05 R163 to R165). -/

namespace Sys2Proof.Machine

/-! Geometry (R35). -/

def Tsr.esz (t : Tsr) : Nat := codeBytes t.etype
def Tsr.isPlanes (t : Tsr) : Bool := t.layout == 2
def Tsr.inLane (t : Tsr) : Bool := t.space == 2

/-- Bytes of one plane of a row. -/
def Tsr.planeBytes (t : Tsr) : Nat := ceilDiv t.cols 8

/-- Bytes of one line: a row, a column in column-major layout, what one lane holds of a row in lane store (R34, R35, R170). -/
def Tsr.lineBytes (t : Tsr) : Nat :=
  if t.inLane then ceilDiv t.cols 128 * t.esz
  else if t.isPlanes then t.planes * t.planeBytes + 2 * ceilDiv t.cols 64 * b2n t.pscale
  else if t.layout = 1 then t.rows * t.esz
  else t.cols * t.esz

/-- Lines of an instance. -/
def Tsr.lines (t : Tsr) : Nat := if t.layout = 1 && !t.inLane then t.cols else t.rows

/-- The end, in bytes from its start, of line n, with its chunks rotated. -/
def Tsr.lineEnd (t : Tsr) (n : Nat) : Nat :=
  if t.rot = 0 then t.lineBytes
  else (List.range (ceilDiv t.lineBytes 16)).foldl
    (fun m j => max m (16 * (j ^^^ (n % 2 ^ t.rot)) + min 16 (t.lineBytes - 16 * j))) 0

/-- The footprint (R35). -/
def Tsr.footprint (t : Tsr) : Nat := (t.depth - 1) * t.tpitch + (t.lines - 1) * t.rpitch + t.lineEnd (t.lines - 1)

/-- The tile byte size of a channel port (R31, R41): the bytes of one instance. -/
def Tsr.tileBytes (t : Tsr) : Nat := (t.lines - 1) * t.rpitch + t.lineEnd (t.lines - 1)

/-- The store key of element (r, c) of an instance: its byte address, or 1,024 × lane + address in lane store (R35). -/
def Tsr.addr (t : Tsr) (inst r c : Nat) : Nat :=
  if t.inLane then c % 128 * 1024 + t.base + inst * t.tpitch + r * t.rpitch + c / 128 * t.esz
  else
    let off := if t.layout = 1 then c * t.rpitch + r * t.esz else r * t.rpitch + c * t.esz
    let off := if t.rot = 0 then off
      else
        let j := off % t.rpitch / 16
        let s := (if t.layout = 1 then c else r) % 2 ^ t.rot
        off - 16 * j + 16 * (j ^^^ s)
    t.base + inst * t.tpitch + off

/-- The address of plane p of row r (R35). -/
def Tsr.planeAddr (t : Tsr) (inst r p : Nat) : Nat := t.base + inst * t.tpitch + r * t.rpitch + p * t.planeBytes
/-- The address of the scale of run j of row r (R35, R64). -/
def Tsr.scaleAddr (t : Tsr) (inst r j : Nat) : Nat := t.planeAddr inst r t.planes + 2 * j

/-! The constraints on a record (R34). -/

/-- What a record is checked against: declared bytes of each store, monitor claims. -/
structure Limits where
  shared : Nat
  acc : Nat
  lane : Nat
  monc : Nat
  deriving DecidableEq, Repr

def Limits.of (l : Limits) (space : Nat) : Nat := if space = 0 then l.shared else if space = 1 then l.acc else l.lane

/-- A bound as a value in the bound format (R34). -/
def Tsr.bound (t : Tsr) (d : Dword) : FVal :=
  if isFpCode t.etype then fp64.value d.toNat
  else if isSignedCode t.etype then finOf false (sx 64 d.toNat) 0 else finOf false (d.toNat : Nat) 0

/-- Whether BLO ≤ BHI fails or one is a NaN. -/
def Tsr.boundsBad (t : Tsr) : Bool :=
  (t.bound t.d2).isNan || (t.bound t.d3).isNan || ordVal (t.bound t.d2) (t.bound t.d3) == .gt

/-- The broken constraints on type and layout, each with 64 × dword + low bit of its lowest offending field (R34, R49, R50). -/
def Tsr.formFaults (t : Tsr) : List (Bool × Nat) :=
  [(t.layout == 3, 104), (!typeCode t.etype, 106), (typeCode t.etype && t.isPlanes != isPlane t.etype, 104), (!typeCode t.etype && t.isPlanes, 104),
   (if t.isPlanes then t.planes < 2 || 16 < t.planes else t.planes != 0, 99), (t.pscale && !t.isPlanes, 98)]

/-- Whether the bytes of a row are defined: in bit-plane layout by a plane count, whatever ETYPE holds (R35, R170), else by an assigned type of a
layout of its own; in lane store by its type (R34). -/
def Tsr.rowDefined (t : Tsr) : Bool :=
  t.layout != 3 && (if t.isPlanes then 2 ≤ t.planes && t.planes ≤ 16 && (!t.inLane || isPlane t.etype) else typeCode t.etype && !isPlane t.etype)

/-- The lowest offending field of a record, if a constraint is broken (R34). A relation is evaluated where its terms are defined: row size and
extent on a record whose row has a size, the bounds' on one whose type is assigned (log 21). -/
def Tsr.fault (t : Tsr) (l : Limits) : Option Nat :=
  let sound := t.rowDefined
  let thr := t.d5.toNat
  lowest (t.formFaults ++
   [(t.space == 3, 62), (5 < t.rot, 57),
    (t.space == 1 && !(t.etype == 0x14 || t.etype == 0x15 || t.etype == 0x07), 62),
    (t.space == 2 && (isPlane t.etype || !typeCode t.etype || t.esz == 8), 62),
    (t.space != 0 && (t.isPlanes || t.pscale), 62),
    (t.base % max t.esz 4 != 0, 0), (t.rpitch % 4 != 0, 112), (t.tpitch % 64 != 0, 20),
    (sound && t.rpitch < t.lineBytes, if t.layout == 1 && !t.inLane then 48 else 40),
    (sound && t.space < 3 && l.of t.space < t.base + t.footprint, 0),
    (t.rot != 0 && (t.space != 0 || 1 < t.layout || t.rpitch % (16 * 2 ^ t.rot) != 0), 57),
    (typeCode t.etype && t.bpol != 0 && t.boundsBad, 128),
    (t.monen && l.monc ≤ t.monid, 313), (t.monen && !t.monall && t.cols ≤ t.moncol, 40),
    (t.vclass != 0 && !(t.space == 1 && t.etype == 0x14), 62),
    (t.km1 != 0 && t.vclass != 3, 296), (t.thrsel != 0 && t.vclass == 1, 294), (t.thrsel == 3, 294),
    (t.thrsel == 1 && (thr % 8 != 0 || l.shared < thr + 8), 294), (t.thrsel == 2 && (thr % 8 != 0 || thr / 2 ^ 56 != 0), 294)])

/-- The lowest offending field of a queue control word's dword 0 (R41, R42, R151). The extent of an ESIZE of 7 counts 1,024 bytes, and of 6 on a queue
that carries no tiles the bytes of tile T48 + N (log 86). -/
def qcwFault (n : Nat) (d : Dword) (shared tileBytes : Nat) : Option Nat :=
  let esize := dfld d 42 40
  let depth := dfld d 35 24 + 1
  let base := dfld d 19 0
  let bytes := if esize = 6 then tileBytes else 8 * 2 ^ esize
  lowest [(bitOf d.toNat 63 && base % 64 != 0, 0), (bitOf d.toNat 63 && shared < base + bytes * depth, 0),
    (esize == 7, 40), (n < 8 && esize != 0, 40), (8 ≤ n && bitOf d.toNat 63 && esize != 6, 40)]

def State.limits (s : State) (b : Block) : Limits := ⟨b.hdr.shared, b.hdr.acc, b.hdr.lane, (s.lch b.launch).monc⟩

/-! Elements. An element is held as its bit pattern; a bit-plane element as the N bits of its planes. -/

def Block.store (b : Block) (space : Nat) : Mem := if space = 0 then b.shared else if space = 1 then b.acc else b.lane
def Block.poisonOf (b : Block) (space : Nat) : List Nat := if space = 0 then b.poisonSh else if space = 1 then b.poisonAcc else b.poisonLane

/-- Writing bytes of a store; a wholly written granule is good again. -/
def Block.storeWrite (b : Block) (space key : Nat) (bs : List Byte) : Block :=
  if space = 0 then b.writeShared key bs
  else if space = 1 then { b with acc := b.acc.write key bs, poisonAcc := cleanWords b.poisonAcc key bs.length }
  else { b with lane := b.lane.write key bs, poisonLane := cleanWords b.poisonLane key bs.length }

/-- The spans of a store that hold an element. -/
def Tsr.spans (t : Tsr) (inst r c : Nat) : List (Nat × Nat) :=
  if t.isPlanes then
    (List.range t.planes).map (fun p => (t.planeAddr inst r p + c / 8, 1)) ++
      (if t.pscale then [(t.scaleAddr inst r (c / 64), 2)] else [])
  else [(t.addr inst r c, t.esz)]

/-- The bits of an element. -/
def Block.elt (b : Block) (t : Tsr) (inst r c : Nat) : Nat :=
  if t.isPlanes then
    (List.range t.planes).foldl (fun v p => 2 * v + b2n (bitOf (b.shared.get (t.planeAddr inst r p + c / 8)).toNat (c % 8))) 0
  else (b.store t.space).num (t.addr inst r c) t.esz

/-- The scale word of the run of an element. -/
def Block.scaleBits (b : Block) (t : Tsr) (inst r c : Nat) : Nat := b.shared.num (t.scaleAddr inst r (c / 64)) 2

/-- DETAIL of the poison an element's granules hold, with the key (R299, R317). -/
def Block.eltPoison (b : Block) (t : Tsr) (inst r c : Nat) : Option Nat :=
  (t.spans inst r c).findSome? (fun e => if badWords (b.poisonOf t.space) e.1 e.2 then some e.1 else none)

/-- Replacing the tag of an accumulator word (R71). -/
def Block.setTag (b : Block) (key : Nat) (on : Bool) : Block := { b with tags := setNum b.tags (key / 4) on }

/-- Storing an element: its bytes or planes, and the verdict tag in the accumulator store (R71). -/
def Block.putElt (b : Block) (t : Tsr) (inst r c v : Nat) : Block :=
  if t.isPlanes then
    (List.range t.planes).foldl (fun b p =>
      let a := t.planeAddr inst r p + c / 8
      b.writeShared a [BitVec.ofNat 8 (setFld (b.shared.get a).toNat (c % 8) (c % 8) (b2n (bitOf v (t.planes - 1 - p))))]) b
  else
    let a := t.addr inst r c
    let b := b.storeWrite t.space a (leBytes t.esz v)
    if t.space = 1 then
      let b := b.setTag a (t.etype == 0x14 && v == abnOf 0x14)
      if t.esz = 8 then b.setTag (a + 4) false else b
    else b

/-- Storing a run's scale. -/
def Block.putScale (b : Block) (t : Tsr) (inst r c v : Nat) : Block := b.writeShared (t.scaleAddr inst r (c / 64)) (leBytes 2 v)

/-- The value of an element: its bits in its type, times the scale of its run (R64), with the flags of the product. -/
def Tsr.valueF (t : Tsr) (bits scale : Nat) : FVal × Nat :=
  if t.pscale then mulVal (t.ty.value bits) (fp16.value scale) else (t.ty.value bits, 0)
/-- The value alone. -/
def Tsr.value (t : Tsr) (bits scale : Nat) : FVal := (t.valueF bits scale).1

/-- The value of the scale of an element: 1 without PSCALE. -/
def Tsr.scaleVal (t : Tsr) (scale : Nat) : FVal := if t.pscale then fp16.value scale else .fin false 1 0

/-! Bounds (R164, R165). -/

/-- Whether a value lies outside bounds, compared exactly (R164). -/
def outside (lo hi v : FVal) : Bool := v.isNan || ordVal v lo == .lt || ordVal v hi == .gt

/-- floor or ceiling of n / (m × 2^e). -/
def divToward (up : Bool) (n m : Int) (e : Int) : Int :=
  let num := if e < 0 then n * (2 ^ e.natAbs : Nat) else n
  let den := if e < 0 then m else m * (2 ^ e.natAbs : Nat)
  let num := if den < 0 then -num else num
  let den := if den < 0 then -den else den
  if up then -((-num) / den) else num / den

/-- The value of a type nearest a bound from within: the largest ≤ it (up false), or the smallest ≥ it (up true), for elements that carry
a scale (R165). None where the scale leaves no finite value. -/
def nearest (ty : Ty) (up : Bool) (scale : FVal) (bd : FVal) : Option Nat :=
  match ty with
  | .fp f => some (roundVal f (if up then .rup else .rdn) false bd).1
  | .int sg w =>
    match bd, scale with
    | .fin neg m e, .fin neg' m' e' =>
      if m' = 0 then none
      else
        let q := divToward (up != neg') (signed neg m) (signed neg' m') (e' - e)
        some (wrapBits w (clampInt (intMin sg w) (intMax sg w) q))
    | _, _ => none

/-- The number 1. -/
def oneVal : FVal := .fin false 1 0

/-- clamp_value: the clamped bits, or none where no value of the type lies within the bounds (R165). v is outside and no NaN. -/
def clampValue (ty : Ty) (scale lo hi v : FVal) : Option Nat :=
  let above := ordVal v hi == .gt
  match nearest ty (!above) scale (if above then hi else lo) with
  | none => none
  | some bits => if outside lo hi (mulVal (ty.value bits) scale).1 then none else some bits

/-! Monitor units (R75). -/

/-- The window exponent a claim's configuration gives (R228). -/
def Claim.exp (c : Claim) : Int := sx 12 (dfld c.cfg 43 32)

/-- mon_units: the contribution and whether it is inexact; none when it is out of the window. -/
def monUnits (v : FVal) (e : Int) : Option (Int × Bool) :=
  match v with
  | .fin neg m x =>
    let k := x - e
    if 0 ≤ k && 2 ^ 96 ≤ m * 2 ^ (min k.toNat 100) then none
    else
      let r := toInteger .rne neg m k
      if k < 0 && 2 ^ 96 * 2 ^ k.natAbs ≤ m then none else some r
  | _ => none

/-- A contribution to a claim of a launch from a die (R75, R266). -/
def Claim.add (c : Claim) (die : Nat) (v : FVal) : Claim :=
  match monUnits v c.exp with
  | none => { c with eOutwin := true }
  | some (u, nx) =>
    let c := { c with eInexact := c.eInexact || nx }
    if die = 0 then { c with sum0 := c.sum0 + u } else { c with sum1 := c.sum1 + u }

/-- A claim of a launch changed. -/
def Launch.modClaim (x : Launch) (n : Nat) (f : Claim → Claim) : Launch :=
  { x with claims := (List.range x.claims.length).zipWith (fun i c => if i = n then f c else c) x.claims }

end Sys2Proof.Machine
end

