-- ==== Sys2Proof/Machine/Frame.lean ====
section
/-! DEFINITION. Save frames: their content, writing one, and reading one back with the checks of a resume (10 R306 to R310; 13 R363). -/

namespace Sys2Proof.Machine

/-- Bytes of a frame (R306). -/
def frameBytes : Nat := 0x100000
/-- The address of frame f of a context. -/
def Context.frameVa (x : Context) (f : Nat) : Nat := x.saveb.toNat + f * frameBytes
/-- A free frame of a context: the lowest (log 6). -/
def Context.freeFrame (x : Context) : Option Nat := (List.range x.saven).find? (fun f => !x.frames.contains f)

/-- A run of dwords at an offset. -/
def dwordsAt (off : Nat) (ds : List Nat) : Mem := Mem.ofBytes off (ds.flatMap (leBytes 8))

/-- A store's bytes below a size, moved to an offset. -/
def moved (m : Mem) (lim off : Nat) : Mem := (m.below lim).map (fun c => (c.1 + off, c.2))

/-- The words of an instruction, with zeros for the ones it has not. -/
def wordsOfInstr (i : Instr) : Nat × Nat × Nat :=
  match encode i with
  | [w0] => (w0.toNat, 0, 0)
  | [w0, w1] => (w0.toNat, w1.toNat, 0)
  | [w0, w1, w2] => (w0.toNat, w1.toNat, w2.toNat)
  | _ => (0, 0, 0)

def Opnd.instOf (o : Option Opnd) : Nat := (o.map (fun x => x.inst)).getD 0
def Opnd.tsrOf (o : Option Opnd) : Tsr := (o.map (fun x => x.tsr)).getD {}

/-- A progress record (R309). -/
def Flight.record (f : Flight) : List Byte :=
  let (w0, w1, w2) := wordsOfInstr f.instr
  let insts := Opnd.instOf f.d + Opnd.instOf f.a * 4 + Opnd.instOf f.b * 16 + Opnd.instOf f.c * 64 + Opnd.instOf f.m * 256
  let sc := f.sc.map BitVec.toNat
  let ds := [2 ^ 63 + f.pc.toNat, (pixWord true f.tile f.idx).toNat, w1 * 2 ^ 32 + w0, f.chain.length * 2 ^ 32 + w2,
    b2n f.fm.isSome * 2 ^ 16 + insts, sc.getD 0 0, sc.getD 1 0, sc.getD 2 0]
  ds.flatMap (leBytes 8) ++ [f.d, f.a, f.b, f.c, f.m].flatMap (fun o => (Opnd.tsrOf o).bytes)
    ++ f.chain.flatMap (fun e => leBytes 4 (wordsOfInstr e.1).1)

/-- A LOOPN nest (R307). -/
def nestDwords (n : List Level) : List Nat :=
  n.flatMap (fun l => [l.lenm1 * 2 ^ 56 + l.start.toNat, l.index * 2 ^ 32 + l.count])

/-- One element of the cleat state (R310). -/
def CleatEl.dwords (e : CleatEl) : List Nat :=
  let q := wrapBits 96 e.q
  [q % 2 ^ 64, q / 2 ^ 64 + e.st * 2 ^ 32 + b2n e.neg * 2 ^ 35]

/-- Why a frame was written: its REASON, TERM and STATE fields (R308). -/
structure FrameWhy where
  reason : Nat
  term : Nat
  state : Nat
  deriving DecidableEq, Repr

/-- The content of a frame (R307 to R310). -/
def State.frameMem (s : State) (b : Block) (w : FrameWhy) : Mem :=
  let x := s.lch b.launch
  let head := [0x4F46 * 2 ^ 48 + 2 ^ 40 + w.reason * 2 ^ 16 + w.term * 2 ^ 8 + w.state, b.ctx * 2 ^ 32 + b.blkid,
    x.queue * 2 ^ 32 + x.lidx % 2 ^ 32, b.pc.toNat, s.qtb, b.hdr.lane * 2 ^ 39 + b.hdr.acc * 2 ^ 20 + b.hdr.shared]
  let cleat := b.recs.findSome? (fun f => f.verd)
  let special := frameSrs.map (fun n => (s.srValue b n).toNat) ++ [b.k.toNat ||| 1, b.inest.length * 2 ^ 4 + b.nest.length,
    (cleat.map (fun c => 2 ^ 63 + c.thr % 2 ^ 32)).getD 0]
  let regs := (List.range 64).map (fun n => if n < b.hdr.sregs && !(48 ≤ n && n ≤ 55) then (b.reg (BitVec.ofNat 6 n)).toNat else 0)
  let fm := match b.recs with
    | f :: _ => (f.fm.getD []).foldl (fun (m : Mem) n => m.write (0x3000 + n / 8) [BitVec.ofNat 8 ((m.get (0x3000 + n / 8)).toNat + 2 ^ (n % 8))]) ([] : Mem)
    | [] => []
  let tags := b.tags.foldl (fun (m : Mem) n => m.write (0x5000 + n / 8) [BitVec.ofNat 8 ((m.get (0x5000 + n / 8)).toNat + 2 ^ (n % 8))]) ([] : Mem)
  dwordsAt 0 head ++ dwordsAt 0x40 special ++ dwordsAt 0x100 regs
    ++ Mem.ofBytes 0x1000 ((List.range 64).flatMap (fun n => (b.tsrOf n).bytes))
    ++ dwordsAt 0x1C00 ((List.range 16).flatMap (fun n => [(b.qcwOf n).d0.toNat, (b.qcwOf n).d1.toNat]))
    ++ dwordsAt 0x1D00 (nestDwords b.nest) ++ dwordsAt 0x1D80 (nestDwords b.inest)
    ++ ((List.range b.recs.length).zip b.recs).flatMap (fun e => Mem.ofBytes (0x2000 + 512 * e.1) e.2.record)
    ++ fm ++ tags
    ++ dwordsAt 0x10000 ((cleat.map (fun c => c.els.flatMap CleatEl.dwords)).getD [])
    ++ moved b.shared b.hdr.shared 0x20000 ++ moved b.acc b.hdr.acc 0x80000 ++ moved b.lane 0x20000 0xC0000

/-- Where a frame holds the poisoned words of a block's stores, a poisoned accumulator word with its tag (R317; log 8). -/
def Block.framePoison (b : Block) : List Nat :=
  b.poisonAcc.map (fun w => 0x5000 + w / 8) ++ b.poisonSh.map (fun w => 0x20000 + 4 * w) ++ b.poisonAcc.map (fun w => 0x80000 + 4 * w)
    ++ b.poisonLane.map (fun w => 0xC0000 + 4 * w)

/-- Replacing all 256 KiB at a key by the bytes of a frame's quarter, performed at .persist, so that its lines' entries in the write queues are
applied (R332); bad: the offsets that take poison with them. -/
def State.pageFill (s : State) (k : Nat) (m : Mem) (bad : List Nat) : State :=
  let n := 0x40000
  let secs := fun p => k / 64 ≤ p && p < (k + n) / 64
  { s with
    mem := s.mem.below k ++ Mem.within (k + n) k (m.map (fun c => (c.1 + k, c.2))) ++ s.mem.from_ (k + n)
    dirty := s.dirty.filter (fun e => !secs e.1)
    wq := s.wq.filter (fun l => !secs (l * 4))
    poison := bad.foldl (fun l o => addNum l ((k + o) / 64)) (s.poison.filter (fun p => !secs p))
    poisonL2 := s.poisonL2.filter (fun p => !secs p) }

/-- A quarter of a frame, from its own start. -/
def quarter (m : Mem) (i : Nat) : Mem :=
  ((m.from_ (i * 0x40000)).below ((i + 1) * 0x40000)).map (fun c => (c.1 - i * 0x40000, c.2))

/-- Writing a frame through the context's translation; none when a write faults (R306). -/
def State.writeFrame (s : State) (blk f : Nat) (w : FrameWhy) : Option State :=
  let b := s.blk blk
  let m := s.frameMem b w
  let bad := fun (i : Nat) => (b.framePoison.filter (fun o => o / 0x40000 == i)).map (fun o => o % 0x40000)
  let va := (s.ctx b.ctx).frameVa f
  (List.range 4).foldl (fun (acc : Option State) i => acc.bind (fun s =>
    match s.translate b.master { w := true } (va + i * 0x40000) with
    | (.error _, _) => none
    | (.ok x, s) => some (x.keys.foldl (fun s k => s.pageFill k (quarter m i) (bad i)) s))) (some s)

/-! Reading a frame back. -/

/-- The bytes of a frame; none when a read faults or meets poison. -/
def State.readFrame (s : State) (blk f : Nat) : Option (Mem × State) :=
  let b := s.blk blk
  let va := (s.ctx b.ctx).frameVa f
  (List.range 4).foldl (fun (acc : Option (Mem × State)) i => acc.bind (fun e =>
    match e.2.translate b.master { r := true } (va + i * 0x40000) with
    | (.error _, _) => none
    | (.ok x, s) =>
      if (s.homePoison x.rkey 0x40000).isSome then none
      else some (e.1 ++ ((s.mem.from_ x.rkey).below (x.rkey + 0x40000)).map (fun c => (c.1 - x.rkey + i * 0x40000, c.2)), s)))
    (some ([], s))

def Mem.dw (m : Mem) (off : Nat) : Nat := m.num off 8
/-- Whether a run of bytes is all 0. -/
def Mem.clear (m : Mem) (lo hi : Nat) : Bool := !m.any (fun c => lo ≤ c.1 && c.1 < hi)
/-- A run of bytes moved to 0. -/
def Mem.part (m : Mem) (lo n : Nat) : Mem := ((m.from_ lo).below (lo + n)).map (fun c => (c.1 - lo, c.2))

def tsrAt (m : Mem) (off : Nat) : Tsr :=
  let d := fun i => BitVec.ofNat 64 (m.dw (off + 8 * i))
  { d0 := d 0, d1 := d 1, d2 := d 2, d3 := d 3, d4 := d 4, d5 := d 5 }

/-- Bits set in a run of bytes, rising. -/
def bitsAt (m : Mem) (off bytes : Nat) : List Nat :=
  (m.part off bytes).flatMap (fun c => (List.range 8).filterMap (fun i => if bitOf c.2.toNat i then some (c.1 * 8 + i) else none))

def nestAt (m : Mem) (off n : Nat) (old : List Level) : List Level :=
  (List.range n).map (fun i =>
    let a := m.dw (off + 16 * i)
    let c := m.dw (off + 16 * i + 8)
    let start := BitVec.ofNat 56 a
    { start, lenm1 := fld a 60 56, count := fld c 31 0, index := fld c 63 32
      buf := match old[i]? with
        | some l => if l.start = start then l.buf else []
        | none => [] })

/-- The tile operands an instruction names, as D, A, B, C (R155); channel ports included. -/
def tileOps : Instr → Option R6 × Option R6 × Option R6 × Option R6
  | .tld _ _ _ d _ | .tst _ _ _ d _ | .tstr _ _ _ d _ | .tfill _ d _ | .tiota _ d _ _ | .tstl _ _ d | .azero _ d =>
    (some d, none, none, none)
  | .tldg _ d a _ | .tstg _ d a _ | .tcopy _ d a | .ttrans _ d a | .tcvt _ d a | .tbfly _ _ _ d a | .tbcast _ _ d a | .tsend _ d a
  | .trecv _ d a | .tsqrt _ d a | .trsq _ d a | .trcp _ d a | .texp2 _ d a | .tlog2 _ d a | .tabs _ d a | .tneg _ d a | .tnot _ d a
  | .tclz _ d a | .tctz _ d a | .tpopc _ d a | .tscan _ _ _ d a | .targmx _ _ d a => (some d, some a, none, none)
  | .tldl _ _ a | .tchkf _ _ a | .tany _ _ a | .tall _ _ a => (none, some a, none, none)
  | .tcmpr _ d a b | .texpd _ d a b | .tadd _ d a b | .tsub _ d a b | .tmul _ d a b | .tdiv _ d a b | .tmin _ d a b | .tmax _ d a b
  | .tscale _ d a b | .tcmp _ _ d a b | .tand _ d a b | .tor _ d a b | .txor _ d a b | .tshl _ d a b | .tshr _ d a b | .tsra _ d a b
  | .mmav _ d a b | .ttopk _ d a b => (some d, some a, some b, none)
  | .mma f d a b => (some d, some a, some b, some (if f = .w32 then d else f.mods.c))
  | .tfma f d a b | .tclamp f d a b | .tsel f d a b | .mmas f d a b | .tmap f d a b | .tmapr f d a b =>
    (some d, some a, some b, some f.mods.c)
  | .tred _ _ _ d a b => (if b = 0 then some d else none, some a, none, none)
  | .tcred _ d _ _ | .tcbc _ d _ _ | .tcag _ d _ _ => (some d, none, none, none)
  | _ => (none, none, none, none)

/-- The mask tile of an instruction (R81). -/
def maskOp (i : Instr) : Option R6 :=
  match instrInfo i with
  | some x => if x.form.mods.pmode = 2 then some x.form.mods.psel else none
  | none => none

/-- A progress record read back (R309). What the record does not hold comes from the record the block left (log 7). -/
def recordAt (m : Mem) (i : Nat) (mode : Nat) (old : Option Flight) : Option Flight :=
  let off := 0x2000 + 512 * i
  let d := fun n => m.dw (off + 8 * n)
  let pc := BitVec.ofNat 56 (d 0)
  match decodeWords (BitVec.ofNat 32 (d 2)) (BitVec.ofNat 32 (d 2 / 2 ^ 32)) (BitVec.ofNat 32 (d 3)) with
  | .error _ => none
  | .ok ins =>
    let (_, oa, ob, oc) := tileOps ins
    let n := fld (d 4) 9 0
    let op := fun (r : Option R6) (j : Nat) => r.map (fun r => (⟨r.toNat, tsrAt m (off + 0x40 + 48 * j), n / 4 ^ j % 4⟩ : Opnd))
    let p := d 1
    let base : Flight := match old with
      | some f => if f.pc = pc && f.instr = ins && f.chain.length = fld (d 3) 39 32 then f else { id := 0, pc, instr := ins, rm := mode }
      | none => { id := 0, pc, instr := ins, rm := mode }
    let tail := (base.chain.getLast?.map (fun e => e.1)).getD ins -- a chain's destination and mask are its last member's (R184)
    let dop := op (tileOps tail).1 0
    let src := match dop with
      | some o => (o.inst + o.tsr.depth - 1) % o.tsr.depth
      | none => 0
    some { base with
      sc := [BitVec.ofNat 64 (d 5), BitVec.ofNat 64 (d 6), BitVec.ofNat 64 (d 7)]
      d := dop, a := op oa 1, b := op ob 2, c := op oc 3, m := op (maskOp tail) 4, src
      idx := { step := fld p 31 24, plane := fld p 20 16, row := fld p 15 8, col := fld p 7 0 }
      fm := if bitOf (d 4) 16 then some (bitsAt m 0x3000 0x2000) else none
      fin := false, units := 0, lane := none }

/-- Reserved bits of a record that are not 0, or a column in IDX that is no multiple of 16 (R45, R309). -/
def recordBad (m : Mem) (i : Nat) : Bool :=
  let off := 0x2000 + 512 * i
  let d := fun n => m.dw (off + 8 * n)
  if !bitOf (d 0) 63 then false
  else fld (d 0) 62 56 != 0 || fld (d 1) 62 62 != 0 || fld (d 1) 55 32 != 0 || fld (d 1) 23 21 != 0 || fld (d 1) 3 0 != 0 || !bitOf (d 1) 63
    || fld (d 3) 63 40 != 0 || 8 < fld (d 3) 39 32 || fld (d 4) 63 17 != 0 || fld (d 4) 15 10 != 0
    || !m.clear (off + 0x130 + 4 * fld (d 3) 39 32) (off + 512)
    || (0 < i && bitOf (d 4) 16)

/-- A channel port's record has rename depth 1 (R32): the low bit of DEPTHM1 when it has not. -/
def portDepth (n : Nat) (t : Tsr) : Option Nat := if 56 ≤ n && t.depth != 1 then some 60 else none

/-- Whether a frame breaks a constraint of R32, R34, R42, R45 or R47, or holds a reserved field that is not 0 (R306; log 76). -/
def State.frameBad (s : State) (b : Block) (m : Mem) : Bool :=
  let d := m.dw
  let sr := fun n => d (0x40 + 8 * n)
  let lim := s.limits b
  let nAct := fld (d 0xD0) 2 0
  let nInt := fld (d 0xD0) 6 4
  let level := fun off => fld (d off) 63 61 != 0
  fld (d 0) 39 32 != 0 || fld (d 8) 63 38 != 0 || fld (d 0x10) 63 36 != 0 || fld (d 0x18) 63 56 != 0 || fld (d 0x28) 63 50 != 0
    || !m.clear 0x30 0x40 || !m.clear 0xE0 0x100 || !m.clear 0x300 0x1000 || !m.clear 0x1E00 0x2000 || !m.clear 0x7000 0x10000
    || !m.clear 0xE0000 0x100000
    || fld (sr 0) 63 16 != 0 || fld (sr 0) 3 0 != 0 || fld (sr 1) 63 13 != 0 || fld (sr 1) 7 2 != 0 || fld (sr 2) 63 5 != 0
    || fld (sr 3) 63 1 != 0 || fld (sr 4) 62 22 != 0 || fld (sr 5) 63 16 != 0 || 128 < fld (sr 5) 7 0 || fld (sr 5) 7 0 % 16 != 0
    || fld (sr 6) 62 62 != 0 || fld (sr 6) 3 0 != 0 || fld (sr 6) 55 32 != 0 || fld (sr 6) 23 21 != 0 || fld (sr 7) 62 6 != 0 || fld (sr 8) 63 32 != 0
    || fld (sr 9) 63 56 != 0 || fld (sr 10) 62 6 != 0 || fld (sr 11) 62 32 != 0 || fld (sr 11) 23 21 != 0
    || fld (sr 12) 61 56 != 0 || fld (sr 13) 61 12 != 0 || fld (sr 13) 7 7 != 0
    || fld (sr 14) 31 0 = 0 || 1000000 < fld (sr 14) 31 0 || fld (sr 15) 31 2 != 0
    || fld (d 0xC8) 63 8 != 0 || fld (d 0xD0) 63 7 != 0 || fld (d 0xD0) 3 3 != 0 || 6 < nAct || 6 < nInt
    || fld (d 0xD8) 62 32 != 0
    || m.any (fun c => 0x10000 ≤ c.1 && c.1 < 0x20000 && (12 < c.1 % 16 || (c.1 % 16 == 12 && 16 ≤ c.2.toNat)))
    || (List.range 6).any (fun i => level (0x1D00 + 16 * i) || level (0x1D80 + 16 * i))
    || !m.clear (0x1D00 + 16 * nAct) 0x1D80 || !m.clear (0x1D80 + 16 * nInt) 0x1E00
    || (List.range 64).any (fun n =>
        let t := tsrAt m (0x1000 + 48 * n)
        fld t.d1.toNat 33 0 != 0 || fld t.d4.toNat 56 56 != 0 || fld t.d4.toNat 37 4 != 0 || fld t.d4.toNat 1 0 != 0
          || (t.v && ((t.fault lim).isSome || (portDepth n t).isSome || t.depth ≤ t.inst)))
    || (List.range 16).any (fun n =>
        let q0 := d (0x1C00 + 16 * n)
        let q1 := d (0x1C00 + 16 * n + 8)
        let q : Qcw := ⟨BitVec.ofNat 64 q0, BitVec.ofNat 64 q1⟩
        fld q0 62 43 != 0 || fld q0 39 36 != 0 || fld q0 23 20 != 0 || fld q1 63 40 != 0
          || (qcwFault n q.d0 b.hdr.shared (tsrAt m (0x1000 + 48 * (48 + n))).tileBytes).isSome
          || (q.v && (q.depth < q.count || q.depth ≤ q.head || q.depth ≤ q.tail)))
    || (List.range 8).any (fun i => recordBad m i)

/-- A block with the state a frame holds (R307 to R310). -/
def frameBlock (b : Block) (m : Mem) : Option Block :=
  let d := m.dw
  let sr := fun n => BitVec.ofNat 64 (d (0x40 + 8 * n))
  let recs := (List.range 8).filterMap (fun i => if bitOf (d (0x2000 + 512 * i)) 63 then some i else none)
  let cleat := fun (f : Flight) => if bitOf (d 0xD8) 63 then f.verd.map (fun c => { c with
      placed := false, thr := fld (d 0xD8) 31 0
      els := (List.range c.els.length).map (fun i =>
        let lo := d (0x10000 + 16 * i)
        let hi := d (0x10000 + 16 * i + 8)
        ⟨sx 96 (lo + fld hi 31 0 * 2 ^ 64), fld hi 34 32, bitOf hi 35⟩) }) else none
  let flights := recs.map (fun i => (recordAt m i (fld (d 0x48) 1 0) (b.recs[i]?)).map (fun f => { f with verd := cleat f }))
  if flights.any (fun f => f.isNone) then none
  else some { b with
    pc := BitVec.ofNat 56 (d 0x18)
    s := Vector.ofFn (fun i => if i.val < b.hdr.sregs then BitVec.ofNat 64 (d (0x100 + 8 * i.val)) else 0)
    k := BitVec.ofNat 8 (d 0xC8)
    tsr := Vector.ofFn (fun i => { tsrAt m (0x1000 + 48 * i.val) with strip := (b.tsrOf i.val).strip })
    qcw := Vector.ofFn (fun i => ⟨BitVec.ofNat 64 (d (0x1C00 + 16 * i.val)), BitVec.ofNat 64 (d (0x1C00 + 16 * i.val + 8))⟩)
    mode := sr 1, fflags := sr 2, nfin := sr 3, bflag := sr 4, mgrant := sr 5, fmask := sr 7, tcause := sr 8, tpc := sr 9
    ttile := sr 10, telem := sr 11, taddr := sr 12, tport := sr 13, thr := sr 16
    eptPeriod := fld (d 0xB0) 31 0
    eptNs := fld (d 0xB0) 63 32 * 1000 + b.eptNs % 1000
    intrap := bitOf (d 0x40) 5
    resumed := true
    detWait := false
    nest := nestAt m 0x1D00 (fld (d 0xD0) 2 0) b.nest
    inest := nestAt m 0x1D80 (fld (d 0xD0) 6 4) b.inest
    shared := m.part 0x20000 b.hdr.shared
    acc := m.part 0x80000 b.hdr.acc
    lane := (m.part 0xC0000 0x20000).filter (fun c => c.1 % 1024 < b.hdr.lane)
    tags := bitsAt m 0x5000 0x2000
    poisonSh := [], poisonAcc := [], poisonLane := []
    rows := fld (d 0x68) 7 0
    recs := flights.filterMap (fun f => f) }

end Sys2Proof.Machine
end

