-- ==== Sys2Proof/Machine/Complete.lean ====
section
/-! DEFINITION. A tile instruction's progress: the index moving past a committed unit, its completion, channel ports and samples included, and
the records a stop leaves (01 R22, R31, R32, R39, R40; 05 R177; 10 R302; 13 R372). -/

namespace Sys2Proof.Machine

/-- The last member of a chain, whose destination and mask are the chain's (R184); of any other instruction, itself. -/
def Flight.last (f : Flight) : Instr := (f.chain.getLast?.map (fun e => e.1)).getD f.instr

/-- A channel port (R31). -/
def isChan (n : Nat) : Bool := 56 ≤ n

/-- Instructions that only read D. -/
def readsD : Instr → Bool
  | .tst _ _ _ _ _ | .tstr _ _ _ _ _ | .tstg _ _ _ _ => true
  | _ => false

/-- Instructions whose B names a second destination. -/
def writesB : Instr → Bool
  | .tcmpr _ _ _ _ | .ttopk _ _ _ _ => true
  | _ => false

/-- The receive buffer a write to a channel port fills: the peer and its queue (R31). -/
def State.chanTo (s : State) (b : Block) (n : Nat) : Option (Nat × Nat) :=
  (s.peer b (n % 4)).map (fun e => (e.1, 8 + s.cgpos b + (if 60 ≤ n then 4 else 0)))

/-- The channel ports a flight reads, each once, as queues; those it writes, with what they carry. -/
def Flight.portsIn (f : Flight) : List Nat :=
  (([f.a, f.c] ++ (if writesB f.instr then [] else [f.b]) ++ (if readsD f.instr then [f.d] else [])).filterMap (fun o =>
    o.bind (fun o => if isChan o.name then some (o.name - 48) else none))).eraseDups
def Flight.portsOut (f : Flight) : List Opnd :=
  (((if readsD f.instr then [] else [f.d]) ++ (if writesB f.instr then [f.b] else [])).filterMap (fun o => o.filter (fun o => isChan o.name))).eraseDups

/-- Dropping the head of the shapes a channel holds; adding one at its tail. -/
def Block.popShape (b : Block) (q : Nat) : Block := { b with shapes := Tab.put b.shapes q (((Tab.get b.shapes q).getD []).drop 1) }
def Block.pushShape (b : Block) (q : Nat) (t : Tsr) : Block :=
  { b with shapes := Tab.put b.shapes q ((Tab.get b.shapes q).getD [] ++ [(t.rows, t.cols, t.etype)]) }

/-- The shape of the tile that an instruction has put into a channel port: TCMPR sets its columns at completion (R185). -/
def Block.shapeAt (b : Block) (f : Flight) (o : Opnd) : Tsr :=
  match f.instr with
  | .tcmpr _ _ _ _ => b.tsrOf o.name
  | _ => o.tsr

/-- Cycles in a clock time, each of the clock then in force (R378). -/
def cyclesOf (t : Nat) : Nat := t / 1000

/-- The SAMPLE record of a completed instruction (R372). The cycles it waited for memory ports and on a chain are free (log 70). -/
def State.sampleRecord (s : State) (blk : Nat) (f : Flight) : State :=
  let b := s.blk blk
  let cap := fun (n w : Nat) => min (2 ^ w - 1) n
  let first := (f.groups.map (fun e => e.2.1)).foldl min (s.clock - f.issued)
  let (w, s) := s.pick (2 ^ 256)
  let unit1 := (List.range 8).map (fun g =>
    let e := (Tab.get f.groups g).getD (0, 0)
    if e.2 = 0 then 0 else w / 2 ^ (32 * g) % 2 ^ 32 * 2 ^ 32 + cap (cyclesOf e.1) 16 * 2 ^ 16 + cap e.2 16)
  s.blkRecord b 0x06 2 ([f.pc.toNat, f.strip.toNat, f.tile * 2 ^ 40 + f.grant * 2 ^ 32 + f.ordinal,
    cap f.elems 32 * 2 ^ 32 + cap (cyclesOf (s.clock - f.issued)) 32, cap (cyclesOf first) 16] ++ unit1)

/-- The completion of a flight (R31, R40, R177, R372): channel ports popped and pushed, the fault mask gone, the entry free once no older
instruction is in flight. -/
def State.complete (s : State) (blk : Nat) (f : Flight) : State :=
  let s := s.modBlk blk (fun b => f.portsIn.foldl (fun (b : Block) q => (b.setQcw q ((b.qcwOf q).popped 1)).popShape q) b)
  let s := f.portsOut.foldl (fun (s : State) o =>
    match s.chanTo (s.blk blk) o.name with
    | some (p, q) => s.modBlk p (fun b => (b.setQcw q ((b.qcwOf q).pushed 1)).pushShape q ((s.blk blk).shapeAt f o))
    | none => s) s
  let s := if f.fm.isSome then s.modBlk blk (fun b => { b with fmask := 0 }) else s
  let s := if f.sample then s.sampleRecord blk f else s
  s.modBlk blk (fun b =>
    let fs := b.flights.map (fun (g : Flight) =>
      if g.id = f.id then { g with fin := true, verd := none, fm := none, lane := none, unit := none } else g)
    { b with flights := fs.dropWhile (fun g => g.fin) })

/-- Counting the element groups of committed elements in the lane groups that hold them (R35, R372). -/
def Flight.count (f : Flight) (ns : Nat) (cells : List (Nat × Nat)) : Flight :=
  { f with
    elems := f.elems + cells.length
    groups := ((cells.map (fun e => (e.1, e.2 / 16))).eraseDups).foldl (fun (t : Tab (Nat × Nat)) e =>
      let x := (Tab.get t (e.2 % 8)).getD (ns, 0)
      Tab.put t (e.2 % 8) (x.1, x.2 + 1)) f.groups }

/-- After a committed unit: the timer restarts when the instruction is the oldest (R22), and the index moves or the instruction completes. -/
def State.progress (s : State) (blk : Nat) (f : Flight) (cells : List (Nat × Nat)) (next : Option Idx) : State :=
  let s := s.modBlk blk (fun b =>
    let oldest := (b.flights.find? (fun g => !g.fin)).map (fun g => g.id) == some f.id
    let b := { b with flights := b.flights.map (fun (g : Flight) => if g.id = f.id then
      { g.count (s.clock - g.issued) cells with idx := next.getD g.idx, units := g.units + 1, lane := none, unit := none } else g) }
    if oldest then b.restartEpt else b)
  match next with
  | some _ => s
  | none =>
    match (s.blk blk).flights.find? (fun g => g.id == f.id) with
    | some g => s.complete blk g
    | none => s

/-! Stopping (R39, R302). -/

/-- A flight with no unit under way. -/
def Flight.landed (f : Flight) : Flight := { f with unit := none, late := none }

/-- A unit that has sent its writes completes and commits before its instruction stops (R302). One of a scatter whose trap waits for them leaves its
fault mask, whose elements fault again at the replay. -/
def State.landUnits (s : State) (blk : Nat) : State :=
  (s.blk blk).flights.foldl (fun (s : State) f =>
    match f.unit, f.late with
    | some _, some _ => s.modBlk blk (fun b => { b with flights := b.flights.map (fun (g : Flight) => if g.id = f.id then g.landed else g) })
    | some (next, cells), none => s.progress blk f cells next
    | none, _ => s) s

/-- An instruction in flight kept as a record: lane-function work of a unit is discarded (R302). -/
def Flight.stop (f : Flight) : Flight := { f with lane := none }

/-- The progress records of a block when it stops: those held, then those of the unfinished tile instructions (R39). -/
def Block.stopRecs (b : Block) : List Flight := b.recs ++ (b.flights.filter (fun f => !f.fin)).map Flight.stop

/-- The reads that its tile instructions, or an instruction that has not issued, have asked for are dropped with them (R302). -/
def Block.dropAsks (b : Block) : List Pend := b.pend.filter (fun p => !(p.isGet && p.agent != .e))

/-- The block with its tile instructions stopped, their records kept. -/
def Block.halted (b : Block) : Block := { b with recs := b.stopRecs, flights := [], pend := b.dropAsks }

/-- A record that holds no place of a cleat (R260). -/
def Flight.unplaced (f : Flight) : Flight := { f with verd := f.verd.map (fun c => { c with placed := false }) }

/-- The time since an instruction's issue in place of its issue, or back: what a saved block's records hold (R372). -/
def Flight.turned (f : Flight) (now : Nat) : Flight := { f with issued := now - f.issued }

end Sys2Proof.Machine
end

