-- ==== Sys2Proof/Machine/Ops.lean ====
section
/-! DEFINITION. What every instruction shares: how one ends (a result, a trap, a wait, a stall), termination, taking a trap, queue ports,
reading sources and writing destinations (01 R16, R24 to R29; 03 R81, R92, R97; 04 R107, R108; 10 R298 to R303, R321, R322). -/

namespace Sys2Proof.Machine

/-- How an instruction ends without a result. The states of a trap, of a wait and of a hold are what stays (a filled translation,
TOUCH, what a held instruction awaits); a stall leaves everything as it was and the instruction issues again. -/
inductive Stop where
  | trap (t : TrapInfo) (s : State)
  | wait (w : WaitOn) (s : State)
  | hold (s : State)
  | stall

/-- The effect of an instruction, or how it stops. -/
abbrev Ctl (α : Type) := Except Stop α

def trapC {α : Type} (s : State) (cause : Nat) (detail : Nat := 0) (taddr : Dword := 0) (tport : Dword := 0) : Ctl α :=
  .error (.trap { cause, detail, taddr, tport } s)
def stallC {α : Type} : Ctl α := .error .stall
/-- A check: the trap ILLEGAL with a DETAIL when it fails (R400). -/
def needC (s : State) (ok : Bool) (detail : Nat) : Ctl Unit := if ok then .ok () else trapC s cILLEGAL detail

/-! Termination (R322). -/

/-- A block removed without a drain. -/
def Block.removed (b : Block) : Block :=
  { b with st := .retired, flights := [], recs := [], pend := [], cmds := [], marks := [], fqs := [], cleatWait := none, bbx := [], trapP := none
           dueTrap := none, arrived := none, rows := 0, frame := none, stopReq := none, stopped := false, detWait := false, dem := 0 }

/-- The frame a removed block holds is free again (R306). -/
def State.dropFrame (s : State) (b : Block) : State :=
  match b.frame with
  | some f => s.modCtx b.ctx (fun x => { x with frames := delNum x.frames f })
  | none => s

/-- Removing every block of a launch (R322); a save of one is over. -/
def State.removeBlocks (s : State) (l : Nat) : State :=
  (s.ofLaunch l).foldl (fun (s : State) e =>
    ({ s with saves := s.saves.filter (fun x => x.2 != e.1) } : State).dropFrame e.2 |>.setBlk e.1 e.2.removed) s

/-- Whether a launch owns a zone (R349, R350). -/
def Zone.ownedBy (z : Zone) (x : Launch) : Bool :=
  z.ownv && z.ownctx == x.ctx && z.ownq == x.queue && z.ownidx == x.lidx % 2 ^ 16

/-- A launch's claims give up their monitors (R266, R294). -/
def State.freeClaims (s : State) (l : Nat) : State :=
  let x := s.lch l
  ({ s with ssms := s.ssms.filter (fun m => !x.ssms.contains m) } : State).modLch l (fun x => { x with ssms := [] })

/-- Dropping what a launch holds: claims and their monitors, reserved places, a reserved cluster, deferred operations, its zones; the zones of
a replay's members are the replay's own, and last until it completes (R281, R350). The records
in reserved places of a deterministic launch that is terminated are dropped and counted nowhere, of which R153 says nothing (log 95). -/
def State.dropLaunch (s : State) (l : Nat) : State :=
  let x := s.lch l
  let s : State := { s.freeClaims l with
    deferred := s.deferred.filter (fun d => d.launch != l)
    zones := s.zones.map (fun z => if x.member.isNone && z.ownedBy x then { z with ownv := false } else z) }
  s.modLch l (fun x => { x with resv := [], cluster := none, sent := [], snap := [], snapBad := [] })

/-- The world a core's WCORE bit names. -/
def State.wcoreBit (s : State) (core : Nat) : Bool := bitOf ((s.wcore[core / 64]?).getD 0).toNat (core % 64)

/-- A core's WCORE bit takes effect when the core holds no block (R385). -/
def State.settleCore (s : State) (core : Nat) : State :=
  if (s.onCore core).isEmpty then { s with secure := setNum s.secure core (s.wcoreBit core) } else s

/-- Ending a launch with its blocks removed: no completion word, no counter flush (R285, R322, R325). -/
def State.endLaunch (s : State) (l : Nat) : State :=
  let cores := (s.ofLaunch l).map (fun e => e.2.core)
  cores.foldl State.settleCore
    (((s.removeBlocks l).dropLaunch l).modLch l (fun x => { x with st := .completed, terminated := true, made := x.total }))

/-- Signalling an MSI-X vector (R380). -/
def State.signal (s : State) (v : Nat) : State := { s with msix := s.msix ++ [v] }

/-- CTXTERM's first terminated block since V was cleared (R306, R380). -/
def State.setTerm (s : State) (ctx frame cause reason queue : Nat) : State :=
  if bitOf (s.ctx ctx).term.toNat 63 then s
  else (s.modCtx ctx (fun x => { x with
      term := BitVec.ofNat 64 (2 ^ 63 + frame * 2 ^ 32 + cause * 2 ^ 16 + reason * 2 ^ 8 + queue) })).signal 3

/-- Halting a launch queue (R279, R322). -/
def State.haltQueue (s : State) (ctx q err : Nat) : State :=
  s.modQueue ctx q (fun x => { x with halt := true, err := BitVec.ofNat 8 err })

/-- Terminating a block, and its launch with it (R322); tell says whether its trace session closes with a TRUNC of reason 2 (R376). -/
def State.terminateAs (s : State) (tell : Bool) (blk reason cause : Nat) : State :=
  let s := s.landUnits blk
  let b := s.blk blk
  let x := s.lch b.launch
  let s := s.setBlk blk { b.halted with recs := b.stopRecs.take 8 }
  let wrote := (s.ctx b.ctx).freeFrame.bind (fun f => (s.writeFrame blk f ⟨cause, reason, 2⟩).map (fun s => (f, s)))
  let (frame, s) := match wrote with
    | some (f, s) => (f, s.modCtx b.ctx (fun c => { c with frames := addNum c.frames f }))
    | none => (0xFFFF, s)
  let s := if tell then (s.sessionOf x).foldl (fun s n => s.trunc n 2) s else s
  let s := s.endLaunch b.launch
  let s := s.setTerm b.ctx frame cause reason x.queue
  s.haltQueue b.ctx x.queue 0x10

/-- Terminating a block outside a context reset. -/
def State.terminate (s : State) (blk reason cause : Nat) : State := s.terminateAs true blk reason cause

/-! Taking a trap (R301). -/

/-- A block frozen by a WORLD trap: secure firmware is told of its core, slot and %taddr (R321). -/
def State.freeze (s : State) (blk : Nat) (t : TrapInfo) : State :=
  let s := s.landUnits blk
  let b := s.blk blk
  let s := s.setBlk blk { b.halted with
    st := .frozen, trapP := none
    tcause := BitVec.ofNat 64 (t.detail * 2 ^ 16 + t.cause), taddr := t.taddr, telem := t.telem }
  { s with mgmt := { s.mgmt with notices := s.mgmt.notices ++ [(b.core, b.slot, t.taddr.toNat)] } }

/-- The state of a block as its handler starts: the trap registers written, the nest moved away, records kept. -/
def Block.entered (b : Block) (t : TrapInfo) (handler : VAddr) : Block :=
  { b.halted with
    st := .ready, trapP := none, exitIssued := false, detWait := false, cleatWait := none
    defWait := none, walkWait := none, arrived := none
    tcause := BitVec.ofNat 64 (t.detail * 2 ^ 16 + t.cause)
    tpc := BitVec.ofNat 64 (t.pc.getD b.pc).toNat
    ttile := t.ttile, telem := t.telem, taddr := t.taddr, tport := t.tport, fmask := t.fmask
    intrap := true, inest := b.nest, nest := [], pc := handler }

/-- Taking a trap, with the block's pc at the address %tpc is to hold unless the trap names another: the handler is entered; a nested trap
or a kernel without a handler terminates the block; WORLD freezes it (R301, R303, R321). -/
def State.takeTrap (s : State) (blk : Nat) (t : TrapInfo) : State :=
  let s := s.landUnits blk
  let b := s.blk blk
  if t.cause = cWORLD then s.freeze blk t
  else if b.intrap then s.terminate blk 2 t.cause
  else match b.hdr.handler with
    | none => s.terminate blk 1 t.cause
    | some h =>
      let b := b.entered t h
      (s.setBlk blk b).blkRecord b 0x05 1 [b.tcause.toNat, b.tpc.toNat, b.pixReg.toNat]

/-- A trap that waits for its entry, unless an older instruction's already does (R300). -/
def Block.raise (b : Block) (t : TrapInfo) : Block :=
  match b.trapP with
  | some o => if o.age ≤ t.age then b else { b with trapP := some t }
  | none => { b with trapP := some t }

/-- A block that begins to wait (R16). -/
def State.startWait (s : State) (blk : Nat) (w : WaitOn) : State :=
  s.modBlk blk (fun b => { b with st := .waiting w, detWait := w == .det })

/-! Running a control-lane instruction. -/

/-- The address after an instruction. -/
def State.nextPc (s : State) (f : Form) : VAddr := s.me.pc + BitVec.ofNat 56 f.bytes
/-- Moving past an instruction. -/
def State.advance (s : State) (f : Form) : State := s.modMe (fun b => { b with pc := b.pc + BitVec.ofNat 56 f.bytes })

/-- What a result does: the state it gives, a trap taken, a wait begun, or nothing yet, of which the core is told (R291). -/
def State.finish (s : State) (m : Ctl State) : State :=
  match m with
  | .ok s' => s'
  | .error (.trap t s') => s'.takeTrap s.cur t
  | .error (.wait w s') => s'.startWait s.cur w
  | .error (.hold s') => { s' with blocked := some true }
  | .error .stall => { s with blocked := some false }

/-- The condition register an in-flight tile instruction will write (R198). -/
def condDest : Instr → Option R6
  | .tchkf _ d _ | .tany _ d _ | .tall _ d _ => some d
  | _ => none

/-- The scalar register an in-flight tile instruction will write (R194, R200). -/
def scalarDest : Instr → Option R6
  | .tred _ _ _ _ _ b => if b = 0 then none else some b
  | .matt _ d _ | .mattW _ d _ => some d
  | _ => none

/-- Whether a condition register's value is still owed (R24). -/
def Block.busyK (b : Block) (n : Nat) : Bool :=
  n != 0 && b.flights.any (fun f => !f.fin && (condDest f.instr).map BitVec.toNat == some n)

/-- Whether a scalar register's value is still owed (R24). -/
def Block.busy (b : Block) (r : R6) : Bool :=
  r != 0 && (b.pend.any (fun p => p.dest == some r) || b.flights.any (fun f => !f.fin && scalarDest f.instr == some r))

/-- Predication (R81): PMODE 01 lets the instruction take effect only when k[PSEL] XOR PNEG is 1. -/
def State.run (s : State) (f : Form) (m : Ctl State) : State :=
  let x := f.mods
  if x.pmode = 1 then
    if s.me.busyK x.psel.toNat then s.finish stallC
    else if (s.me.cond x.psel.toNat) != x.pneg then s.finish m else s.advance f
  else s.finish m

/-- An instruction that continues at the next one. -/
def State.ctl (s : State) (f : Form) (m : Ctl State) : State := s.run f (m.map (fun s => s.advance f))

/-- A trap of a tile instruction at issue: its entry waits until every older tile instruction has completed (R301). -/
def State.raiseLate (s : State) (blk : Nat) (t : TrapInfo) : State :=
  if (s.blk blk).flights.all (fun f => f.fin) then s.takeTrap blk t
  else
    let (n, s) := s.fresh
    s.modBlk blk (fun b => { b with trapP := some { t with age := n } })

/-- An issue whose trap is a tile instruction's. -/
def lateTrap (blk : Nat) (m : Ctl State) : Ctl State :=
  match m with
  | .error (.trap t s) => .ok (s.raiseLate blk t)
  | m => m

/-- A tile instruction that continues at the next instruction. -/
def State.tctl (s : State) (f : Form) (m : Ctl State) : State := s.run f (lateTrap s.cur (m.map (fun s => s.advance f)))

/-! Queue ports (R26 to R29). -/

def queueOf (r : R6) : Nat := r.toNat - 48
/-- The bit of the header's roles field that covers a queue (R358). -/
def roleOf (q : Nat) : Nat := if q < 6 then q / 2 else q - 3

/-- A port that may be used: its queue control word valid and its engine among the kernel's roles (R28). -/
def portOk (s : State) (q : Nat) : Ctl Unit :=
  if (s.me.qcwOf q).v && bitOf s.me.hdr.roles (roleOf q) then .ok () else trapC s cQPORT 0 0 (tportQueue q)

/-- Reading a scalar source (R26, R27). A pop port gives its head; the pop itself is popSrcs. -/
def useReg (s : State) (r : R6) : Ctl Dword :=
  if isPort r then do
    portOk s (queueOf r)
    let q := s.me.qcwOf (queueOf r)
    if popPort r then
      if q.count = 0 then .error (.wait (.port (queueOf r)) s) else pure (s.me.queueDword (queueOf r) 0)
    else if s.me.busy r then stallC
    else pure (BitVec.ofNat 64 q.free)
  else if s.me.busy r then stallC
  else .ok (s.me.reg r)

/-- The pops of an instruction's sources, which take effect when it completes (R107). -/
def popSrcs (s : State) (rs : List R6) : State :=
  rs.foldl (fun s r => if popPort r then s.modMe (fun b => b.setQcw (queueOf r) ((b.qcwOf (queueOf r)).popped 1)) else s) s

/-! Engine commands as they are pushed (R92 to R97, R251). -/

/-- The engine of a command queue, and back. -/
def engOf (q : Nat) : Nat := q / 2

/-- Dwords of a command, from its header (R92). -/
def cmdLen (eng : Nat) (h : Nat) : Nat :=
  if eng = 0 then 3 + 2 * fld h 11 11 + 2 * (fld h 10 8 + 1)
  else if eng = 1 then 4 + 2 * fld h 11 11
  else 4 + 2 * fld h 24 24

/-- Whether CPL is set (R93, R95, R96). -/
def cmdCpl (eng : Nat) (h : Nat) : Bool := if eng = 2 then bitOf h 25 else bitOf h 12
def cmdCw (eng : Nat) (h : Nat) : Bool := if eng = 2 then bitOf h 24 else bitOf h 11
def cmdTag (eng : Nat) (h : Nat) : Nat := if eng = 2 then fld h 39 32 else fld h 31 24

/-- The lowest set bit of a mask of a dword, as an offending bit; a field that is wrong charges its low bit. -/
def strayBits (d mask : Nat) : Bool × Nat := (d &&& mask != 0, ctzBits 64 (d &&& mask))

/-- The scope of a completion word (R93). -/
def cwBad (cw : Bool) (sc : Nat) : Bool := if cw then sc < 3 || 11 < sc else sc != 0

/-- The lowest offending bit of a command's header (R92, R93, R95, R96); v says whether the completion queue is defined. An all-reduce takes and, or
and xor of floating-point elements, as bits: R223 restricts TCRED alone (log 85). -/
def headerFault (eng : Nat) (h : Nat) (v : Bool) : Option Nat :=
  if eng = 0 then
    lowest [(fld h 7 0 != 1, 0), (5 < fld h 10 8, 8), (bitOf h 12 && !v, 12), (1 < fld h 14 13, 13), (1 < fld h 16 15, 15),
      (fld h 19 17 == 7, 17), (cwBad (bitOf h 11) (fld h 23 20), 20), strayBits h (2 ^ 64 - 2 ^ 32)]
  else if eng = 1 then
    lowest [(fld h 7 0 != 2, 0), (fld h 10 9 == 3, 9), (bitOf h 12 && !v, 12), (fld h 15 13 == 7, 13),
      (cwBad (bitOf h 11) (fld h 19 16), 16), strayBits h (2 ^ 24 - 2 ^ 20), (fld h 63 32 == 0, 32)]
  else
    lowest [(fld h 7 0 != 3, 0), (fld h 9 8 == 3, 8), (if fld h 9 8 = 0 then 5 < fld h 13 10 else fld h 13 10 != 0, 10),
      (!plainType (BitVec.ofNat 6 (fld h 19 14)), 14), (fld h 23 20 < 5 || 8 < fld h 23 20, 20), (bitOf h 25 && !v, 25),
      (fld h 9 8 != 1 && fld h 31 26 != 0, 26), strayBits h (2 ^ 64 - 2 ^ 40)]

/-- An address dword of a command in a space: a global virtual address, or a shared-store offset (R93). -/
def addrMask (shared : Bool) : Nat := if shared then 2 ^ 64 - 2 ^ 20 else 2 ^ 64 - 2 ^ 56
/-- The mask of a completion word address (R93). -/
def cwMask : Nat := 2 ^ 64 - 2 ^ 56 + 7

/-- The offending bits of the dwords after a header, each as 64 × index + bit (R92, R93, R95, R96). A GTH whose IDX or DATA is no multiple of its
element is refused here, as for a reserved bit of an address (log 85). -/
def bodyFault (eng : Nat) (ds : List Nat) : Option Nat :=
  let h := ds.getD 0 0
  let at_ := fun (i mask : Nat) => let e := strayBits (ds.getD i 0) mask; (e.1, 64 * i + e.2)
  let cw := fun (i : Nat) => if cmdCw eng h then [at_ i cwMask] else []
  if eng = 0 then
    let base := 3 + 2 * fld h 11 11
    lowest ([at_ 1 (addrMask (bitOf h 13)), at_ 2 (addrMask (bitOf h 15))] ++ cw 3
      ++ (List.range (fld h 10 8 + 1)).flatMap (fun d =>
        [(fld (ds.getD (base + 2 * d) 0) 31 0 == 0, 64 * (base + 2 * d)), at_ (base + 2 * d) (2 ^ 64 - 2 ^ 32)]))
  else if eng = 1 then
    let e := fld h 15 13
    let isz := if fld h 10 9 = 1 then 8 else 4
    lowest ([at_ 1 (addrMask false), at_ 2 (addrMask true + (isz - 1)), at_ 3 (addrMask true + (2 ^ e - 1))] ++ cw 4)
  else
    lowest ([at_ 1 (addrMask true), (fld (ds.getD 2 0) 31 0 == 0, 128)] ++ cw 4)

/-- The least and greatest offset a strided walk reaches, from 0: dimensions as (count, stride). -/
def walkSpan (dims : List (Nat × Int)) : Int × Int :=
  dims.foldl (fun e d => let x := d.2 * ((d.1 - 1 : Nat) : Int); if x < 0 then (e.1 + x, e.2) else (e.1, e.2 + x)) (0, 0)

/-- The dimensions of a CPY6: count, source stride, destination stride (R93). -/
def cpyDims (ds : List Nat) : List (Nat × Int × Int) :=
  let h := ds.getD 0 0
  let base := 3 + 2 * fld h 11 11
  (List.range (fld h 10 8 + 1)).map (fun d =>
    (fld (ds.getD (base + 2 * d) 0) 31 0, sx 32 (ds.getD (base + 2 * d + 1) 0), sx 32 (fld (ds.getD (base + 2 * d + 1) 0) 63 32)))

/-- Participants of a collective command, rising (R96). -/
def maskBits (n v : Nat) : List Nat := (List.range n).filter (fun j => bitOf v j)

/-- A command's range in shared store, and whether it writes there (R251). Empty where it touches none. -/
def cmdRange (eng : Nat) (ds : List Nat) : Nat × Nat × Bool :=
  let h := ds.getD 0 0
  if eng = 0 then
    let n := 2 ^ fld h 19 17
    let side := fun (a : Nat) (dims : List (Nat × Int)) => let e := walkSpan dims; (((a : Int) + e.1).toNat, ((a : Int) + e.2).toNat + n)
    let s := if bitOf h 13 then [side (ds.getD 1 0) ((cpyDims ds).map (fun d => (d.1, d.2.1)))] else []
    let t := if bitOf h 15 then [side (ds.getD 2 0) ((cpyDims ds).map (fun d => (d.1, d.2.2)))] else []
    match s ++ t with
    | [] => (0, 0, false)
    | x :: r => ((r.foldl (fun m y => min m y.1) x.1), (r.foldl (fun m y => max m y.2) x.2), bitOf h 15)
  else if eng = 1 then
    let isz := if fld h 10 9 = 1 then 8 else 4
    let n := fld h 63 32
    let i := ds.getD 2 0
    let d := ds.getD 3 0
    (min i d, max (i + n * isz) (d + n * 2 ^ fld h 15 13), !bitOf h 8)
  else
    let n := fld (ds.getD 2 0) 31 0 * codeBytes (fld h 19 14)
    (ds.getD 1 0, ds.getD 1 0 + n, true)

/-- The dwords of a queue from the i-th on, n of them. -/
def Block.queueDwords (b : Block) (q i n : Nat) : List Nat := (List.range n).map (fun j => (b.queueDword q (i + j)).toNat)

/-- Where the last command of a queue begins that is not complete; fuel is the count. -/
def Block.openCmd (b : Block) (q : Nat) : Nat → Nat → Nat
  | 0, i => i
  | f + 1, i =>
    let n := cmdLen (engOf q) (b.queueDword q i).toNat
    if i < (b.qcwOf q).count && i + n ≤ (b.qcwOf q).count then b.openCmd q f (i + n) else i

/-- A full queue, or two unanswered queries, makes a push wait (R28, R97). -/
def Block.pushBlocked (b : Block) (q : Nat) : Bool := (b.qcwOf q).free == 0 || (q == 6 && 2 ≤ b.fqs.length)

/-- Appending a dword to a queue. -/
def Block.append (b : Block) (q : Nat) (v : Dword) : Block :=
  let c := b.qcwOf q
  (b.writeShared (c.base + c.tail * 8) (leBytes 8 v.toNat)).setQcw q (c.pushed 1)

/-- The checks of an FQ dword (R97): its own bits before the answer's place, and that before the launch's kind (log 85). -/
def fqFault (s : State) (v : Nat) : Option Nat :=
  (lowest [(fld v 7 0 != 4, 0), strayBits v 0xF00, strayBits v (2 ^ 32 - 2 ^ 28)]).orElse fun _ =>
  if s.me.hdr.shared < fld v 27 8 + 16 then some 0x0B05
  else if s.myLch.kind != 1 then some 0x0B04
  else none

/-- Whether a push of the current block may begin: the port is usable and has room (R28). -/
def pushReady (s : State) (r : R6) : Ctl Unit := do
  portOk s (queueOf r)
  if s.me.busy r then stallC
  else if s.me.pushBlocked (queueOf r) then .error (.wait (.port (queueOf r)) s)
  else pure ()

/-- Pushing a dword to a command port: the header's checks, or those of the last dword, and the mark of a complete command (R92, R251).
A refused last dword removes its whole command. -/
def pushCmd (s : State) (q : Nat) (v : Dword) : Ctl State :=
  let b := s.me
  let c := b.qcwOf q
  let i := b.openCmd q c.count 0
  let eng := engOf q
  let bad := fun (s : State) (d : Nat) => (trapC s cQPORT d 0 (tportQueue q) : Ctl State)
  if i = c.count && (headerFault eng v.toNat (b.qcwOf (q + 1)).v).isSome then
    bad s ((headerFault eng v.toNat (b.qcwOf (q + 1)).v).getD 0)
  else
    let ds := b.queueDwords q i (c.count - i) ++ [v.toNat]
    if ds.length < cmdLen eng (ds.getD 0 0) then .ok (s.setMe (b.append q v))
    else match bodyFault eng ds with
      | some d => bad (s.setMe (b.setQcw q (c.unpushed (c.count - i)))) d
      | none =>
        let (id, s) := s.fresh
        let r := cmdRange eng ds
        .ok (s.setMe { b.append q v with marks := b.marks ++ [⟨eng, id, id, r.1, r.2.1, r.2.2⟩] })

/-- Pushing a dword to a port (R27, R97). A trace marker is written at once. -/
def push (s : State) (r : R6) (v : Dword) : Ctl State :=
  let q := queueOf r
  if q = 7 then .ok ((s.modMe (fun b => let b := b.append q v; b.setQcw q ((b.qcwOf q).popped 1))).blkRecord s.me 0x07 1 [v.toNat])
  else if q = 6 then
    match fqFault s v.toNat with
    | some d => trapC s cQPORT d 0 (tportQueue q)
    | none =>
      let b := s.me.append q v
      .ok (s.setMe { b with
        fqs := b.fqs ++ [{ cval := BitVec.ofNat 32 (fld v.toNat 63 32), ans := fld v.toNat 27 8, m := b.fqN }], fqN := b.fqN + 1 })
  else pushCmd s q v

/-! Destinations. -/

/-- Whether a destination can be written: no owed value, and room in a push port. -/
def dstReady (s : State) (d : R6) : Ctl Unit :=
  if s.me.busy d then stallC else if isPort d then pushReady s d else .ok ()

/-- Writing a scalar destination (R107). -/
def putDst (s : State) (d : R6) (v : Dword) : Ctl State :=
  if isPort d then push s d v else .ok (s.modMe (fun b => b.setReg d v))

/-- Several sources, in order. -/
def useRegs (s : State) : List R6 → Ctl (List Dword)
  | [] => .ok []
  | r :: rs => do
    let v ← useReg s r
    let vs ← useRegs s rs
    pure (v :: vs)

/-- An instruction of scalar sources and one scalar destination: sources read, g evaluated, the destination written, then the flags merged and
the ports popped, none of which a trap does (R108). -/
def scalarOp (s : State) (f : Form) (srcs : List R6) (d : R6) (g : List Dword → Ctl (Dword × Nat)) : State :=
  s.ctl f (do
    let vs ← useRegs s srcs
    dstReady s d
    let (v, fl) ← g vs
    let s ← putDst s d v
    pure (popSrcs (s.modMe (fun b => b.mergeFlags fl)) srcs))

/-- One source. -/
def scalarOp1 (s : State) (f : Form) (d a : R6) (g : Dword → Dword) : State :=
  scalarOp s f [a] d (fun vs => .ok (g (vs.getD 0 0), 0))

/-- Two sources. -/
def scalarOp2 (s : State) (f : Form) (d a b : R6) (g : Dword → Dword → Dword) : State :=
  scalarOp s f [a, b] d (fun vs => .ok (g (vs.getD 0 0) (vs.getD 1 0), 0))

/-- An instruction of scalar sources and one condition register (R114, R118). -/
def condOp (s : State) (f : Form) (srcs : List R6) (d : R6) (g : List Dword → Ctl (Bool × Nat)) : State :=
  s.ctl f (do
    let vs ← useRegs s srcs
    if s.me.busyK d.toNat then stallC
    let (v, fl) ← g vs
    pure (popSrcs (s.modMe (fun b => (b.mergeFlags fl).setCond d.toNat v)) srcs))

end Sys2Proof.Machine
end

