-- ==== Sys2Proof/Machine/DetOrder.lean ====
section
/-! DEFINITION. The global image of a tile instruction, and the order that a deterministic launch's operations keep at one location (05 R170; 07
R255; 09 R295 to R297; 11 R333). -/

namespace Sys2Proof.Machine

/-! The global image (R170). -/

def rowCells (t : Tsr) (r : Nat) : List (Nat × Nat) := (List.range t.cols).map (fun c => (r, c))
def allCells (t : Tsr) : List (Nat × Nat) := (List.range t.rows).flatMap (rowCells t)

/-- Whether an element comes before another in commit order. -/
def cellLt (r c r' c' : Nat) : Bool := r < r' || (r == r' && c < c')

/-- The row pitch of the global image (R170). -/
def Flight.pitch (f : Flight) : Int := sx 64 (f.sc.getD 1 0).toNat
/-- The base of the global image. -/
def Flight.base (f : Flight) : Nat := (f.sc.getD 0 0).toNat

/-- The address of a byte of the global image: line, then offset (R170). -/
def Flight.image (f : Flight) (line off : Nat) : Nat := wrapBits 64 (f.base + f.pitch * (line : Int) + (off : Int))

/-- The parts of the global image that hold an element (R170). -/
def Flight.parts (f : Flight) (t : Tsr) (r c : Nat) : List (Nat × Nat) :=
  if t.isPlanes then
    (List.range t.planes).map (fun p => (f.image r (p * t.planeBytes + c / 8), 1))
      ++ (if t.pscale then [(f.image r (t.planes * t.planeBytes + 2 * (c / 64)), 1), (f.image r (t.planes * t.planeBytes + 2 * (c / 64) + 1), 1)]
        else [])
  else if t.layout = 1 then [(f.image c (r * t.esz), t.esz)]
  else [(f.image r (c * t.esz), t.esz)]

/-! Program order (R255). -/

/-- The place of an access's instruction in program order (R255). -/
def Block.orderOf (b : Block) (p : Pend) : Nat :=
  if p.agent = .t then ((b.flights.find? (fun f => f.id == p.seq)).map (fun f => f.order)).getD p.seq else p.seq

/-- Whether a tile instruction may still send a reduction of [k, k + n): of the elements after those it has sent. -/
def State.mayReduce (s : State) (blk : Nat) (f : Flight) (k n : Nat) : Bool :=
  let from_ := match f.unit with
    | some (next, _) => next
    | none => some f.idx
  match f.instr, from_ with
  | .tstr _ _ _ _ _, some i =>
    let t := Opnd.tsrOf f.d
    !f.fin && (allCells t).any (fun e => !cellLt e.1 e.2 i.row i.col && (f.parts t e.1 e.2).any (fun p =>
      match (s.unslotted.translate (s.blk blk).master { w := true } p.1).1 with
      | .ok x => x.rkey < k + n && k < x.rkey + p.2
      | .error _ => false))
  | _, _ => false

/-- Whether a block is still to bring an operation on [k, k + n) to its port that precedes, in program order, the access named id of the
instruction at place seq. -/
def State.owedBefore (s : State) (blk seq id k n : Nat) : Bool :=
  let b := s.blk blk
  b.pend.any (fun p => p.isRmw && p.at_ k n && (b.orderOf p < seq || (b.orderOf p == seq && p.id < id)))
    || (b.flights ++ b.recs).any (fun f => f.order < seq && s.mayReduce blk f k n)

/-- Whether an operation that precedes a deferred one of its block, in program order, is still to be deferred to its location (R255). -/
def State.earlierOwed (s : State) (d : Deferred) : Bool := s.owedBefore d.blk d.seq d.id d.pa d.w

/-- Whether a returning atomic of the present block, of a deterministic launch, on [k, k + n) must wait for an operation that precedes it: one that
its own block is still to bring to its port, or a deferred one of a lower block not yet applied (R295 to R297, R333). -/
def State.detAhead (s : State) (k n : Nat) : Bool :=
  let b := s.me
  s.detOn b && (s.owedBefore s.cur s.nextId s.nextId k n || s.deferred.any (fun d =>
    d.launch == b.launch && d.blkid < b.blkid && d.pa < k + n && k < d.pa + d.w))

end Sys2Proof.Machine
end

