-- ==== Sys2Proof/Machine/CMem.lean ====
section
/-! DEFINITION. Memory accesses of the control lane: checks, issue, and the effects of acquires and releases (04 R129 to R134, R140;
07 R239 to R246; 11 R333; 09 R296). -/

namespace Sys2Proof.Machine

/-- Whether a key is another device's memory. -/
def isFarKey (k : Nat) : Bool := devMem ≤ k && !isHostKey k

/-- Whether the control lane may issue another access: no acquire of it is still to be performed (R246), and no release store at .persist is
still to make the earlier writes durable (R258). -/
def Block.mayAccess (b : Block) : Bool :=
  !b.pend.any (fun p => p.agent == .c && !p.isShared && ((p.isAcq && p.done < 2) || (p.isRel && !p.isRmw && p.scope == 11 && p.done < 11)))

/-- Whether the instruction of an access of the control lane is still under way though it has issued, so that a trap of it stays precise (R108; log
93): its answer is not back from another device (R343), it is an atomic that an earlier release or its own holds up, its value goes into a queue
port of another die's or device's line (log 24), or its pops are still to come. -/
def Block.underWay (b : Block) (p : Pend) : Bool :=
  !p.isGet && (p.port.isSome || p.pops != [] || (p.openC && (p.keys.any isFarKey ||
    (p.isRmw && b.pend.any (fun q => q.agent == .c && q.isRel && q.pas != [] && q.id ≤ p.id)))))

/-- Whether the control lane's present instruction is still under way. -/
def Block.laneHeld (b : Block) : Bool := b.pend.any b.underWay

/-- The pops of an instruction's sources after its access has been issued: at once, or, where its instruction is still under way, when the access is
answered or executed (R107, R108; log 93). -/
def popIssued (s : State) (rs : List R6) : State :=
  match s.me.pend.getLast? with
  | some p =>
    if p.id + 1 == s.nextId && s.me.underWay p then
      s.modMe (fun b => { b with pend := b.pend.map (fun q => if q.id == p.id then { q with pops := rs.filter popPort } else q) })
    else popSrcs s rs
  | none => popSrcs s rs

/-- The keys on which a block holds deferred operations (R333). -/
def State.deferredAt (s : State) (blk k n : Nat) : Bool :=
  s.deferred.any (fun d => d.blk == blk && d.pa < k + n && k < d.pa + d.w)

/-- The alignment check of a global access, decided first (R129). -/
def alignC (s : State) (va n : Nat) : Ctl Unit :=
  if va % n = 0 then .ok () else trapC s cALIGN 0 (taddrWord 0 va)

/-- The checks of a global access of the control lane, with the translated address. -/
def accessC (s : State) (need : Need) (va n : Nat) : Ctl (Xl × State) := do
  alignC s va n
  if !s.me.mayAccess then stallC
  match s.translate s.me.master need va with
  | (.error e, s) => trapC s e.cause e.detail (taddrWord 0 va)
  | (.ok x, s) => pure (x, s)

/-- A read waits while the block's own deferred operations on the location are not applied (R333). -/
def awaitDeferred (s : State) (k n : Nat) : Ctl Unit :=
  if s.deferredAt s.cur k n then .error (.hold (s.modMe (fun b => { b with defWait := some k }))) else .ok ()

/-- Poisoned data met by a read (R131, R318). -/
def poisonC (s : State) (va : Nat) (r : Except Nat (List Byte)) : Ctl Unit :=
  match r with
  | .ok _ => .ok ()
  | .error d => trapC s cPOISON d (taddrWord 0 va)

/-- Adding a pending access of the current block. -/
def addPend (s : State) (p : Pend) : State :=
  let (id, s) := s.fresh
  s.modMe (fun b => { b with pend := b.pend ++ [{ p with id, seq := id, pc := b.pc, keys := if p.pas = [] then p.keys else p.pas }], defWait := none })

/-- Extending a loaded value (R87: SZ). -/
def loadExt (sz : BitVec 3) (v : Nat) : Dword :=
  let n := 8 * 2 ^ (sz.toNat % 4)
  if sz.toNat < 4 then BitVec.ofInt 64 (sx n v) else BitVec.ofNat 64 (v % 2 ^ n)

/-- A scalar load (R129, R130): it is performed by ACCESS_PERFORMED, which writes the destination. One that an L1 copy answers while its home is
poisoned takes its value at once, since it could not be refused precisely later (R108, R318; log 93). -/
def loadC (s : State) (d : R6) (va : Nat) (sz : BitVec 3) (m : Mods) : Ctl State := do
  let n := 2 ^ (sz.toNat % 4)
  let (x, s) ← accessC s { r := true } va n
  awaitDeferred s x.rkey n
  let r := (s.gRead s.me.core m.scope.toNat x.c false x.rkey n).1
  poisonC s va r
  let got := if (s.homePoison x.rkey n).isNone then none else r.toOption.map (s.me.own .c s.nextId x.rkey)
  pure (addPend (s.watch s.cur va n false)
    { id := 0, agent := .c, kind := .rd sz d, addr := va, keys := [x.rkey], pas := if got.isSome then [] else [x.rkey], cacheable := x.c, got
      ord := m.ord.toNat, scope := m.scope.toNat })

/-- A scalar store (R129, R130). -/
def storeC (s : State) (va n v : Nat) (m : Mods) : Ctl State := do
  let (x, s) ← accessC s { w := true } va n
  pure (addPend (s.watch s.cur va n true)
    { id := 0, agent := .c, kind := .wr (leBytes n v), addr := va, pas := x.keys, cacheable := x.c, ord := m.ord.toNat, scope := m.scope.toNat })

/-- The checks of a shared-store access (R131), which waits as every access does for an acquire before it (R246). -/
def sharedC (s : State) (off n : Nat) : Ctl Unit := do
  if off % n != 0 then trapC s cALIGN 0 (taddrWord 1 off)
  if s.me.hdr.shared < off + n then trapC s cPROTECT 7 (taddrWord 1 off)
  if !s.me.mayAccess then stallC

/-- A load from the shared store, which sees the control lane's own stores (R131). -/
def loadSharedC (s : State) (off : Nat) (sz : BitVec 3) : Ctl Dword := do
  let n := 2 ^ (sz.toNat % 4)
  sharedC s off n
  if badWords s.me.poisonSh off n then trapC s cPOISON 4 (taddrWord 1 off)
  pure (loadExt sz (ofLe (s.me.sharedC off n)))

/-- A store to the shared store. -/
def storeSharedC (s : State) (off n v : Nat) : Ctl State := do
  sharedC s off n
  pure (addPend s { id := 0, agent := .c, kind := .shc (leBytes n v), addr := off })

/-- Whether a block has an atomic or a reduction that has not reached its port. -/
def Block.owesRmw (b : Block) : Bool := b.pend.any (fun p => p.isRmw && p.pas != [])

/-- Whether every block of the launch with a lower index has arrived at the barrier that closes the epoch, or exited with its atomics at
their ports (R296, R333). -/
def State.lowerDone (s : State) (b : Block) : Bool :=
  b.blkid ≤ (s.lch b.launch).made &&
    (s.ofLaunch b.launch).all (fun e => b.blkid ≤ e.2.blkid || (e.2.st == .retired && !e.2.owesRmw) ||
      (match e.2.arrived with
        | some a => 6 ≤ a.sc.toNat
        | none => false))

/-- The deterministic hold of a returning atomic or a LAUNCH (R134, R296, R153). -/
def detHold (s : State) : Ctl Unit :=
  if s.detOn s.me && !s.lowerDone s.me then .error (.wait .det s) else .ok ()

/-- The ordering and scope of an atomic: a 32-bit form is relaxed at .dev (R134). -/
def atomicMods (f : Form) : Nat × Nat :=
  match f with
  | .w32 => (0, 7)
  | _ => (f.mods.ord.toNat, f.mods.scope.toNat)

/-- The checks of an atomic of the control lane (R132 to R134), in order; ret that it returns the old value: a deterministic launch's then waits for
every operation on its location that precedes it (R295 to R297). -/
def atomicChk (s : State) (n va : Nat) (ret : Bool) : Ctl (Xl × State) := do
  let (t, s) ← accessC s { r := true, w := true, atomic := true } va n
  if t.sa && isHostKey t.rkey && s.refuses.contains ((t.rkey - hostBase) / 2 ^ 18) then trapC s cPROTECT 6 (taddrWord 0 va)
  if ret then awaitDeferred s t.rkey n
  poisonC s va (match s.homePoison t.rkey n with
    | some e => .error e
    | none => .ok [])
  if ret then
    detHold s
    if s.detAhead t.rkey n then stallC
  pure (t, (s.watch s.cur va n false).watch s.cur va n true)

/-- An atomic of the control lane (R132, R133), performed by ACCESS_PERFORMED: w says 32 bits. -/
def atomicC (s : State) (f : Form) (op : RmwOp) (w : Bool) (d : R6) (va : Nat) (x y : Dword) (ret : Bool) : Ctl State := do
  let n := if w then 4 else 8
  let (t, s) ← atomicChk s n va ret
  let (ord, sc) := atomicMods f
  pure (addPend s { id := 0, agent := .c, kind := .rmw op n x y d ret, addr := va, pas := t.keys, cacheable := t.c, ord, scope := sc })

/-- The address of an M-format operand (R87): the register plus the scaled immediate, or plus the literal. -/
def addrM (f : Form) (base : Dword) (imm : BitVec 9) (n : Nat) : Nat :=
  match f with
  | .w96 _ l => (base + l.signExtend 64).toNat
  | _ => (base + imm.signExtend 64 * BitVec.ofNat 64 n).toNat

end Sys2Proof.Machine
end

