-- ==== Sys2Proof/Machine/Flags.lean ====
section
/-! DEFINITION. Floating-point flags and their traps (02 R57, R58): the flag that a DETAIL names, and the trap of a control-lane
instruction. A tile instruction's flags are decided with its unit (TileOps). -/

namespace Sys2Proof.Machine

/-- The flag DETAIL names among the enabled flags raised: the first of NV, DZ, OF, UF, NX, that is the highest bit (R58). -/
def firstFlag (ten fl : Nat) : Option Nat :=
  let x := ten &&& fl
  if bitOf x 4 then some 4 else if bitOf x 3 then some 3 else if bitOf x 2 then some 2 else if bitOf x 1 then some 1
  else if bitOf x 0 then some 0 else none

/-- The flags of a control-lane instruction (R58): the trap when an enabled one is raised; else they go on to be merged. -/
def flagsC (s : State) (fl : Nat) : Ctl Unit :=
  match firstFlag s.me.ten fl with
  | some d => trapC s cFP d
  | none => .ok ()

end Sys2Proof.Machine
end

