-- ==== Sys2Proof/Machine/Operands.lean ====
section
/-! DEFINITION. Operand forms: the rounding mode, immediates and literals, floating-point scalars, and the addresses of the TM format
(02 R56; 03 R78, R82, R83, R87; 04 R112, R117; 05 R156, R170). -/

namespace Sys2Proof.Machine

/-- mode() as its two-bit code: the override of the 64-bit form, else %mode.RM (R56). -/
def modeCode (b : Block) (f : Form) : Nat :=
  let r := f.mods.rnd.toNat
  if 4 ≤ r then r % 4 else b.mode.toNat % 4

/-- mode(). -/
def modeOf (b : Block) (f : Form) : RMode := RMode.ofCode (modeCode b f)

/-- An RI operand: the sign-extended 12-bit immediate, or the sign-extended literal of the 96-bit form (R82, R112). -/
def immRI (f : Form) (imm : BitVec 12) : Dword :=
  match f with
  | .w96 _ l => l.signExtend 64
  | _ => imm.signExtend 64

/-- The format of a scalar floating-point instruction: p selects FP64 (R117). -/
def fpOf (p : Bool) : Fmt := if p then fp64 else fp32

/-- The ABN type code of that format (R116). -/
def fpCode (p : Bool) : Nat := if p then 0x15 else 0x14

/-- The bits of a scalar floating-point operand: an FP32 one lies in [31:0] (R116). -/
def fpBits (p : Bool) (v : Dword) : Nat := if p then v.toNat else v.toNat % 2 ^ 32

/-- The address of a TM operand (R83, R87): the register plus IMM8 × 64, or plus the literal; .adv (OP[3]) adds its two slots. -/
def addrTM (b : Block) (f : Form) (base : Dword) (imm : BitVec 8) (op : BitVec 4) : Dword :=
  let near := base + imm.signExtend 64 * 64
  match f with
  | .w96 _ l =>
    if op.getLsbD 3 then
      let slot := fun (x : BitVec 16) =>
        (x.extractLsb' 0 13).signExtend 64 * 16 * BitVec.ofNat 64 (b.loopIndex (x.extractLsb' 13 3).toNat)
      near + slot (l.extractLsb' 0 16) + slot (l.extractLsb' 16 16)
    else base + l.signExtend 64
  | _ => near

/-- The TYPE field of an instruction; 0 for none (R156). -/
def tyMod (f : Form) : Nat := f.mods.ty.toNat

/-- A record read with an element type that a non-zero TYPE replaces (R156). -/
def retype (ty : Nat) (t : Tsr) : Tsr := if ty = 0 then t else t.setType ty

/-- A tile TYPE reaches whose element width is another (R156). -/
def reachBad (ty : Nat) (t : Tsr) : Bool := ty != 0 && (t.isPlanes || t.esz != codeBytes ty)

end Sys2Proof.Machine
end

