-- ==== Sys2Proof/Machine/Links.lean ====
section
/-! DEFINITION. The links between dies and devices: which link a line's traffic takes, and sending a flit (11 R336, R337, R339, R342). -/

namespace Sys2Proof.Machine

def isHawser (n : Nat) : Bool := 16 ≤ n && n < 28

/-- Whether a link carries traffic: a sennit module not down, a hawser link trained and not down. -/
def Link.live (l : Link) (n : Nat) : Bool := l.half != 3 && (!isHawser n || l.up)

/-- Whether a link still has flits to be resent elsewhere, before which no other traffic moves (R339, R342). -/
def Link.moving (l : Link) : Bool := l.half == 3 && (l.d0.buf != [] || l.d1.buf != [])

/-- Whether a link's numbers are live or its flits move: what its traffic may name it for. -/
def State.takesTraffic (s : State) (n : Nat) : Bool := (s.link n).live n || (s.link n).moving

/-- The sennit module of a slice's traffic (R336, R339): m, else m XOR 8, else the lowest that is up; but the module on which flits of that
traffic are outstanding, as long as they are, so that no line uses two at a time. -/
def State.moduleFor (s : State) (m : Nat) : Option Nat :=
  let ours := fun (f : Flit) => f.way % 16 == m % 16
  let held := (List.range 16).find? (fun n => n != m % 16 && ((s.link n).d0.buf.any ours || (s.link n).d1.buf.any ours))
  (held.toList ++ [m % 16, m % 16 ^^^ 8] ++ List.range 16).find? s.takesTraffic

/-- The hawser link toward a device for a line (R342): by bit 0 of its slice, else the route's other link; none while flits of that traffic are
outstanding on a link the route no longer gives, and the link on which they are while it is the route's. -/
def State.routeFor (s : State) (j slice : Nat) : Option Nat :=
  let r := (Tab.get s.routes j).getD []
  let ours := fun (f : Flit) => f.dev == j && f.way % 2 == slice % 2
  match (rangeFrom 16 12).find? (fun n => (s.link n).d0.buf.any ours) with
  | some n => if r.contains n && s.takesTraffic n then some n else none
  | none => ([r.getD (slice % 2 % max r.length 1) 0] ++ r).find? (fun n => r.contains n && s.takesTraffic n)

def Link.dir (l : Link) (d : Bool) : LinkDir := if d then l.d1 else l.d0
def Link.setDir (l : Link) (d : Bool) (x : LinkDir) : Link := if d then { l with d1 := x } else { l with d0 := x }

/-- Sending a message of or for a device in a new flit (R337); none while the replay buffer is full, the link is down or it retrains. An
acknowledgement alone takes no number and no place in the buffer, and waits behind no flit (log 80). -/
def State.sendFlit (s : State) (n : Nat) (d : Bool) (dev : Nat) (m : Msg) (way : Nat := 0) : Option State :=
  let l := s.link n
  let x := l.dir d
  let f : Flit := ⟨x.next, (l.dir (!d)).expect, dev, m, way⟩
  if l.target.isSome || !l.live n then none
  else if m = .idle then some (s.modLink n (fun l => l.setDir d { x with wire := f :: x.wire }))
  else if 256 ≤ x.buf.length then none
  else some (s.modLink n (fun l => l.setDir d { x with next := (x.next + 1) % 4096, buf := x.buf ++ [f], wire := x.wire ++ [f] }))

/-- The device a key's home port lies on. -/
def State.devOf (s : State) (k : Nat) : Nat := if isFarKey k then k / 2 ^ 45 - 1 else s.devid.toNat

/-- The link and direction a request for a key takes from a die: the sennit for the other die of this device, a hawser link for another
device; none when it needs no link. -/
def State.linkTo (s : State) (die k : Nat) : Option (Option Nat × Bool) :=
  if isHostKey k then none
  else if isOwnKey k then if portDie k = die then none else some (s.moduleFor (portModule k), die == 1)
  else some (s.routeFor (k / 2 ^ 45 - 1) (portSlice (keyOff k)), false)

end Sys2Proof.Machine
end

