-- ==== Sys2Proof/Machine/Perform.lean ====
section
/-! DEFINITION. Performing accesses (07 R238, R239, R242 to R246, R254; 11 R333, R338, R344): what an access does at its home port, what
its reply does, and how ACCESS_PERFORMED carries one to a scope. -/

namespace Sys2Proof.Machine

/-- Changing a pending access of a block; dropping one. -/
def Block.modPend (b : Block) (id : Nat) (f : Pend → Pend) : Block := { b with pend := b.pend.map (fun p => if p.id == id then f p else p) }
def Block.dropPend (b : Block) (id : Nat) : Block := { b with pend := b.pend.filter (fun p => p.id != id) }
def Block.pendOf (b : Block) (id : Nat) : Option Pend := b.pend.find? (fun p => p.id == id)

/-- An access refused when it is performed: its instruction's trap. One of the control lane's has its own address in %tpc (R301, R318, R343);
one of a tile instruction's names its element (log 71). A read whose instruction or unit awaits it is marked, and its instruction finds the
trap with the element it was for (R7); so is an engine's. -/
def State.accessTrap (s : State) (blk : Nat) (p : Pend) (e : Nat × Nat) : State :=
  let t : TrapInfo := { cause := e.1, detail := e.2, taddr := taddrWord 0 p.addr }
  s.modBlk blk (fun b =>
    if p.isGet then b.modPend p.id (fun p => { p with bad := some e, pas := [], sent := false, owes := false, done := 10 })
    else match p.agent with
    | .c => (b.dropPend p.id).raise { t with age := p.id, now := true, pc := some p.pc }
    | .t => (b.dropPend p.id).raise
        { t with age := p.seq, telem := pixWord true 0 { plane := p.elem / 65536, row := p.elem / 256 % 256, col := p.elem % 256 } }
    | .e => b.modPend p.id (fun p => { p with bad := some e, pas := [], sent := false, owes := false, done := 10 }))

/-! Room at a port (R332, R333). -/

/-- Whether the slice of a key holds 1,024 deferred operations, or will with more of them (R333). -/
def State.deferFull (s : State) (k : Nat) : Bool :=
  isOwnKey k && 1024 ≤ (s.deferred.filter (fun d => isOwnKey d.pa && onePort d.pa k)).length

/-- Whether an access is one to be deferred (R333). -/
def State.defers (s : State) (b : Block) (p : Pend) : Bool :=
  s.detOn b && (match p.kind with
    | .rmw _ _ _ _ _ ret => !ret
    | _ => false)

/-- Whether an access finds no place at the port of a key: it waits at its source. -/
def State.noPlace (s : State) (b : Block) (p : Pend) (k : Nat) : Bool :=
  !p.isRead && (if s.defers b p then s.deferFull k else s.queueFull k)

/-- Whether the queue port that an atomic's old value goes to refuses it: the atomic is then not executed (R108). -/
def State.pushRefused (s : State) (blk : Nat) (p : Pend) (old : Nat) : Bool :=
  match p.port with
  | none => false
  | some d => match putDst ({ s with cur := blk } : State) d (BitVec.ofNat 64 old) with
    | .ok _ => false
    | .error _ => true

/-- What an access does at the home port of key k: a read takes its value, a write is applied, an atomic executes (R254) or is deferred
(R333); poison refuses a read and an atomic (R318). An atomic leaves no copy of its line in the L1 of its core. -/
def State.portExec (s : State) (blk : Nat) (p : Pend) (k : Nat) : State :=
  let b := s.blk blk
  let mod := fun (s : State) (f : Pend → Pend) => s.modBlk blk (fun b => b.modPend p.id f)
  let refused := fun (d : Nat) => mod s (fun p => { p with bad := some (cPOISON, d), got := some [], pas := [] })
  match p.kind with
  | .rd _ _ | .get _ =>
    match s.homePoison k p.size with
    | some d => refused d
    | none => mod s (fun p => { p with got := some (s.mem.read k p.size), pas := [] })
  | .wr bs =>
    let (n, s) := if p.keys.length < 2 || p.first != 0 then (p.first, s) else s.fresh
    mod ((s.queued k).homeWrite k bs p.cacheable) (fun p => { p with pas := delNum p.pas k, first := n })
  | .rmw op w x y _ _ =>
    if s.defers b p then
      if let some d := s.homePoison k w then refused d else
      mod { s with deferred := s.deferred ++ [{ launch := b.launch, blk, blkid := b.blkid, seq := b.orderOf p, id := p.id, pa := k, op, w, x }] }
        (fun p => { p with pas := [] })
    else match s.homePoison k w with
      | some d => refused d
      | none =>
        if s.pushRefused blk p (s.mem.num k w) then mod s (fun p => { p with got := some (s.mem.read k w), pas := [] })
        else
        let (old, s) := (s.queued k).homeRmw k op w x y p.cacheable
        mod ((sectorsOf k w).foldl (fun s sec => s.l1Drop b.core sec) s) (fun p => { p with got := some (leBytes w old), pas := [] })
  | _ => s

/-- The pops of an access whose instruction has completed (R107). -/
def State.popFor (s : State) (blk : Nat) (p : Pend) : State :=
  s.modBlk blk (fun b => (p.pops.foldl (fun (b : Block) r => b.setQcw (queueOf r) ((b.qcwOf (queueOf r)).popped 1)) b).modPend p.id
    (fun p => { p with pops := [] }))

/-- The end of an atomic of another die or device whose value goes into a queue port: its instruction completes, with the push and its pops, or,
refused by the port, traps not executed (R107, R108; log 24). -/
def State.settlePort (s : State) (blk : Nat) (p : Pend) (d : R6) (bs : List Byte) : State :=
  let s : State := { s with cur := blk }
  match putDst s d (BitVec.ofNat 64 (ofLe bs)) with
  | .ok t => (t.popFor blk p).modBlk blk (fun b =>
      { b.modPend p.id (fun p => { p with port := none, kind := p.kind.silent, done := max p.done 10 }) with pc := p.pc + BitVec.ofNat 56 p.len })
  | .error (.trap t _) => s.modBlk blk (fun b => (b.dropPend p.id).raise { t with age := p.id, now := true, pc := some p.pc })
  | .error _ => s

/-- The end of an access whose value has come: a load or a returning atomic writes its register, a load that another die or device has answered
renews the L1 (log 89), an acquire discards the copies narrower than its scope (R246); one that was refused traps. -/
def State.settle (s : State) (blk : Nat) (p : Pend) (bs : List Byte) (far : Bool := false) : State :=
  match p.bad with
  | some e => s.accessTrap blk p e
  | none =>
    let s := if p.isAcq then s.acquire blk p.scope else s
    let b := s.blk blk
    match p.kind with
    | .rd sz d =>
      let k := p.keys.getD 0 0
      let s := if far then s.l1Renew b.core p.scope p.cacheable true k p.size else s
      (s.setBlk blk ((b.dropPend p.id).setReg d (loadExt sz (ofLe bs)))).popFor blk p
    | .rmw _ _ _ _ d ret =>
      match p.port with
      | some q => s.settlePort blk p q bs
      | none =>
        (s.setBlk blk (let b := b.modPend p.id (fun p => { p with done := max p.done 10 }); if ret then b.setReg d (BitVec.ofNat 64 (ofLe bs)) else b)).popFor blk p
    | _ => s

/-- A load performed on this device's side: from L1, or from its port, filling the L1 (R236). -/
def State.loadHere (s : State) (blk : Nat) (p : Pend) : State :=
  let b := s.blk blk
  let k := p.keys.getD 0 0
  let s := if p.isAcq then s.acquire blk p.scope else s
  match s.gRead b.core p.scope p.cacheable true k p.size with
  | (.error d, s) => s.accessTrap blk p (cPOISON, d)
  | (.ok bs, s) => s.settle blk { p with ord := 0 } (b.own .c p.id k bs)

/-! Order (R242, R246). -/

/-- Every earlier access of the block that must be performed first: of the same agent, overlapping ones at the same scope, or sent ahead
over the same link; for a release, all at its scope, with those of other agents that are ordered before it; for an engine's completion word,
those of its command (R249). -/
def Pend.mayPerform (p : Pend) (older : List Pend) (sc : Nat) : Bool :=
  older.all (fun q =>
    (q.agent != p.agent || !q.overlaps p || sc ≤ q.done || (4 ≤ sc && q.sent)) &&
    (!p.isRel || !(if p.agent = .e then q.agent == .e && q.seq == p.seq else q.agent == p.agent || q.ordC) || p.scope ≤ q.done))

/-- Whether an access may reach the home port of key k: overlapping ones ahead of it have, or are on the same link before it. Ahead are the
agent's own older ones, the writes that passed the L1 before it, and those that reached the other copy of a replicated page before it
(R238, R242). -/
def State.portFree (s : State) (blk : Nat) (p : Pend) (k : Nat) : Bool :=
  let core := (s.blk blk).core
  let link := (s.linkTo (dieOf core) k).isSome
  s.blocks.all (fun e => e.2.pend.all (fun q =>
    q.isShared || (e.1 == blk && q.id == p.id) || !q.at_ k p.size || (link && q.sent) ||
      !((e.1 == blk && q.agent == p.agent && q.id < p.id)
        || (q.stamp != 0 && s.oneL1 e.2.core core && (p.stamp == 0 || q.stamp < p.stamp))
        || (q.first != 0 && (p.first == 0 || q.first < p.first)))))

/-- The keys a write is to reach for a scope (R238, R239): both copies at .dev and beyond; for a replicated page, its own die's copy at
.core, and either copy first as the codes of .cluster (die 0's) and .die (die 1's) select. -/
def Pend.keysAt (p : Pend) (die sc : Nat) : List Nat :=
  if p.pas.length < 2 || 7 ≤ sc then p.pas
  else p.pas.filter (fun k => portDie k == (if sc = 5 then 0 else if sc = 6 then 1 else die))

/-- Bringing an access to the home port of one of its keys, once it may: across a link as a request flit, executed there once (R338), or
at once. A write to a replicated page takes its place among the page's writes as it is sent to one copy or reaches it (R238). -/
def State.toPort (s : State) (blk id k : Nat) : State :=
  match (s.blk blk).pendOf id with
  | none => s
  | some p =>
    if s.noPlace (s.blk blk) p k || !s.portFree blk p k then s
    else match s.linkTo (dieOf (s.blk blk).core) k with
    | none => s.portExec blk p k
    | some (link, d) =>
      if p.sent then s
      else match link.bind (fun n => s.sendFlit n d (s.devOf k) (.request blk p.id) (portSlice (keyOff k))) with
        | none => s
        | some s =>
          let (n, s) := if p.keys.length < 2 || p.first != 0 then (p.first, s) else s.fresh
          s.modBlk blk (fun b => b.modPend p.id (fun p => { p with sent := true, first := n }))

/-- Sending the response an access executed at its far port owes (R338); it waits for room in the link. -/
def State.sendReply (s : State) (blk : Nat) (p : Pend) : Option State :=
  if !p.owes then none
  else match p.keys.find? (fun k => (s.linkTo (dieOf (s.blk blk).core) k).isSome) with
    | some k => match s.linkTo (dieOf (s.blk blk).core) k with
      | some (some n, d) => (s.sendFlit n (!d) (s.devOf k) (.reply blk p.id (p.got.getD []) p.bad) (portSlice (keyOff k))).map (fun s =>
          s.modBlk blk (fun b => b.modPend p.id (fun p => { p with owes := false })))
      | _ => none
    | none => none

/-- The scope at which a write is performed once its remaining keys are those given, for a wanted scope; a write to another device is
performed beyond its block only with the acknowledgement (R344). -/
def Pend.reached (p : Pend) (die sc : Nat) : Nat :=
  if p.sent && p.keys.any isFarKey then max p.done (min sc 3)
  else if p.pas = [] then sc
  else if p.pas.length < p.keys.length && p.pas.all (fun k => portDie k != die) then max p.done 6
  else max p.done (min sc 3)

/-- The HBM array receives the sectors whose writes a block's acquires have ordered before its accesses (R246, R258). -/
def State.persistSeen (s : State) (b : Block) : State := { s with dirty := s.dirty.filter (fun e => !b.seenDirty.contains e.1) }

/-- The HBM array receives the dirty sectors of the lines of a key (R334). -/
def State.persist (s : State) (k n : Nat) : State :=
  { s with dirty := s.dirty.filter (fun e => !(k / 256 ≤ e.1 / 4 && e.1 / 4 ≤ (k + n - 1) / 256)) }

/-- A write passes the L1 of its core, which updates the copies there, and is on its way (R236). -/
def State.passL1 (s : State) (blk : Nat) (p : Pend) : State :=
  match p.kind with
  | .wr bs =>
    if p.stamp != 0 then s
    else
      let (n, s) := s.fresh
      (p.keys.foldl (fun (s : State) k => s.l1Write (s.blk blk).core k bs) s).modBlk blk (fun b => b.modPend p.id (fun p => { p with stamp := n }))
  | _ => s

/-- A write or a reduction performed as far as a scope. -/
def State.performWrite (s : State) (blk : Nat) (p : Pend) (sc : Nat) : State :=
  let die := dieOf (s.blk blk).core
  let s := s.passL1 blk p
  let s := if sc < 4 then s else (p.keysAt die sc).foldl (fun (s : State) k => s.toPort blk p.id k) s
  match (s.blk blk).pendOf p.id with
  | none => s
  | some q =>
    let r := q.reached die sc
    let s := s.modBlk blk (fun b => b.modPend p.id (fun q => { q with done := max q.done r }))
    if r < 11 then s else (q.keys.foldl (fun (s : State) k => s.persist k q.size) s).modBlk blk (fun b => b.dropPend p.id)

/-- A pending access performed at a scope, or carried toward it (R239); none when an earlier access stands in its way. A deferred operation is
performed at .persist once it is applied (R333). -/
def State.performAt (s : State) (blk : Nat) (p : Pend) (sc : Nat) : Option State :=
  let b := s.blk blk
  let older := b.pend.takeWhile (fun q => q.id != p.id)
  let near := fun (k : Nat) => (s.linkTo (dieOf b.core) k).isNone
  let k := p.keys.getD 0 0
  let rel := p.isRel && p.agent != .e
  let s := if rel && p.scope = 11 then s.persistSeen b else s
  if sc < 2 || 11 < sc || sc ≤ p.done || !p.mayPerform older sc || (rel && !s.seenDone b p.scope) then none
  else if p.bad.isSome && !p.sent && !p.owes && !p.isGet && p.agent != .e then some (s.accessTrap blk p (p.bad.getD (0, 0)))
  else match p.kind with
    | .shc bs => some (s.setBlk blk ((b.dropPend p.id).storeC p.addr bs))
    | .shw _ => some (s.setBlk blk (if sc < 3 then b.modPend p.id (fun p => { p with done := 2 }) else b.dropPend p.id))
    | .rd _ _ =>
      match p.got with
      | some bs => if p.sent then s.sendReply blk p else some (s.settle blk p bs (!near k))
      | none =>
        if s.deferredAt blk k p.size then none
        else if near k || s.l1Has b.core p.scope p.cacheable k p.size then some (s.loadHere blk p) else some (s.toPort blk p.id k)
    | .get _ => if p.got.isSome then (if p.sent then s.sendReply blk p else none) else some (s.toPort blk p.id k)
    | .wr _ => if p.owes then s.sendReply blk p else some (s.performWrite blk p sc)
    | .rmw _ _ _ _ _ _ =>
      if p.pas = [] then
        if p.sent then s.sendReply blk p
        else if p.done < 10 then some (s.settle blk p (p.got.getD []))
        else if p.port.isSome then none
        else if s.deferred.any (fun d => d.blk == blk && d.id == p.id) then none
        else some (s.performWrite blk p sc)
      else if sc < 4 then none
      else
        let s := s.toPort blk p.id k
        match (s.blk blk).pendOf p.id with
        | some q => if q.pas = [] && !q.sent then some (s.settle blk q (q.got.getD [])) else some s
        | none => some s

/-- What the control lane has issued on sectors that are about to be poisoned is performed there first, since a refusal is precise at its
instruction (R108, R318; log 93): the writes that have passed an L1 on their way there, in the order in which they passed it, then the control
lane's reads take their values, its writes are applied and its atomics execute, but for those that a release holds up. -/
def State.beforePoison (s : State) (secs : List Nat) : State :=
  let hits := fun (p : Pend) => p.pas.filter (fun k => (sectorsOf k p.size).any (fun x => secs.contains x))
  let all := (s.blocks.flatMap (fun e => e.2.pend.map (fun p => (e.1, p)))).filter (fun e => !e.2.isShared && hits e.2 != [])
  let apply := fun (s : State) (blk : Nat) (p : Pend) => (hits p).foldl (fun (s : State) k =>
    if s.portFree blk p k then (s.roomFor k).portExec blk p k else s) s
  let s := (sortBy (fun (x y : Nat × Pend) => x.2.stamp < y.2.stamp) (all.filter (fun e => e.2.stamp != 0))).foldl
    (fun (s : State) e => apply s e.1 e.2) s
  (all.filter (fun e => e.2.agent == .c && e.2.stamp == 0)).foldl (fun (s : State) e =>
    let b := s.blk e.1
    match b.pendOf e.2.id with
    | none => s
    | some p =>
      let k := p.keys.getD 0 0
      if p.isRead then
        match (s.gRead b.core p.scope p.cacheable false k p.size).1 with
        | .ok bs => if p.isGet then s else s.modBlk e.1 (fun b => b.modPend p.id (fun p => { p with got := some (b.own .c p.id k bs), pas := [] }))
        | .error _ => s
      else if !p.mayPerform (b.pend.takeWhile (fun q => q.id != p.id)) 7 || (p.isRel && !s.seenDone b p.scope) then s
      else
        let s := s.passL1 e.1 p
        match (s.blk e.1).pendOf p.id with
        | some p => apply s e.1 p
        | none => s) s

end Sys2Proof.Machine
end

