-- ==== Sys2Proof/Machine/TileUnit.lean ====
section
/-! DEFINITION. What every tile instruction in flight shares: where its operands lie, the order among instructions in flight, the next
unit, traps of a unit, and the write-back of elements (01 R25, R31, R32, R36, R37, R40; 05 R157 to R166, R174; 06 R199). -/

namespace Sys2Proof.Machine

/-! Operands in their places. -/

/-- An operand instance: the block whose store holds it, its record, the instance, and the end of its buffer entry for a channel port. -/
structure Loc where
  blk : Nat
  t : Tsr
  inst : Nat
  lim : Option Nat := none
  deriving DecidableEq, Repr

/-- A record placed at an offset of shared store. -/
def Tsr.at_ (t : Tsr) (base : Nat) : Tsr := { t with d0 := dset (dset t.d0 19 0 base) 63 62 0 }

/-- Where a source operand lies: for a channel port the head tile of the block's own receive buffer (R31). -/
def State.locOf (s : State) (blk : Nat) (o : Opnd) : Loc :=
  if isChan o.name then
    let b := s.blk blk
    let q := b.qcwOf (o.name - 48)
    let n := (b.tsrOf o.name).tileBytes
    ⟨blk, o.tsr.at_ (q.base + q.head * n), 0, some (q.base + (q.head + 1) * n)⟩
  else ⟨blk, o.tsr, o.inst, none⟩

/-- Where a destination operand lies: for a channel port the staging tile of the peer's receive buffer. -/
def State.locTo (s : State) (blk : Nat) (o : Opnd) : Loc :=
  if isChan o.name then
    match s.chanTo (s.blk blk) o.name with
    | some (p, qn) =>
      let pb := s.blk p
      let q := pb.qcwOf qn
      let n := (pb.tsrOf (48 + qn)).tileBytes
      ⟨p, o.tsr.at_ (q.base + q.tail * n), 0, some (q.base + (q.tail + 1) * n)⟩
    | none => ⟨blk, o.tsr, 0, some 0⟩
  else ⟨blk, o.tsr, o.inst, none⟩

/-- Whether every byte of an element lies inside its buffer entry. -/
def Loc.holds (l : Loc) (r c : Nat) : Bool :=
  match l.lim with
  | none => true
  | some e => (l.t.spans l.inst r c).all (fun x => x.1 + x.2 ≤ e)

/-! Order among the instructions in flight (R25). -/

/-- Which part of an operand a unit uses. -/
inductive Span where
  | elem
  | row
  | whole
  deriving DecidableEq, Repr

/-- A use of bytes of a store by a unit: the first byte, the end, and whether it writes. Lane store counts per lane. -/
structure Region where
  space : Nat
  lo : Nat
  hi : Nat
  write : Bool
  deriving DecidableEq, Repr

/-- The bytes of an operand that the unit at an index uses, or (rest) all it uses from there on. -/
def Tsr.region (t : Tsr) (inst : Nat) (sp : Span) (i : Idx) (rest write : Bool) : Region :=
  let b0 := t.base + inst * t.tpitch
  let fin := b0 + (t.lines - 1) * t.rpitch + t.rpitch
  let whole : Region := ⟨t.space, b0, fin, write⟩
  if sp = .whole || (t.layout = 1 && !t.inLane) then whole
  else
    let row := b0 + i.row * t.rpitch
    if sp = .row || t.isPlanes || t.inLane || t.rot != 0 then ⟨t.space, row, if rest then fin else row + t.rpitch, write⟩
    else ⟨t.space, row + i.col * t.esz, if rest then fin else row + min t.cols (i.col / 16 * 16 + 16) * t.esz, write⟩

def Region.clash (x y : Region) : Bool := (x.write || y.write) && x.space == y.space && x.lo < y.hi && y.lo < x.hi

/-- The part a unit uses of its destination, and of its sources. -/
def spansOf : Instr → Span × Span
  | .ttrans _ _ _ | .tbcast _ _ _ _ => (.elem, .whole)
  | .tbfly _ _ _ _ _ | .texpd _ _ _ _ | .tldl _ _ _ | .tstl _ _ _ | .tmapr _ _ _ _ => (.row, .row)
  | .tscan _ r _ _ _ => if r = 0 then (.row, .row) else (.whole, .whole)
  | .tcmpr _ _ _ _ | .tred _ _ _ _ _ _ | .targmx _ _ _ _ | .tchkf _ _ _ | .tany _ _ _ | .tall _ _ _ | .ttopk _ _ _ _ | .mma _ _ _ _
  | .mmas _ _ _ _ | .mmav _ _ _ _ => (.whole, .whole)
  | _ => (.elem, .elem)

/-- Instructions that read D's instance before the advance: as a source, or for what a shrinking write leaves (R37, R185). -/
def readsSrc : Instr → Bool
  | .tcred _ _ _ _ | .tcbc _ _ _ _ | .tcag _ _ _ _ | .mmas _ _ _ _ | .tmapr _ _ _ _ | .tcmpr _ _ _ _ => true
  | _ => false

/-- Whether a flight reads D's instance before the advance: as those do, for its masked elements, or for the elements of a gather that may fault (R37,
R177). -/
def Flight.readsOld (f : Flight) : Bool :=
  readsSrc f.instr || f.m.isSome || (match f.instr with
    | .tldg _ _ _ _ => true
    | _ => false)

/-- The instance of an operand before its advance. -/
def Opnd.before (o : Opnd) : Nat := (o.inst + o.tsr.depth - 1) % o.tsr.depth

/-- What a flight uses of each lane's store apart from its tiles (R180, R244). -/
def Flight.laneUse (f : Flight) : List Region :=
  match f.instr with
  | .tldl _ _ _ => (f.a.map (fun o => (⟨2, (f.sc.getD 0 0).toNat, (f.sc.getD 0 0).toNat + o.tsr.cols * o.tsr.esz, true⟩ : Region))).toList
  | .tstl _ _ _ => (f.d.map (fun o => (⟨2, (f.sc.getD 0 0).toNat, (f.sc.getD 0 0).toNat + o.tsr.cols * o.tsr.esz, false⟩ : Region))).toList
  | .tmap _ _ _ _ | .tmapr _ _ _ _ => [⟨2, 0, 1024, true⟩]
  | _ => []

/-- Every use of store bytes by the next unit of a flight, or by all that remains of it. -/
def State.uses (s : State) (blk : Nat) (f : Flight) (rest : Bool) : List Region :=
  let (sd, ss) := spansOf f.instr
  let ss := if ss = .elem && (Opnd.tsrOf f.d).pscale then .row else ss  -- a run's scale comes from its whole run (R182)
  let src := fun (o : Option Opnd) (sp : Span) (w : Bool) =>
    (o.map (fun o => let l := s.locOf blk o; l.t.region l.inst sp f.idx rest w)).toList
  let dst := match f.d with
    | none => []
    | some o =>
      (if isChan o.name && !readsD f.instr then [] else src (some o) sd (!readsD f.instr))
        ++ (if f.readsOld && o.inst != f.src then [o.tsr.region f.src sd f.idx rest false] else [])
  let idxSrc := match f.instr, f.b with  -- what R37 copies into TCMPR's index tile
    | .tcmpr _ _ _ _, some o => if o.before != o.inst then [o.tsr.region o.before .whole f.idx rest false] else []
    | _, _ => []
  let b := match f.b with
    | some o => if writesB f.instr && isChan o.name then [] else src f.b ss (writesB f.instr)
    | none => []
  dst ++ idxSrc ++ src f.a ss false ++ b ++ src f.c ss false ++ src f.m sd false ++ f.laneUse

/-- Whether a flight is an MMAV that is still to sample a threshold word of global memory: each sample is an acquire (R246). -/
def Flight.samples (f : Flight) : Bool :=
  match f.instr with
  | .mmav _ _ _ _ => (Opnd.tsrOf f.d).thrsel == 2 && f.idx.plane + 1 < (f.sc.getD 0 0).toNat
  | _ => false

/-- Whether a flight accesses global memory. -/
def Flight.isGlobal (f : Flight) : Bool :=
  match f.instr with
  | .tld _ _ _ _ _ | .tst _ _ _ _ _ | .tstr _ _ _ _ _ | .tldg _ _ _ _ | .tstg _ _ _ _ => true
  | .mmav _ _ _ _ => (Opnd.tsrOf f.d).thrsel == 2
  | _ => false

/-- The address of an element of a gather or scatter, by its index tile (R176). -/
def Flight.gatherAt (f : Flight) (b : Block) (i : Loc) (r c : Nat) : Nat :=
  let bits := b.elt i.t i.inst r c
  let idx : Int := if isSignedCode i.t.etype then sx (codeBits i.t.etype) bits else (bits : Nat)
  wrapBits 64 ((f.sc.getD 0 0).toNat + idx * ((Opnd.tsrOf f.d).esz : Int))

/-- Whether no earlier instruction in flight is still to write an operand of a flight. -/
def State.settled (s : State) (blk : Nat) (f : Flight) (l : Loc) : Bool :=
  ((s.blk blk).flights.takeWhile (fun g => g.id != f.id)).all (fun g =>
    g.fin || (s.uses blk g true).all (fun x => !x.clash (l.t.region l.inst .whole {} true false)))

/-- The ranges of global bytes that a flight still uses, as far as they are known: a gather's or scatter's once its index tile is written. -/
def State.globalUse (s : State) (blk : Nat) (f : Flight) : Option (List (Int × Int)) :=
  let t := Opnd.tsrOf f.d
  match f.instr with
  | .tldg _ _ _ _ | .tstg _ _ _ _ =>
    let i := s.locOf blk (f.a.getD ⟨0, {}, 0⟩)
    if !s.settled blk f i then none
    else some (((allCells t).filter (fun e => !cellLt e.1 e.2 f.idx.row (f.idx.col / 16 * 16))).map (fun e =>
      let a : Int := f.gatherAt (s.blk blk) i e.1 e.2; (a, a + (t.esz : Int))))
  | .mmav _ _ _ _ => some (if f.samples then [(((t.d5.toNat % 2 ^ 56 : Nat) : Int), ((t.d5.toNat % 2 ^ 56 + 8 : Nat) : Int))] else [])
  | _ =>
    let k : Nat := if t.layout = 1 then 0 else f.idx.row
    let a : Int := f.base + f.pitch * (k : Int)
    let z : Int := f.base + f.pitch * ((t.lines - 1 : Nat) : Int)
    let len : Int := ((if t.layout = 1 then t.rows * t.esz else if t.isPlanes then t.lineBytes else t.cols * t.esz : Nat) : Int)
    some [(min a z, max a z + len)]

/-- Whether two flights' global accesses may touch one byte: T's accesses to it keep program order, reads among themselves too (R242, R244). -/
def State.globalClash (s : State) (blk : Nat) (f g : Flight) : Bool :=
  f.isGlobal && g.isGlobal && (match s.globalUse blk f, s.globalUse blk g with
    | some xs, some ys => xs.any (fun x => ys.any (fun y => x.1 < y.2 && y.1 < x.2))
    | _, _ => true)

/-- Whether the next unit of a flight may run after the earlier flights (R25, R174, R246). -/
def State.unitFree (s : State) (blk : Nat) (f : Flight) : Bool :=
  let older := ((s.blk blk).flights.takeWhile (fun g => g.id != f.id)).filter (fun g => !g.fin)
  let mine := s.uses blk f false
  older.all (fun g => !g.samples && !s.globalClash blk f g && (s.uses blk g true).all (fun y => mine.all (fun x => !x.clash y)))

/-- FENCE.TT before a flight's global access (R135): every earlier one performed at its scope, then the acquire. A fence that stands after a
held record binds the instructions that resume with it, none of the handler's. -/
def State.passFences (s : State) (blk : Nat) (f : Flight) : Option State :=
  let b := s.blk blk
  let due := b.fences.filter (fun e => e.1 < f.id && !b.recs.any (fun g => g.id < e.1 && g.isGlobal))
  if !f.isGlobal || due = [] then some s
  else if due.all (fun e => b.flights.all (fun g => e.1 < g.id || g.fin || !g.isGlobal)
      && b.pend.all (fun p => e.1 < p.id || p.agent != .t || p.isShared || e.2 ≤ p.done)) then
    let s := s.setBlk blk { b with fences := b.fences.filter (fun e => !due.contains e) }
    some (due.foldl (fun s e => s.acquire blk e.2) s)
  else none

/-! Units. -/

/-- The elements of the element group at an index (R7, R40). -/
def groupCells (t : Tsr) (i : Idx) : List (Nat × Nat) :=
  (rangeFrom i.col (min t.cols (i.col / 16 * 16 + 16) - i.col)).map (fun c => (i.row, c))
/-- The index after an element group; none after the last. -/
def nextGroup (t : Tsr) (i : Idx) : Option Idx :=
  let c := i.col / 16 * 16 + 16
  if c < t.cols then some { i with col := c } else if i.row + 1 < t.rows then some { i with row := i.row + 1, col := 0 } else none
def nextRow (t : Tsr) (i : Idx) : Option Idx := if i.row + 1 < t.rows then some { row := i.row + 1 } else none

/-- A trap that a unit raises: its place in the order of R162 (3 memory, 4 verdict, 5 FP, 6 bound), its element, and whether %telem names
it (R298, R299). -/
structure UEv where
  cls : Nat
  cause : Nat
  detail : Nat := 0
  r : Nat := 0
  c : Nat := 0
  named : Bool := true
  taddr : Dword := 0
  tport : Dword := 0
  ttile : Dword := 0
  deriving DecidableEq, Repr

/-- An element computed for a tile: in D, or (second) in B; its bits and, for scaled planes, its scale. -/
structure UWr where
  second : Bool := false
  r : Nat
  c : Nat
  v : Nat
  scale : Nat := 0x3C00
  deriving DecidableEq, Repr

/-- What a unit does: the traps it raises, the flags of its elements in commit order, its elements, the elements of D that take R37, and
the state with what reading memory changed. -/
structure UnitOut where
  st : State
  evs : List UEv := []
  fls : List (Nat × Nat × Nat) := []
  wrs : List UWr := []
  copies : List (Nat × Nat) := []
  next : Option Idx := none
  plain : List UWr := []         -- elements stored with no write-back effect beside those of wrs
  copies2 : List (Nat × Nat) := [] -- elements of a second destination that take R37
  bad : List (Nat × UEv) := []   -- elements of a gather or scatter that fault, by linear index (R177)
  asks : List Pend := []         -- reads of another die or device that the unit asks for first
  done : Option (List (Nat × Nat)) := none -- the elements it commits, when they are not those it writes in D
  raw : Bool := false            -- no write-back effects
  silent : Bool := false         -- flags merge and never trap (R225)
  anyFlag : Bool := false        -- %telem of an FP trap names the first element that raised any enabled flag (R195, R220)
  steps : Bool := false          -- flags stand in the order of the steps, not of the elements (R195)
  post : State → State := id     -- other effects of the commit

/-- What a unit works with. -/
structure Ux where
  s : State
  blk : Nat
  b : Block
  f : Flight
  x : Mods
  ty : Nat
  md : RMode

def instrForm (i : Instr) : Form := ((instrInfo i).map (fun x => x.form)).getD .w32

def ux (s : State) (blk : Nat) (f : Flight) : Ux :=
  let x := (instrForm f.instr).mods
  ⟨s, blk, s.blk blk, f, x, x.ty.toNat, RMode.ofCode (if 4 ≤ x.rnd.toNat then x.rnd.toNat else f.rm)⟩

def Ux.loc (u : Ux) (o : Option Opnd) : Loc := u.s.locOf u.blk (o.getD ⟨0, {}, 0⟩)
def Ux.ld (u : Ux) : Loc := u.s.locTo u.blk (u.f.d.getD ⟨0, {}, 0⟩)
/-- D's record as captured, and its instance before the advance. -/
def Ux.dt (u : Ux) : Tsr := Opnd.tsrOf u.f.d
def Ux.lsrc (u : Ux) : Loc := ⟨u.blk, u.dt, u.f.src, none⟩

/-- The bits and scale of an element of an operand. -/
def Ux.rd (u : Ux) (l : Loc) (r c : Nat) : Nat := u.b.elt l.t l.inst r c
def Ux.sc (u : Ux) (l : Loc) (r c : Nat) : Nat := if l.t.pscale then u.b.scaleBits l.t l.inst r c else 0x3C00

/-- Poison in an element of an operand (R317). -/
def Ux.poison (u : Ux) (l : Loc) (r c er ec : Nat) : List UEv :=
  match u.b.eltPoison l.t l.inst r c with
  | none => []
  | some k => [{ cls := 3, cause := cPOISON, detail := 4 + l.t.space, r := er, c := ec
                 taddr := taddrWord (l.t.space + 1) (if l.t.space = 2 then k % 1024 else k) }]

/-- VERDICT_USE at an element whose bits are ABN (R72). -/
def vuse (code bits r c : Nat) : List UEv := if isAbn code bits then [{ cls := 4, cause := cVUSE, r, c }] else []

/-- Whether the mask leaves an element unwritten (R81, R158). -/
def Ux.masked (u : Ux) (r c : Nat) : Bool :=
  match u.f.m with
  | none => false
  | some _ => (u.rd (u.loc u.f.m) r c != 0) == (instrForm u.f.last).mods.pneg

/-- Whether any element of the run of an element is written (R182). -/
def Ux.runWritten (u : Ux) (r c : Nat) : Bool :=
  (rangeFrom (c / 64 * 64) (min u.dt.cols (c / 64 * 64 + 64) - c / 64 * 64)).any (fun k => !u.masked r k)

/-- Poison in the mask tile. -/
def Ux.maskPoison (u : Ux) (r c : Nat) : List UEv := if u.f.m.isSome then u.poison (u.loc u.f.m) r c r c else []

/-- A unit of several elements of D, each computed on its own; masked ones take R37. -/
def Ux.each (u : Ux) (cs : List (Nat × Nat)) (next : Option Idx) (g : Nat → Nat → UWr × Nat × List UEv) : UnitOut :=
  let rs := (cs.filter (fun e => !u.masked e.1 e.2)).map (fun e => g e.1 e.2)
  { st := u.s
    evs := cs.flatMap (fun e => u.maskPoison e.1 e.2) ++ rs.flatMap (fun x => x.2.2)
    fls := rs.filterMap (fun x => if x.2.1 = 0 then none else some (x.1.r, x.1.c, x.2.1))
    wrs := rs.map (fun x => x.1)
    copies := cs.filter (fun e => u.masked e.1 e.2)
    next }

/-- The element group at the index of a flight. -/
def Ux.group (u : Ux) (g : Nat → Nat → UWr × Nat × List UEv) : UnitOut :=
  u.each (groupCells u.dt u.f.idx) (nextGroup u.dt u.f.idx) g

/-! Write-back (R163 to R166). -/

/-- Whether a column feeds the monitor. -/
def Tsr.monitored (t : Tsr) (c : Nat) : Bool := t.monen && (t.monall || c == t.moncol)

/-- An element after its bound: the element stored and whether it breaches under flag; or a BOUND trap. Under a TYPE override the bounds are read in
the format of the record's own type and the element in TYPE's: R164 leaves it open (log 94). -/
def boundElt (t : Tsr) (ty name : Nat) (w : UWr) : Except UEv (UWr × Bool) :=
  let te := retype ty t
  let v := te.value w.v w.scale
  let lo := t.bound t.d2
  let hi := t.bound t.d3
  let trap : UEv := { cls := 6, cause := cBOUND, r := w.r, c := w.c, ttile := tileWord name }
  if isAbn te.etype w.v || t.bpol = 0 || !outside lo hi v then .ok (w, false)
  else if t.bpol = 1 then .ok (w, true)
  else if t.bpol = 2 then
    if v.isNan then .ok (w, true)
    else match clampValue te.ty (te.scaleVal w.scale) lo hi v with
      | some bits => .ok ({ w with v := bits }, false)
      | none => .error trap
  else .error trap

/-- Storing an element with its effects: the bytes, the scale of its run, the verdict tag, %bflag, the monitor. -/
def State.storeElt (s : State) (blk : Nat) (l : Loc) (ty name : Nat) (effects : Bool) (w : UWr) (breach : Bool) : State :=
  let s := if l.holds w.r w.c then s.modBlk l.blk (fun b =>
      let b := b.putElt l.t l.inst w.r w.c w.v
      if l.t.pscale then b.putScale l.t l.inst w.r w.c w.scale else b) else s
  if !effects then s
  else
    let s := if breach then s.modBlk blk (fun b => if bitOf b.bflag.toNat 63 then b
        else { b with bflag := BitVec.ofNat 64 (2 ^ 63 + name * 2 ^ 16 + w.r * 2 ^ 8 + w.c) }) else s
    let b := s.blk blk
    if l.t.monitored w.c then
      s.modLch b.launch (fun x => x.modClaim l.t.monid (fun c => c.add (dieOf b.core) ((retype ty l.t).value w.v w.scale)))
    else s

/-- Bytes of shared store written by a unit that the engines do not yet see (R239, R250): a pending write keeps those replaced. -/
def State.notePend (s0 s : State) (blk seq : Nat) (addrs : List Nat) : State :=
  let b0 := s0.blk blk
  if addrs = [] then s
  else
    let old := addrs.map (fun a => (a, b0.shared.get a))
    let lo := addrs.foldl min (addrs.getD 0 0)
    let (id, s) := s.fresh
    s.modBlk blk (fun b => { b with pend := b.pend ++ [{ id, agent := .t, kind := .shw old, addr := lo, done := 2, pc := b.pc, seq }] })

/-- An element left unwritten at depth 2 to 4 takes its value, tag and scale from the instance before the advance (R37, R158). -/
def State.copyElt (s : State) (blk : Nat) (t : Tsr) (inst src r c : Nat) (scale : Bool) : State :=
  s.modBlk blk (fun b =>
    let v := b.elt t src r c
    let bad := (b.eltPoison t src r c).isSome
    let sc := b.scaleBits t src r c
    let b := b.putElt t inst r c v
    let b := if t.pscale && scale then b.putScale t inst r c sc else b
    if !bad then b
    else (t.spans inst r c).foldl (fun (b : Block) e => (wordsOf e.1 e.2).foldl (fun (b : Block) w =>
      if t.space = 0 then { b with poisonSh := addNum b.poisonSh w } else if t.space = 1 then { b with poisonAcc := addNum b.poisonAcc w }
      else { b with poisonLane := addNum b.poisonLane w }) b) b)

/-- The bytes of shared store that elements of a record cover. -/
def shBytes (t : Tsr) (inst : Nat) (cells : List (Nat × Nat)) : List Nat :=
  if t.space != 0 then []
  else (cells.flatMap (fun e => (t.spans inst e.1 e.2).flatMap (fun x => rangeFrom x.1 x.2))).eraseDups

/-- The first trap of a unit by the order of R162, then at the first element in commit order. -/
def firstEv (evs : List UEv) : Option UEv :=
  [2, 3, 4, 5, 6].findSome? (fun k => (evs.filter (fun e => e.cls == k)).foldl (fun (m : Option UEv) e =>
    match m with
    | none => some e
    | some x => if cellLt e.r e.c x.r x.c then some e else some x) none)

/-- The FP trap of a unit (R58): the first enabled flag in the order NV, DZ, OF, UF, NX, at the first element that raised it. -/
def fpEv (ten : Nat) (o : UnitOut) : List UEv :=
  match firstFlag ten (o.fls.foldl (fun g e => g ||| e.2.2) 0) with
  | none => []
  | some d =>
    let es := (o.fls.filter (fun e => if o.anyFlag then e.2.2 &&& ten != 0 else bitOf e.2.2 d)).map (fun e =>
      ({ cls := 5, cause := cFP, detail := d, r := e.1, c := e.2.1 } : UEv))
    if o.steps then es.take 1 else es

/-- Where an element of a unit goes. -/
def Ux.locFor (u : Ux) (second : Bool) : Loc × Nat :=
  if second then (u.s.locTo u.blk (u.f.b.getD ⟨0, {}, 0⟩), (u.f.b.map (fun o => o.name)).getD 0) else (u.ld, (u.f.d.map (fun o => o.name)).getD 0)

/-- The causes whose trap of a tile instruction names an element in %telem (R298). -/
def namesElem (cause : Nat) : Bool := [cXLATE, cPROTECT, cPOISON, cFP, cVUSE, cVCONV, cBOUND].contains cause

/-- The trap of a unit of a flight, whose fault mask and index it finds. -/
def Flight.trapOf (f : Flight) (e : UEv) (fm : Option (List Nat)) (idx : Idx) : TrapInfo :=
  { cause := e.cause, detail := e.detail, ttile := e.ttile, taddr := e.taddr, tport := e.tport, age := f.id
    telem := if e.named && namesElem e.cause then pixWord true 0 { row := e.r, col := e.c, plane := idx.plane } else 0
    fmask := if fm.isSome then tileWord f.tile else 0 }

/-- A trap of a unit that waits for its entry, unless an earlier instruction's already does (R300, R301). The unit's reads are dropped. One of a
scatter waits first for the stores of its elements that do not fault (R174, R177). -/
def State.unitTrap (s : State) (blk : Nat) (f : Flight) (e : UEv) (fm : Option (List Nat)) (idx : Idx) : State :=
  let t := f.trapOf e fm idx
  s.modBlk blk (fun b =>
    let owed := b.pend.any (fun p => p.seq == f.id && p.owed)
    let b : Block := { b with
      flights := b.flights.map (fun (g : Flight) => if g.id != f.id then g
        else { g with fm, idx, unit := if owed then some (none, []) else none, late := if owed then some t else none })
      pend := b.pend.filter (fun p => !(p.isGet && p.agent == .t && p.seq == f.id)) }
    if owed then b else b.raise t)

/-- The type TYPE gives the destination's elements: TCVT, reductions and checks apply it to A alone, TCMP exempts D (R156). -/
def tyOfD : Instr → Nat
  | .tcvt _ _ _ | .tred _ _ _ _ _ _ | .tscan _ _ _ _ _ | .targmx _ _ _ _ | .tcmp _ _ _ _ _ => 0
  | i => tyMod (instrForm i)

/-- The elements a unit commits. -/
def UnitOut.cells (o : UnitOut) : List (Nat × Nat) :=
  o.done.getD (((o.wrs ++ o.plain).filter (fun w => !w.second)).map (fun w => (w.r, w.c)))

/-- The effects of a committed unit: elements stored with their write-back, copies of R37, flags. -/
def Ux.store (u : Ux) (o : UnitOut) (wrs : List (UWr × Bool)) : State :=
  let ty := tyOfD u.f.last
  let s0 := o.st
  let d := u.ld
  let s := if u.dt.depth ≤ 1 then s0 else o.copies.foldl (fun (s : State) (e : Nat × Nat) =>
      s.copyElt u.blk d.t d.inst u.f.src e.1 e.2 (!u.runWritten e.1 e.2)) s0
  let s := o.copies2.foldl (fun (s : State) (e : Nat × Nat) =>
      match u.f.b with
      | some o => if o.tsr.depth ≤ 1 then s else s.copyElt u.blk o.tsr o.inst o.before e.1 e.2 false
      | none => s) s
  let s := (wrs.map (fun (w : UWr × Bool) => (w, !o.raw)) ++ o.plain.map (fun w => ((w, false), false))).foldl
    (fun (s : State) (x : (UWr × Bool) × Bool) =>
      let (l, name) := u.locFor x.1.1.second
      s.storeElt u.blk l ty name x.2 x.1.1 x.1.2) s
  let wrs := wrs ++ o.plain.map (fun w => (w, false))
  let mine := (o.copies ++ (wrs.filter (fun (w : UWr × Bool) => !w.1.second)).map (fun (w : UWr × Bool) => (w.1.r, w.1.c)))
  let s := if d.blk = u.blk then s0.notePend s u.blk u.f.id (shBytes d.t d.inst mine) else s
  let s := match u.f.b with
    | some o => if writesB u.f.instr && !isChan o.name then
        let l := u.loc u.f.b
        s0.notePend s u.blk u.f.id (shBytes l.t l.inst ((wrs.filter (fun (w : UWr × Bool) => w.1.second)).map (fun (w : UWr × Bool) => (w.1.r, w.1.c)))) else s
    | none => s
  o.post (s.modBlk u.blk (fun b => b.mergeFlags (o.fls.foldl (fun (g : Nat) (e : Nat × Nat × Nat) => g ||| e.2.2) 0)))

/-- Elements after their bounds, or the traps of those that break one (R163). -/
def Ux.bounded (u : Ux) (o : UnitOut) : List UEv × List (UWr × Bool) :=
  if o.raw then ([], o.wrs.map (fun w => (w, false)))
  else
    let ty := tyOfD u.f.last
    let r := o.wrs.map (fun w => let (l, name) := u.locFor w.second; boundElt l.t ty name w)
    (r.filterMap (fun x => match x with
      | .error e => some e
      | .ok _ => none),
     r.filterMap (fun x => match x with
      | .error _ => none
      | .ok w => some w))

/-- The trap a unit takes, if any (R162), and its elements after their bounds. -/
def Ux.verdict (u : Ux) (o : UnitOut) : Option UEv × List (UWr × Bool) :=
  let (bev, wrs) := u.bounded o
  (firstEv (o.evs ++ (if o.silent then [] else fpEv u.b.ten o) ++ bev), wrs)

end Sys2Proof.Machine
end

