-- ==== Sys2Proof/Machine/TileMem.lean ====
section
/-! DEFINITION. Units of the global tile loads, stores, reductions, gathers and scatters (05 R170 to R177). -/

namespace Sys2Proof.Machine

/-- What a global read of the datapath gives: bytes, a fault, a wait (for operations of the block not yet applied, or a reply), or the read to
ask another die or device for. -/
inductive GRes where
  | ok (bs : List Byte)
  | fault (e : AccFault)
  | wait
  | ask (p : Pend)

/-- A read of the datapath on this die's side: from L1 or the home port, with its own writes not yet there. -/
def State.nearRead (s : State) (blk sc : Nat) (x : Xl) (alloc : Bool) (n : Nat) : GRes × State :=
  match s.gRead (s.blk blk).core sc x.c alloc x.rkey n with
  | (.error d, s) => (.fault ⟨cPOISON, d⟩, s)
  | (.ok bs, s) => (.ok ((s.blk blk).own .t s.nextId x.rkey bs), s)

/-- What a read asked of another die or device has come to; answered, it renews the L1 (R242; log 89). -/
def State.farRead (s : State) (blk sc : Nat) (x : Xl) (alloc : Bool) (n : Nat) (p : Pend) : GRes × State :=
  match p.bad, p.got with
  | some e, _ => (.fault ⟨e.1, e.2⟩, s)
  | none, none => (.wait, s)
  | none, some bs =>
    if p.sent || p.owes then (.wait, s)
    else (.ok bs, s.l1Renew (s.blk blk).core sc x.c alloc x.rkey n)

/-- A global read of the datapath for the instruction named seq (R174, R236, R242): through L1 unless its scope passes it, else at the home
port, reached across a link by a request of its own (R338). -/
def State.tRead (s : State) (blk seq sc : Nat) (alloc : Bool) (va n : Nat) : GRes × State :=
  let b := s.blk blk
  match s.translate b.master { r := true } va with
  | (.error e, s) => (.fault e, s)
  | (.ok x, s) =>
    let busy := b.pend.any (fun p => p.agent == .t && p.isRmw && p.at_ x.rkey n)
    if busy || s.deferredAt blk x.rkey n then (.wait, s)
    else if (s.linkTo (dieOf b.core) x.rkey).isNone || s.l1Has b.core sc x.c x.rkey n then (s.watch blk va n false).nearRead blk sc x alloc n
    else match b.pend.find? (fun p => p.isGet && p.agent == .t && p.seq == seq && p.addr == va && p.size == n) with
      | none => (.ask { id := 0, agent := .t, kind := .get n, addr := va, keys := [x.rkey], pas := [x.rkey], cacheable := x.c
                        scope := sc, pc := b.pc, seq }, s.watch blk va n false)
      | some p => s.farRead blk sc x alloc n p

/-- What the reads of an element give: its bytes, a fault with its address, or what they wait for or ask for. -/
inductive EltRead where
  | ok (bs : List Byte)
  | fault (va : Nat) (e : AccFault)
  | wait
  | ask (ps : List Pend)

/-- Several reads, joined. -/
def State.tReads (s : State) (blk seq sc : Nat) (alloc : Bool) : List (Nat × Nat) → EltRead → EltRead × State
  | [], acc => (acc, s)
  | (va, n) :: rest, acc =>
    match s.tRead blk seq sc alloc va n, acc with
    | (.wait, s), _ => (.wait, s)
    | (.fault e, s), _ => (.fault va e, s)
    | (.ask p, s), .ask ps => s.tReads blk seq sc alloc rest (.ask (ps ++ [p]))
    | (.ask p, s), _ => s.tReads blk seq sc alloc rest (.ask [p])
    | (.ok bs, s), .ok acc => s.tReads blk seq sc alloc rest (.ok (acc ++ bs))
    | (.ok _, s), acc => s.tReads blk seq sc alloc rest acc

/-- A memory trap of an element. -/
def memEv (va : Nat) (e : AccFault) (r c : Nat) : UEv := { cls := 3, cause := e.cause, detail := e.detail, r, c, taddr := taddrWord 0 va }

/-- An element from the bytes of its parts. -/
def eltOfParts (t : Tsr) (r c : Nat) (bs : List Byte) : UWr :=
  if t.isPlanes then
    { r, c, v := (bs.take t.planes).foldl (fun v x => 2 * v + b2n (bitOf x.toNat (c % 8))) 0
      scale := if t.pscale then ofLe (bs.drop t.planes) else 0x3C00 }
  else { r, c, v := ofLe bs }

/-- What a unit's reads come to: the reads to ask for, and the elements or faults in order. -/
structure Reads where
  st : State
  asks : List Pend := []
  rs : List (UWr ⊕ UEv) := []

/-- Reading the elements of a unit one after another, each from its parts; none while one must wait. -/
def Ux.reads (u : Ux) (sc : Nat) (alloc : Bool) (parts : Nat → Nat → List (Nat × Nat)) :
    List (Nat × Nat) → Reads → Option Reads
  | [], x => some x
  | (r, c) :: rest, x =>
    match x.st.tReads u.blk u.f.id sc alloc (parts r c) (.ok []) with
    | (.wait, _) => none
    | (.ask ps, s) => u.reads sc alloc parts rest { x with st := s, asks := x.asks ++ ps }
    | (.fault va e, s) => u.reads sc alloc parts rest { x with st := s, rs := x.rs ++ [.inr (memEv va e r c)] }
    | (.ok bs, s) => u.reads sc alloc parts rest { x with st := s, rs := x.rs ++ [.inl (eltOfParts u.dt r c bs)] }

def leftOf {α β : Type} (x : α ⊕ β) : Option α := match x with
  | .inl a => some a
  | .inr _ => none
def rightOf {α β : Type} (x : α ⊕ β) : Option β := match x with
  | .inl _ => none
  | .inr b => some b

/-- TLD: one element group of the image (R171). -/
def tldUnit (u : Ux) (nc : Bool) : Option UnitOut :=
  let cs := groupCells u.dt u.f.idx
  let go := cs.filter (fun e => !u.masked e.1 e.2)
  (u.reads u.x.scope.toNat (!nc) (u.f.parts u.dt) go { st := u.s }).map (fun x =>
    { st := x.st, evs := cs.flatMap (fun e => u.maskPoison e.1 e.2) ++ x.rs.filterMap rightOf, wrs := x.rs.filterMap leftOf
      asks := x.asks, copies := cs.filter (fun e => u.masked e.1 e.2), next := nextGroup u.dt u.f.idx })

/-- Adding an access of the datapath for an instruction: a write or a reduction of a unit as it commits, or a read it asks for. -/
def State.addT (s : State) (blk seq : Nat) (p : Pend) : State :=
  let (id, s) := s.fresh
  s.modBlk blk (fun b => { b with pend := b.pend ++ [{ p with id, agent := .t, keys := p.pas, seq }] })

/-- Translating the writes of a unit, in order: each with its address and bytes or operation; the first fault ends it. -/
def Ux.targets (u : Ux) (need : Need) (s : State) (ws : List (Nat × Nat × Nat × Nat × AccKind)) :
    List UEv × List Pend × State :=
  ws.foldl (fun (acc : List UEv × List Pend × State) (w : Nat × Nat × Nat × Nat × AccKind) =>
    let (r, c, va, n, k) := w
    match acc.2.2.translate u.b.master need va with
    | (.error e, s) => (acc.1 ++ [memEv va e r c], acc.2.1, s)
    | (.ok x, s) =>
      let s := s.watch u.blk va n true
      (acc.1, acc.2.1 ++ [{ id := 0, agent := .t, kind := k, addr := va, elem := r * 256 + c, pas := x.keys, cacheable := x.c, scope := u.x.scope.toNat
                            pc := u.f.pc }], s))
    ([], [], s)

/-- A unit that stores elements: its sources' traps, and the translations'; its writes follow at the commit. -/
def Ux.stores (u : Ux) (need : Need) (cells : List (Nat × Nat)) (evs : List UEv) (ws : List (Nat × Nat × Nat × Nat × AccKind)) : UnitOut :=
  let (ev, ps, s) := u.targets need u.s ws
  { st := s, evs := evs ++ ev, next := nextGroup u.dt u.f.idx, raw := true, done := some cells
    post := fun s => ps.foldl (fun s p => s.addT u.blk u.f.id p) s }

/-- TST: one element group written to the image (R172); of bit planes the bytes that hold it, with the scale at its run's start. -/
def tstUnit (u : Ux) : UnitOut :=
  let l := u.loc u.f.d
  let t := l.t
  let cs := groupCells t u.f.idx
  let evs := cs.flatMap (fun e => u.poison l e.1 e.2 e.1 e.2)
  let wr := fun (r c va : Nat) (bs : List Byte) => (r, c, va, bs.length, AccKind.wr bs)
  if t.isPlanes then
    let bytes := (cs.filter (fun e => e.2 % 8 = 0 || e.2 = u.f.idx.col)).flatMap (fun e => (List.range t.planes).map (fun p =>
      wr e.1 e.2 (u.f.image e.1 (p * t.planeBytes + e.2 / 8)) [u.b.shared.get (t.planeAddr l.inst e.1 p + e.2 / 8)]))
    let scales := if t.pscale then (cs.filter (fun e => e.2 % 64 = 0)).flatMap (fun e =>
        let a := t.planes * t.planeBytes + 2 * (e.2 / 64)
        let v := u.b.scaleBits t l.inst e.1 e.2
        [wr e.1 e.2 (u.f.image e.1 a) [BitVec.ofNat 8 v], wr e.1 e.2 (u.f.image e.1 (a + 1)) [BitVec.ofNat 8 (v / 256)]]) else []
    u.stores { w := true } cs evs (bytes ++ scales)
  else
    u.stores { w := true } cs evs (cs.flatMap (fun e =>
      (u.f.parts t e.1 e.2).map (fun p => wr e.1 e.2 p.1 (leBytes t.esz (u.rd l e.1 e.2)))))

/-- TSTR: one element group of reductions (R173). -/
def tstrUnit (u : Ux) (op : Nat) : UnitOut :=
  let l := u.loc u.f.d
  let t := l.t
  let cs := groupCells t u.f.idx
  let evs := cs.flatMap (fun e => u.poison l e.1 e.2 e.1 e.2 ++ vuse t.etype (u.rd l e.1 e.2) e.1 e.2)
  let mem := cs.flatMap (fun e => (u.f.parts t e.1 e.2).filterMap (fun p =>
    match (u.s.unslotted.translate u.b.master { r := true, w := true, atomic := true, noSa := true } p.1).1 with
    | .error _ => none
    | .ok x => (u.s.homePoison x.rkey t.esz).map (fun d => memEv p.1 ⟨cPOISON, d⟩ e.1 e.2)))
  u.stores { r := true, w := true, atomic := true, noSa := true } cs (evs ++ mem) (cs.flatMap (fun e =>
    (u.f.parts t e.1 e.2).map (fun p => (e.1, e.2, p.1, t.esz, AccKind.rmw (.red op t.etype) t.esz (BitVec.ofNat 64 (u.rd l e.1 e.2)) 0 0 false))))

/-! Gather and scatter (R176, R177). -/

/-- The element address of a gather or scatter. -/
def Ux.gaddr (u : Ux) (r c : Nat) : Nat :=
  u.f.gatherAt u.b (u.loc u.f.a) r c

/-- The elements of the fault mask from the index on. -/
def Ux.masks (u : Ux) : List (Nat × Nat) :=
  ((u.f.fm.getD []).map (fun n => (n / u.dt.cols, n % u.dt.cols))).filter (fun e =>
    !cellLt e.1 e.2 u.f.idx.row (u.f.idx.col / 16 * 16))

/-- The elements of the next unit of a gather or scatter: those of its group; under a fault mask the next of the mask (R160). -/
def Ux.reach (u : Ux) : List (Nat × Nat) := if u.f.fm.isSome then u.masks.take 1 else groupCells u.dt u.f.idx

/-- Those of them that it moves: the ones its mask tile does not leave unwritten. -/
def Ux.moves (u : Ux) : List (Nat × Nat) := u.reach.filter (fun e => !u.masked e.1 e.2)

/-- The index after a unit of a gather or scatter. -/
def Ux.nextMove (u : Ux) : Option Idx :=
  if u.f.fm.isSome then (u.masks.drop 1).head?.map (fun e => { row := e.1, col := e.2 / 16 * 16 }) else nextGroup u.dt u.f.idx

/-- The element of a unit leaves the fault mask. -/
def Ux.unmask (u : Ux) (s : State) : State :=
  if u.f.fm.isNone then s
  else s.modBlk u.blk (fun b => { b with flights := b.flights.map (fun (g : Flight) =>
    if g.id = u.f.id then { g with fm := g.fm.map (fun l => l.filter (fun n => !(u.reach.any (fun e => e.1 * u.dt.cols + e.2 == n)))) } else g) })

def lin (t : Tsr) (e : UEv) : Nat × UEv := (e.r * t.cols + e.c, e)

/-- TLDG: one element group, or one element of the fault mask. -/
def tldgUnit (u : Ux) : Option UnitOut :=
  let i := u.loc u.f.a
  let go := u.moves
  (u.reads u.x.scope.toNat true (fun r c => [(u.gaddr r c, u.dt.esz)]) go { st := u.s }).map (fun x =>
    { st := x.st, evs := u.reach.flatMap (fun e => u.maskPoison e.1 e.2) ++ go.flatMap (fun e => u.poison i e.1 e.2 e.1 e.2)
      asks := x.asks, wrs := x.rs.filterMap leftOf, bad := (x.rs.filterMap rightOf).map (lin u.dt)
      copies := if u.f.fm.isSome then [] else u.reach.filter (fun e => u.masked e.1 e.2)
      next := u.nextMove, post := u.unmask })

/-- TSTG: one element group, or one element of the fault mask. -/
def tstgUnit (u : Ux) : UnitOut :=
  let l := u.loc u.f.d
  let i := u.loc u.f.a
  let cs := u.moves
  let evs := u.reach.flatMap (fun e => u.maskPoison e.1 e.2)
    ++ cs.flatMap (fun e => u.poison i e.1 e.2 e.1 e.2 ++ u.poison l e.1 e.2 e.1 e.2)
  let o := u.stores { w := true } cs evs (cs.map (fun e =>
    (e.1, e.2, u.gaddr e.1 e.2, u.dt.esz, AccKind.wr (leBytes u.dt.esz (u.rd l e.1 e.2)))))
  { o with evs, bad := (o.evs.drop evs.length).map (lin u.dt), next := u.nextMove, post := fun s => u.unmask (o.post s) }

end Sys2Proof.Machine
end

