-- ==== Sys2Proof/Machine/TileMove.lean ====
section
/-! DEFINITION. Units of the moves within a core, of conversion and of the Hadamard stage (05 R178 to R184; 06 R217; 02 R60, R72, R73). -/

namespace Sys2Proof.Machine

/-- An element moved as bits, with its scale. -/
def Ux.moved (u : Ux) (l : Loc) (r c r' c' : Nat) : UWr × Nat × List UEv :=
  ({ r, c, v := u.rd l r' c', scale := u.sc l r' c' }, 0, u.poison l r' c' r c)

/-- TCOPY, TSEND, TRECV: one element group moved as bits (R178, R179). -/
def copyUnit (u : Ux) : UnitOut := let l := u.loc u.f.a; u.group (fun r c => u.moved l r c r c)

/-- TFILL (R178). -/
def tfillUnit (u : Ux) : UnitOut :=
  u.group (fun r c => ({ r, c, v := (u.f.sc.getD 0 0).toNat % 2 ^ u.dt.ty.width }, 0, []))

/-- TIOTA (R178). -/
def tiotaUnit (u : Ux) : UnitOut :=
  u.group (fun r c =>
    let x := sx 64 (u.f.sc.getD 0 0).toNat + ((r * u.dt.cols + c : Nat) : Int) * sx 64 (u.f.sc.getD 1 0).toNat
    let (v, fl) := match u.dt.ty with
      | .int _ w => (wrapBits w x, 0)
      | .fp f => roundVal f u.md false (finOf false x 0)
    ({ r, c, v }, fl, []))

/-- TTRANS: a group of D from a column of A (R178). -/
def ttransUnit (u : Ux) : UnitOut := let l := u.loc u.f.a; u.group (fun r c => u.moved l r c c r)

/-- TBCAST: along rows from A's row, or along columns from A's column (R178). -/
def tbcastUnit (u : Ux) (cols : Bool) : UnitOut :=
  let l := u.loc u.f.a
  u.group (fun r c => if cols then u.moved l r c r 0 else u.moved l r c 0 c)

/-- TLDL: one row copied to its lane, or the one row to every lane (R180). -/
def tldlUnit (u : Ux) : UnitOut :=
  let l := u.loc u.f.a
  let r := u.f.idx.row
  let bs := (rowCells l.t r).flatMap (fun e => leBytes l.t.esz (u.rd l e.1 e.2))
  let lanes := if l.t.rows = 1 then List.range 128 else [r]
  { st := u.s, raw := true, next := nextRow l.t u.f.idx, done := some (rowCells l.t r)
    evs := (rowCells l.t r).flatMap (fun e => u.poison l e.1 e.2 e.1 e.2)
    post := fun s => s.modBlk u.blk (fun b => lanes.foldl (fun (b : Block) n => b.storeWrite 2 (n * 1024 + (u.f.sc.getD 0 0).toNat) bs) b) }

/-- TSTL: one row written from its lane (R180). -/
def tstlUnit (u : Ux) : UnitOut :=
  let r := u.f.idx.row
  let n := u.dt.esz
  u.each (rowCells u.dt r) (nextRow u.dt u.f.idx) (fun r c =>
    let a := (u.f.sc.getD 0 0).toNat + c * n
    let k := r * 1024 + a
    ({ r, c, v := u.b.lane.num k n }, 0,
      if badWords u.b.poisonLane k n then [{ cls := 3, cause := cPOISON, detail := 6, r, c, taddr := taddrWord 3 a }] else []))

/-- AZERO: one element group of zeros, with no write-back effect (R217). -/
def azeroUnit (u : Ux) : UnitOut := { u.group (fun r c => ({ r, c, v := 0 }, 0, [])) with raw := true }

/-! Conversion (R181, R182). -/

/-- The conversion of an element to D's type when D carries no scale: bits, flags, verdict traps. A scaled element whose plane value is 0 and whose
scale is infinite raises no NV of the product in a floating-point type: R57 and R60 leave it open (log 19). -/
def cvtElt (md : RMode) (sat v sign : Bool) (st dt : Tsr) (bits scale r c : Nat) : Nat × Nat × List UEv :=
  if isAbn st.etype bits then
    if v then (vsubst sign dt.ty, 0, [])
    else match abnOf dt.etype with
      | some a => (a, 0, [])
      | none => (0, 0, [{ cls := 4, cause := cVCONV, r, c }])
  else if st.pscale then
    let (x, fl) := convFp dt.ty md sat false (st.value bits scale)
    (x, fl ||| (if (fp16.value scale).isSig then fNV else 0), [])
  else
    let (x, fl) := convert st.ty dt.ty md sat bits
    (x, fl, [])

/-- The exponent of a run's scale: the least e with the largest finite magnitude ≤ qmax × 2^e, within −24 to 15 (R182). -/
def runExp (qmax : Nat) (vals : List FVal) : Int :=
  let m := vals.foldl (fun (m : FVal) v => match v with
    | .fin _ k e => if ordVal m (.fin false k e) == .lt then .fin false k e else m
    | _ => m) (.fin false 0 0)
  match m with
  | .fin _ 0 _ => 0
  | m => ((List.range 40).map (fun (i : Nat) => (i : Int) - 24)).find? (fun e => ordVal m (.fin false qmax e) != .gt) |>.getD 15

/-- An element quantised to a run's exponent (R182). At e = 15 one whose magnitude exceeds qmax × 2^15 raises NV
and NX as the prose says, its rounded value in range or not (log 84). -/
def quantElt (md : RMode) (sg : Bool) (n : Nat) (e : Int) (v : FVal) : Nat × Nat :=
  match v with
  | .fin neg m x =>
    let q := fpToInt md sg n (.fin neg m (x - e))
    if e = 15 && ordVal (.fin false m x) (.fin false (intMax sg n).toNat e) == .gt && q.2 != 0 then (q.1, fNV ||| fNX) else q
  | v => fpToInt md sg n v

/-- The values of the run that holds a column of a row, and the columns of the run. -/
def runCols (t : Tsr) (c : Nat) : List Nat := rangeFrom (c / 64 * 64) (min t.cols (c / 64 * 64 + 64) - c / 64 * 64)

/-- Converting one element to D, given how the source's elements are read in its row: bits, scale, flags, verdict traps. -/
def cvtTo (md : RMode) (sat v sign : Bool) (st dt : Tsr) (rd : Nat → Nat × Nat) (r c : Nat) : UWr × Nat × List UEv :=
  let (bits, scale) := rd c
  if dt.pscale then
    let val := fun k => if isAbn st.etype (rd k).1 then FVal.nan true else st.value (rd k).1 (rd k).2
    let (sg, n) := match dt.ty with
      | .int sg w => (sg, w)
      | .fp f => (true, f.width)
    let e := runExp (intMax sg n).toNat ((runCols dt c).map val)
    let sc := (roundVal fp16 .rne false (.fin false 1 e)).1
    if isAbn st.etype bits then
      ({ r, c, v := vsubst sign dt.ty, scale := sc }, 0, if v then [] else [{ cls := 4, cause := cVCONV, r, c }])
    else
      let (q, fl) := quantElt md sg n e (val c)
      ({ r, c, v := q, scale := sc }, fl, [])
  else
    let (x, fl, ev) := cvtElt md sat v sign st dt bits scale r c
    ({ r, c, v := x }, fl, ev)

/-- TCVT without a chain before it: one element group (R181). -/
def tcvtUnit (u : Ux) : UnitOut :=
  let l := u.loc u.f.a
  let st := retype u.ty l.t
  u.group (fun r c =>
    let w := cvtTo u.md u.x.sat u.x.v (l.t.vclass = 1) st u.dt (fun k => (u.rd l r k, u.sc l r k)) r c
    (w.1, w.2.1, (if u.dt.pscale then (runCols u.dt c).flatMap (fun k => u.poison l r k r c) else u.poison l r c r c) ++ w.2.2))

/-! The Hadamard stage (R183, R184). -/

/-- One sum or difference delivered in a type. -/
def bflyElt (md : RMode) (ty : Ty) (sub : Bool) (x y : Nat) : Nat × Nat :=
  match ty with
  | .int sg w => (wrapBits w (if sub then intVal sg w x - intVal sg w y else intVal sg w x + intVal sg w y), 0)
  | .fp f =>
    let (v, fl) := addVal md (f.value x) (if sub then (f.value y).negate else f.value y)
    let (b, g) := roundVal f md false v
    (b, fl ||| g)

/-- One stage over a row: bits and flags of each element. -/
def bflyRow (md : RMode) (ty : Ty) (h : Nat) (row : List Nat) : List (Nat × Nat) :=
  (List.range row.length).map (fun c =>
    if c / h % 2 = 0 then bflyElt md ty false (row.getD c 0) (row.getD (c + h) 0)
    else bflyElt md ty true (row.getD (c - h) 0) (row.getD c 0))

/-- The mode of a member of a chain: its override, else %mode.RM as at issue. -/
def Ux.memberMode (u : Ux) (i : Instr) : RMode :=
  let r := (instrForm i).mods.rnd.toNat
  RMode.ofCode (if 4 ≤ r then r else u.f.rm)

/-- TBFLY and the members chained to it: one row (R183, R184). A member that reads an ABN pattern, handed on by the member before it too, takes
VERDICT_USE (R72). -/
def tbflyUnit (u : Ux) : UnitOut :=
  let l := u.loc u.f.a
  let r := u.f.idx.row
  let st := retype u.ty l.t
  let cells := rowCells l.t r
  let row := cells.map (fun e => u.rd l e.1 e.2)
  let stage := fun (i : Instr) (t : Tsr) (row : List Nat) => match i with
    | .tbfly f _ h _ _ => bflyRow (u.memberMode i) (retype (tyMod f) t).ty (2 ^ h.toNat) row
    | _ => row.map (fun x => (x, 0))
  let evs := cells.flatMap (fun e => u.poison l e.1 e.2 e.1 e.2 ++ vuse st.etype (u.rd l e.1 e.2) e.1 e.2)
  let flagsOf := fun (xs : List (Nat × Nat)) => ((List.range xs.length).zip xs).filterMap (fun e => if e.2.2 = 0 then none else some (r, e.1, e.2.2))
  let first := stage u.f.instr st row
  let go := u.f.chain.foldl (fun (acc : List Nat × List (Nat × Nat × Nat) × Option (Instr × Tsr)) (m : Instr × Tsr) =>
      match m.1 with
      | .tcvt _ _ _ => (acc.1, acc.2.1, some m)
      | i => let xs := stage i m.2 acc.1; (xs.map (fun x => x.1), acc.2.1 ++ flagsOf xs, acc.2.2))
    (first.map (fun x => x.1), flagsOf first, none)
  let uses := (u.f.chain.foldl (fun (acc : List Nat × List UEv) (m : Instr × Tsr) =>
      match m.1 with
      | .tbfly f _ _ _ _ => ((stage m.1 m.2 acc.1).map (fun x => x.1), acc.2 ++ ((List.range acc.1.length).zip acc.1).flatMap (fun e =>
          vuse (retype (tyMod f) m.2).etype e.2 r e.1))
      | _ => acc)
    (first.map (fun x => x.1), [])).2
  let evs := evs ++ uses
  match go.2.2 with
  | some (.tcvt f _ _, a) =>
    let src := retype (tyMod f) a
    let o := u.each (rowCells u.dt r) (nextRow u.dt u.f.idx) (fun r c =>
      cvtTo (u.memberMode (.tcvt f 0 0)) f.mods.sat f.mods.v (a.vclass = 1) src u.dt (fun k => (go.1.getD k 0, 0x3C00)) r c)
    { o with evs := evs ++ o.evs, fls := go.2.1 ++ o.fls }
  | _ =>
    { st := u.s, evs, fls := go.2.1, next := nextRow u.dt u.f.idx
      wrs := ((List.range go.1.length).zip go.1).map (fun e => { r, c := e.1, v := e.2 }) }

end Sys2Proof.Machine
end

