-- ==== Sys2Proof/Machine/TileElt.lean ====
section
/-! DEFINITION. The element-wise family (05 R187 to R193): what each instruction computes for one element. -/

namespace Sys2Proof.Machine

/-- Rounding an exact value to a format, with the flags of the operation. Under .sat a result that is exactly infinite stays infinite: R61 and R187
leave open whether it becomes the largest finite value as R60's conversions have it (log 94). -/
def deliverFp (f : Fmt) (md : RMode) (sat : Bool) (x : FVal × Nat) : Nat × Nat :=
  let (b, g) := roundVal f md sat x.1
  (b, g ||| x.2)

/-- deliver() of an integer (R187). -/
def deliverInt (sg : Bool) (w : Nat) (sat : Bool) (x : Int) : Nat × Nat := (if sat then satBits sg w x else wrapBits w x, 0)

/-- Integer division (R111, R188). -/
def divInt (sg : Bool) (w : Nat) (a b : Int) : Nat :=
  if b = 0 then 2 ^ w - 1 else if sg then wrapBits w (a.tdiv b) else wrapBits w (a / b)

/-- Minimum or maximum by R54, on bits. -/
def minMaxBits (f : Fmt) (max : Bool) (a b : Nat) : Nat × Nat := deliverFp f .rne false (minMaxVal max (f.value a) (f.value b))

/-- TMIN.v and TMAX.v (R193): ABN orders as −∞, or as +0 for SIGN; the selected operand's bits are kept. -/
def minMaxV (f : Fmt) (code : Nat) (max sign : Bool) (a b : Nat) : Nat × Nat :=
  let val := fun x => if isAbn code x then (if sign then FVal.fin false 0 0 else FVal.inf true) else f.value x
  let va := val a
  let vb := val b
  if va.isSig || vb.isSig then (f.qnan, fNV)
  else if va.isNan then (if vb.isNan then f.qnan else b, 0)
  else if vb.isNan then (a, 0)
  else match ordZero va vb with
    | .lt => (if max then b else a, 0)
    | .eq => (a, 0)
    | .gt => (if max then a else b, 0)

/-- A comparison of numbers (R189): F's code; unordered operands and signalling ones give flags. -/
def cmpVal (cc : Nat) (a b : FVal) : Bool × Nat :=
  if a.isNan || b.isNan then
    (cc = 1 || cc = 6, if a.isSig || b.isSig || !(cc = 0 || cc = 1 || cc = 6) then fNV else 0)
  else
    let o := ordVal a b
    (if cc = 0 then o == .eq else if cc = 1 then o != .eq else if cc = 2 then o == .lt else if cc = 3 then o != .gt
      else if cc = 4 then o == .gt else if cc = 5 then o != .lt else false, 0)

/-- a × 2^b (R191). -/
def scaleVal (a : FVal) (b : Int) : FVal × Nat :=
  match a with
  | .nan s => nanWith s
  | .inf n => (.inf n, 0)
  | .fin n m e => (.fin n m (e + b), 0)

/-- One or two operands of an integer or floating-point operation. -/
def arith2 (ty : Ty) (md : RMode) (sat : Bool) (gi : Int → Int → Int) (gf : FVal → FVal → FVal × Nat) (a b : Nat) : Nat × Nat :=
  match ty with
  | .int sg w => deliverInt sg w sat (gi (intVal sg w a) (intVal sg w b))
  | .fp f => deliverFp f md sat (gf (f.value a) (f.value b))

def unary (ty : Ty) (md : RMode) (g : UnFn) (a : Nat) : Nat × Nat :=
  match ty with
  | .fp f => deliverFp f md false (unVal g (f.value a))
  | .int _ _ => (a, 0)

/-- The operand types of an element: A's (and B's) type, B's own type where it differs, D's. -/
structure EltTys where
  a : Ty
  b : Ty
  d : Ty
  code : Nat
  deriving DecidableEq, Repr

/-- What an element-wise instruction computes (R187): bits and flags. sign says that the class of a .v form is SIGN. -/
def eltVal (i : Instr) (md : RMode) (x : Mods) (t : EltTys) (sign : Bool) (a b c : Nat) : Nat × Nat :=
  let w := t.a.width
  let bin := fun (g : Nat → Nat → Nat) => (g a b % 2 ^ w, 0)
  match i with
  | .tadd _ _ _ _ => arith2 t.a md x.sat (· + ·) (addVal md) a b
  | .tsub _ _ _ _ => arith2 t.a md x.sat (· - ·) (fun p q => addVal md p q.negate) a b
  | .tmul _ _ _ _ => arith2 t.a md x.sat (· * ·) mulVal a b
  | .tdiv _ _ _ _ => match t.a with
    | .int sg w => (divInt sg w (intVal sg w a) (intVal sg w b), 0)
    | .fp f => deliverFp f md false (divVal (f.value a) (f.value b))
  | .tmin _ _ _ _ => match t.a with
    | .int sg w => (if intVal sg w a ≤ intVal sg w b then a else b, 0)
    | .fp f => if x.v then minMaxV f t.code false sign a b else minMaxBits f false a b
  | .tmax _ _ _ _ => match t.a with
    | .int sg w => (if intVal sg w a ≤ intVal sg w b then b else a, 0)
    | .fp f => if x.v then minMaxV f t.code true sign a b else minMaxBits f true a b
  | .tscale _ _ _ _ => match t.a, t.b with
    | .fp f, .int sg w => deliverFp f md x.sat (scaleVal (f.value a) (intVal sg w b))
    | _, _ => (a, 0)
  | .tfma _ _ _ _ => match t.a with
    | .int sg w => deliverInt sg w x.sat (intVal sg w a * intVal sg w b + intVal sg w c)
    | .fp f => deliverFp f md x.sat (fmaVal md (f.value a) (f.value b) (f.value c))
  | .tclamp _ _ _ _ => match t.a with
    | .int sg w => (wrapBits w (min (max (intVal sg w a) (intVal sg w b)) (intVal sg w c)), 0)
    | .fp f =>
      let (m, g) := minMaxVal true (f.value a) (f.value b)
      let (n, h) := minMaxVal false m (f.value c)
      deliverFp f .rne false (n, g ||| h)
  | .tsel _ _ _ _ => (if c != 0 then a else b, 0)
  | .tsqrt _ _ _ => unary t.a md .sqrt a
  | .trsq _ _ _ => unary t.a md .rsq a
  | .trcp _ _ _ => unary t.a md .rcp a
  | .texp2 _ _ _ => unary t.a md .exp2 a
  | .tlog2 _ _ _ => unary t.a md .log2 a
  | .tabs _ _ _ => match t.a with
    | .int sg w => (wrapBits w (intVal sg w a).natAbs, 0)
    | .fp f => (a % 2 ^ (f.eb + f.fb), 0)
  | .tneg _ _ _ => match t.a with
    | .int sg w => (wrapBits w (-(intVal sg w a)), 0)
    | .fp f => (a ^^^ 2 ^ (f.eb + f.fb), 0)
  | .tcmp _ cc _ _ _ =>
    let r := cmpVal cc.toNat (t.a.value a) (t.a.value b)
    (b2n r.1, r.2)
  | .tand _ _ _ _ => bin (fun p q => p &&& q)
  | .tor _ _ _ _ => bin (fun p q => p ||| q)
  | .txor _ _ _ _ => bin (fun p q => p ^^^ q)
  | .tnot _ _ _ => ((2 ^ w - 1) ^^^ a, 0)
  | .tshl _ _ _ _ => (a * 2 ^ (b % w) % 2 ^ w, 0)
  | .tshr _ _ _ _ => (a / 2 ^ (b % w), 0)
  | .tsra _ _ _ _ => (wrapBits w (sx w a / (2 ^ (b % w) : Nat)), 0)
  | .tclz _ _ _ => (clzBits w a, 0)
  | .tctz _ _ _ => (ctzBits w a, 0)
  | .tpopc _ _ _ => (popBits w a, 0)
  | _ => (a, 0)

/-- Whether a .v form orders or selects ABN operands (R193). -/
def keepsAbn (i : Instr) (x : Mods) : Bool :=
  match i with
  | .tmin _ _ _ _ | .tmax _ _ _ _ | .tsel _ _ _ _ => x.v
  | _ => false

/-- Whether an operand is read as a number of the instruction's type; a shift count, a scale exponent and a selector are not. -/
def bTyped : Instr → Bool
  | .tscale _ _ _ _ | .tshl _ _ _ _ | .tshr _ _ _ _ | .tsra _ _ _ _ => false
  | _ => true
def cTyped : Instr → Bool
  | .tsel _ _ _ _ => false
  | _ => true

/-- An element-wise instruction: one element group (R187). -/
def eltUnit (u : Ux) : UnitOut :=
  let la := u.loc u.f.a
  let lb := u.loc u.f.b
  let lc := u.loc u.f.c
  let ta := retype u.ty la.t
  let tb := if bTyped u.f.instr then retype u.ty lb.t else lb.t
  let tys : EltTys := ⟨ta.ty, tb.ty, u.dt.ty, ta.etype⟩
  let cls := if la.t.vclass = 0 then lb.t.vclass else la.t.vclass
  let hasB := u.f.b.isSome
  let hasC := u.f.c.isSome
  u.group (fun r c =>
    let a := u.rd la r c
    let b := if hasB then u.rd lb r c else 0
    let cc := if hasC then u.rd lc r c else 0
    let (v, fl) := eltVal u.f.instr u.md u.x tys (cls = 1) a b cc
    let use := if keepsAbn u.f.instr u.x then [] else
      vuse ta.etype a r c ++ (if hasB && bTyped u.f.instr then vuse ta.etype b r c else [])
        ++ (if hasC && cTyped u.f.instr then vuse ta.etype cc r c else [])
    ({ r, c, v }, fl,
      u.poison la r c r c ++ (if hasB then u.poison lb r c r c else []) ++ (if hasC then u.poison lc r c r c else []) ++ use))

end Sys2Proof.Machine
end

