-- ==== Sys2Proof/Machine/TileRed.lean ====
section
/-! DEFINITION. Units of the sparsity instructions, reductions, scans, checks and top-k selection (05 R185, R186, R194 to R198; 06 R216). -/

namespace Sys2Proof.Machine

/-- VERDICT_USE and poison of every element of A. -/
def Ux.allUse (u : Ux) (l : Loc) (code : Nat) (cells : List (Nat × Nat)) : List UEv :=
  cells.flatMap (fun e => u.poison l e.1 e.2 e.1 e.2 ++ vuse code (u.rd l e.1 e.2) e.1 e.2)

/-- Integer 0 or floating-point ±0. -/
def zeroBits (ty : Ty) (bits : Nat) : Bool :=
  match ty with
  | .int _ _ => bits == 0
  | .fp f => (f.value bits).isZero

/-- TCMPR (R185): the whole instruction. -/
def tcmprUnit (u : Ux) : UnitOut :=
  let l := u.loc u.f.a
  let t := l.t
  let row := fun r => (List.range t.cols).filterMap (fun c => let x := u.rd l r c; if zeroBits t.ty x then none else some (c, x))
  let rows := (List.range t.rows).map row
  let kmax := rows.foldl (fun m x => max m x.length) 1
  let vals := fun (lo hi : Nat) => ((List.range t.rows).zip rows).flatMap (fun e => (rangeFrom lo (hi - lo)).flatMap (fun j =>
    let x := e.2.getD j (0xFFFF, 0)
    [({ r := e.1, c := j, v := x.2 } : UWr), { second := true, r := e.1, c := j, v := x.1 }]))
  let b := u.loc u.f.b
  { st := u.s, evs := u.allUse l t.etype (allCells t), wrs := vals 0 kmax, plain := vals kmax t.cols
    copies := (allCells u.dt).filter (fun e => t.cols ≤ e.2), copies2 := (allCells b.t).filter (fun e => t.cols ≤ e.2)
    post := fun s => s.modBlk u.blk (fun blk => [u.f.d, u.f.b].foldl (fun (blk : Block) o => match o with
      | some o => blk.setTsr o.name ((blk.tsrOf o.name).setCols kmax)
      | none => blk) blk) }

/-- TEXPD (R186): one row. Poison in a value counts where its index reaches an element that is written, and in an index where the row has one: a
masked element does not fault (R158). -/
def texpdUnit (u : Ux) : UnitOut :=
  let l := u.loc u.f.a
  let ix := u.loc u.f.b
  let r := u.f.idx.row
  let row := (List.range l.t.cols).map (fun j => (u.rd ix r j, u.rd l r j))
  let live := fun (c : Nat) => decide (c < u.dt.cols) && !u.masked r c
  let any := (List.range u.dt.cols).any live
  let evs := (rowCells l.t r).flatMap (fun e =>
    (if live (u.rd ix r e.2) then u.poison l e.1 e.2 e.1 e.2 else []) ++ (if any then u.poison ix e.1 e.2 e.1 e.2 else []))
  let o := u.each (rowCells u.dt r) (nextRow u.dt u.f.idx) (fun r c =>
    ({ r, c, v := ((row.reverse.find? (fun e => e.1 == c && c != 0xFFFF)).map (fun e => e.2)).getD 0 }, 0, []))
  { o with evs := evs ++ o.evs }

/-! Reductions (R194, R195). -/

/-- A running value in a type, with the flags of the steps so far, each at the element that names it. -/
structure Run where
  v : Nat
  fls : List (Nat × Nat × Nat)
  deriving DecidableEq, Repr

def Run.step (x : Run) (r c : Nat) (y : Nat × Nat) : Run := ⟨y.1, if y.2 = 0 then x.fls else x.fls ++ [(r, c, y.2)]⟩

/-- acc + x delivered in the result type (R195). -/
def addStep (md : RMode) (t s : Ty) (acc x : Nat) : Nat × Nat :=
  match t, s with
  | .fp f, .fp g => deliverFp f md false (addVal md (f.value acc) (g.value x))
  | .int _ w, .int sg w' => (wrapBits w (intVal true w acc + intVal sg w' x), 0)
  | _, _ => (acc, 0)

/-- The exact sum of elements delivered in the result type. -/
def sumStep (md : RMode) (t s : Ty) (xs : List Nat) : Nat × Nat :=
  match t, s with
  | .fp f, .fp g => deliverFp f md false (exactSum md (xs.map (fun x => (g.value x, 0))))
  | .int _ w, .int sg w' => (wrapBits w (xs.foldl (fun a x => a + intVal sg w' x) 0), 0)
  | _, _ => (0, 0)

/-- One value delivered in the result type. -/
def oneStep (md : RMode) (t s : Ty) (x : Nat) : Nat × Nat :=
  match t, s with
  | .fp f, .fp g => roundVal f md false (g.value x)
  | .int _ w, .int sg w' => (wrapBits w (intVal sg w' x), 0)
  | _, _ => (x, 0)

/-- row_sum (R195). -/
def rowSum (md : RMode) (t s : Ty) (rd : Nat → Nat → Nat) (cols r : Nat) (x : Run) : Run :=
  let group := fun g => (rangeFrom (g * 16) (min cols (g * 16 + 16) - g * 16)).map (rd r)
  let x := x.step r 0 (sumStep md t s (group 0))
  (rangeFrom 1 (ceilDiv cols 16 - 1)).foldl (fun (x : Run) g =>
    let y := sumStep md t s (group g)
    let z : Run := x.step r (g * 16) (x.v, y.2)
    z.step r (g * 16) (addStep md t t x.v y.1)) x

/-- One step of a reduction or scan that is no sum: max, min, and, or (R194). -/
def pickStep (op : Nat) (t : Ty) (acc x : Nat) : Nat × Nat :=
  match t with
  | .int sg w =>
    if op = 1 then (if intVal sg w acc ≤ intVal sg w x then x else acc, 0)
    else if op = 2 then (if intVal sg w acc ≤ intVal sg w x then acc else x, 0)
    else if op = 3 then (acc &&& x, 0) else (acc ||| x, 0)
  | .fp f => minMaxBits f (op = 1) acc x

/-- One element delivered as it stands (R54): a NaN as the canonical quiet one. -/
def pickOne (t : Ty) (x : Nat) : Nat × Nat :=
  match t with
  | .fp f => if (f.value x).isNan then (f.qnan, if (f.value x).isSig then fNV else 0) else (x, 0)
  | .int _ _ => (x, 0)

/-- A list of elements reduced in order by max, min, and, or: the first is an operand of the first step, signalling as it may be (R54). R195 gives an
order for sums alone, and the one taken here, the elements' own, decides what a signalling NaN among three or more leaves (log 94). -/
def pickAll (op : Nat) (t : Ty) (rd : Nat → Nat → Nat) (cells : List (Nat × Nat)) (x : Run) : Run :=
  match cells with
  | [] => x
  | e :: rest =>
    let one := pickOne t (rd e.1 e.2)
    let x := x.step e.1 e.2 (if rest.isEmpty then one.1 else rd e.1 e.2, one.2)
    rest.foldl (fun (x : Run) e => x.step e.1 e.2 (pickStep op t x.v (rd e.1 e.2))) x

/-- One element of a reduction's result: dir 0 a row, 1 a column, 2 all. -/
def reduceAt (md : RMode) (op dir : Nat) (t s : Ty) (rd : Nat → Nat → Nat) (rows cols n : Nat) (fls : List (Nat × Nat × Nat)) : Run :=
  if op = 0 then
    if dir = 0 then rowSum md t s rd cols n ⟨0, fls⟩
    else if dir = 1 then
      (rangeFrom 1 (rows - 1)).foldl (fun (x : Run) r => x.step r n (addStep md t s x.v (rd r n)))
        ((⟨0, fls⟩ : Run).step 0 n (oneStep md t s (rd 0 n)))
    else
      (rangeFrom 1 (rows - 1)).foldl (fun (x : Run) r =>
        let y := rowSum md t s rd cols r ⟨0, x.fls⟩
        (⟨x.v, y.fls⟩ : Run).step r 0 (addStep md t t x.v y.v)) (rowSum md t s rd cols 0 ⟨0, fls⟩)
  else
    let cells := if dir = 0 then (List.range cols).map (fun c => (n, c))
      else if dir = 1 then (List.range rows).map (fun r => (r, n))
      else (List.range rows).flatMap (fun r => (List.range cols).map (fun c => (r, c)))
    pickAll op t rd cells ⟨0, fls⟩

/-- A scalar result of a reduction: an integer extended by its signedness, floating point as its bits (R194). -/
def redScalar (t : Ty) (v : Nat) : Dword :=
  match t with
  | .int sg w => BitVec.ofInt 64 (intVal sg w v)
  | .fp _ => BitVec.ofNat 64 v

/-- Whether TRED must wait: its result is for a push port whose queue cannot take it (R108). -/
def redWaits (s : State) (b : R6) : Bool :=
  isPort b && (match portOk s (queueOf b) with
    | .ok _ => s.me.pushBlocked (queueOf b)
    | .error _ => false)

/-- TRED (R194, R195): the whole instruction. One whose result is a scalar commits A's element groups (R159, R372). -/
def tredUnit (u : Ux) (dir op : Nat) (b : R6) : UnitOut :=
  let l := u.loc u.f.a
  let st := retype u.ty l.t
  let s := st.ty
  let t := if b = 0 then u.dt.ty else s
  let n := if dir = 0 then l.t.rows else if dir = 1 then l.t.cols else 1
  let run := (List.range n).foldl (fun (acc : List Nat × List (Nat × Nat × Nat)) i =>
    let x := reduceAt u.md op dir t s (u.rd l) l.t.rows l.t.cols i acc.2
    (acc.1 ++ [x.v], x.fls)) ([], [])
  let evs := u.allUse l st.etype (allCells l.t)
  if b = 0 then
    { st := u.s, evs, fls := run.2, anyFlag := true, steps := true
      wrs := ((List.range n).zip run.1).map (fun e => if dir = 0 then { r := e.1, c := 0, v := e.2 } else { r := 0, c := e.1, v := e.2 }) }
  else
    let v := redScalar t (run.1.getD 0 0)
    match putDst u.s b v with
    | .error (.trap x _) =>
      { st := u.s, evs := evs ++ [{ cls := 6, cause := x.cause, detail := x.detail, tport := x.tport }], fls := run.2, anyFlag := true, steps := true }
    | _ =>
      { st := u.s, evs, fls := run.2, anyFlag := true, steps := true, done := some (allCells l.t)
        post := fun s => match putDst s b v with
          | .ok s => s
          | .error _ => s }

/-- One line of a scan (R196): the elements in order, as (bits, element). -/
def scanLine (md : RMode) (op : Nat) (t s : Ty) (rd : Nat → Nat → Nat) (cells : List (Nat × Nat)) : List (Nat × Nat × Nat × Nat) :=
  match cells with
  | [] => []
  | e :: rest =>
    let first := if op = 0 then oneStep md t s (rd e.1 e.2) else pickOne t (rd e.1 e.2)
    (rest.foldl (fun (acc : List (Nat × Nat × Nat × Nat) × Nat) e =>
        let y := if op = 0 then addStep md t s acc.2 (rd e.1 e.2) else pickStep op t acc.2 (rd e.1 e.2)
        ((e.1, e.2, y.1, y.2) :: acc.1, y.1))
      ([(e.1, e.2, first.1, first.2)], first.1)).1.reverse

/-- TSCAN (R196): a row, or along columns the whole instruction. A masked element is computed and not written (R158). -/
def tscanUnit (u : Ux) (dir op : Nat) : UnitOut :=
  let l := u.loc u.f.a
  let st := retype u.ty l.t
  let lines := if dir = 0 then [rowCells l.t u.f.idx.row]
    else (List.range l.t.cols).map (fun c => (List.range l.t.rows).map (fun r => (r, c)))
  let xs := lines.flatMap (scanLine u.md op u.dt.ty st.ty (u.rd l))
  let cells := if dir = 0 then rowCells l.t u.f.idx.row else allCells l.t
  let xs := if dir = 0 then xs else sortBy (fun x y => x.1 < y.1 || (x.1 = y.1 && x.2.1 < y.2.1)) xs
  { st := u.s, evs := cells.flatMap (fun e => u.maskPoison e.1 e.2) ++ u.allUse l st.etype cells, anyFlag := true, steps := true
    fls := xs.filterMap (fun x => if x.2.2.2 = 0 then none else some (x.1, x.2.1, x.2.2.2))
    wrs := (xs.filter (fun x => !u.masked x.1 x.2.1)).map (fun x => { r := x.1, c := x.2.1, v := x.2.2.1 })
    copies := cells.filter (fun e => u.masked e.1 e.2)
    next := if dir = 0 then nextRow u.dt u.f.idx else none }

/-- The index of the largest of a list of elements, lowest first among equals (R197); none when every one is a NaN. -/
def argMax (ty : Ty) (rd : Nat → Nat → Nat) (cells : List (Nat × Nat)) : Option Nat :=
  (((List.range cells.length).zip cells).foldl (fun (best : Option (Nat × FVal)) e =>
    let v := ty.value (rd e.2.1 e.2.2)
    if v.isNan then best
    else match best with
      | none => some (e.1, v)
      | some b => if ordZero b.2 v == .lt then some (e.1, v) else best) none).map (fun x => x.1)

/-- TARGMX (R197): the whole instruction. -/
def targmxUnit (u : Ux) (dir : Nat) : UnitOut :=
  let l := u.loc u.f.a
  let st := retype u.ty l.t
  let n := if dir = 0 then l.t.rows else if dir = 1 then l.t.cols else 1
  let line := fun i => if dir = 0 then rowCells l.t i else if dir = 1 then (List.range l.t.rows).map (fun r => (r, i)) else allCells l.t
  let w := u.dt.ty.width
  { st := u.s, evs := u.allUse l st.etype (allCells l.t)
    fls := (allCells l.t).filterMap (fun e => if (st.ty.value (u.rd l e.1 e.2)).isSig then some (e.1, e.2, fNV) else none)
    wrs := (List.range n).map (fun i =>
      let v := (argMax st.ty (u.rd l) (line i)).getD (2 ^ w - 1) % 2 ^ w
      if dir = 0 then { r := i, c := 0, v } else { r := 0, c := i, v }) }

/-- TCHKF (0), TANY (1), TALL (2) (R198): the whole instruction, which commits A's element groups (R159, R372). -/
def checkUnit (u : Ux) (which : Nat) (d : R6) : UnitOut :=
  let l := u.loc u.f.a
  let st := retype u.ty l.t
  let vals := (allCells l.t).map (fun e => u.rd l e.1 e.2)
  let odd := fun x => match st.ty.value x with
    | .fin _ _ _ => false
    | _ => true
  let k := if which = 0 then vals.any odd else if which = 1 then vals.any (fun x => !zeroBits st.ty x) else vals.all (fun x => !zeroBits st.ty x)
  { st := u.s, evs := u.allUse l st.etype (allCells l.t), done := some (allCells l.t)
    post := fun s => s.modBlk u.blk (fun b => { b.setCond d.toNat k with nfin := if which = 0 && k then 1 else b.nfin }) }

/-- TTOPK (R216): the whole instruction. -/
def ttopkUnit (u : Ux) : UnitOut :=
  let l := u.loc u.f.a
  let t := l.t
  let f := match t.ty with
    | .fp f => f
    | .int _ _ => fp32
  let k := u.dt.cols
  let val := fun x => if isAbn t.etype x then (if t.vclass = 1 then FVal.fin false 0 0 else FVal.inf true) else f.value x
  let row := fun r => (sortBy (fun (x y : Nat × Nat) => ordZero (val x.2) (val y.2) == .gt)
    (((List.range t.cols).map (fun c => (c, u.rd l r c))).filter (fun x => isAbn t.etype x.2 || !(f.value x.2).isNan))).take k
  let abn := (abnOf t.etype).getD 0
  { st := u.s
    evs := (allCells t).flatMap (fun e => u.poison l e.1 e.2 e.1 e.2)
    fls := (allCells t).filterMap (fun e =>
      let x := u.rd l e.1 e.2
      if !isAbn t.etype x && (f.value x).isSig then some (e.1, e.2, fNV) else none)
    wrs := (List.range t.rows).flatMap (fun r =>
      let xs := row r
      (List.range k).flatMap (fun j =>
        let x := xs.getD j (0xFFFF, abn)
        [({ r, c := j, v := x.2 } : UWr), { second := true, r, c := j, v := x.1 }])) }

end Sys2Proof.Machine
end

