-- ==== Sys2Proof/Machine/Matrix.lean ====
section
/-! DEFINITION. Units of the matrix instructions: MMA and MMAS by bands and chunks, MMAV by plane passes with the cleat's decisions
(02 R65 to R69; 06 R204 to R214; 08 R260 to R262). -/

namespace Sys2Proof.Machine

/-- What a pairing of operand types accumulates in (R65). -/
inductive AccTy where
  | f32
  | f64
  | i32
  deriving DecidableEq, Repr

def isInt8 (c : Nat) : Bool := c == 0x01 || c == 0x05

/-- The chunk depth and accumulator of a pairing of R65; none when it lists none. -/
def pairing (a b : Tsr) : Option (Nat × AccTy) :=
  let x := a.etype
  let y := b.etype
  if b.isPlanes then (if isInt8 x || x = 0x10 || x = 0x12 then some (32, .f32) else none)
  else if (x = 0x12 && y = 0x12) || (x = 0x13 && y = 0x13) then some (4, .f32)
  else if isFp8 x && isFp8 y then some (8, .f32)
  else if x = 0x14 && y = 0x14 then some (4, .f32)
  else if x = 0x15 && y = 0x15 then some (1, .f64)
  else if isInt8 x && isInt8 y then some (8, .i32)
  else none

def AccTy.code : AccTy → Nat
  | .f32 => 0x14
  | .f64 => 0x15
  | .i32 => 0x07

/-- acc after one chunk of products (R65). -/
def accumulate (ty : AccTy) (sat : Bool) (acc : Nat) (terms : List (FVal × Nat)) (ints : List Int) : Nat × Nat :=
  match ty with
  | .f32 =>
    let (s, g) := exactSum .rne terms
    let (r, g1) := roundVal fp32 .rne false s
    let (x, g2) := addVal .rne (fp32.value acc) (fp32.value r)
    let (y, g3) := roundVal fp32 .rne false x
    (y, g ||| g1 ||| g2 ||| g3)
  | .f64 =>
    let (s, g) := exactSum .rne terms
    let (x, g1) := addVal .rne (fp64.value acc) s
    let (y, g2) := roundVal fp64 .rne false x
    (y, g ||| g1 ||| g2)
  | .i32 =>
    let s := ints.foldl (· + ·) (sx 32 acc)
    (if sat then satBits true 32 s else wrapBits 32 s, 0)

/-- The index of the unit after (ρ, κ, q) in the order of R205. -/
def nextBand (m n g chunks : Nat) (i : Idx) : Option Idx :=
  if i.step + 1 < chunks then some { i with step := i.step + 1 }
  else if i.col + 64 < n then some { i with step := 0, col := i.col + 64 }
  else if i.row + g < m then some { row := i.row + g }
  else none

/-- MMA and MMAS: one band at one chunk. sel answers, for row i and position k, the row of B that pairs with it; none for a skipped
one (R207), whose exact 0 is left out of the sum, so that it does not make a sum of −0 products +0 (log 84). -/
def bandUnit (u : Ux) (s : Loc) (sel : Nat → Nat → Option Nat) : UnitOut :=
  let la := u.loc u.f.a
  let lb := u.loc u.f.b
  let (d, ty) := (pairing la.t lb.t).getD (1, .f32)
  let g := max u.f.grant 1
  let kk := la.t.cols
  let i0 := u.f.idx
  let chunks := ceilDiv kk d
  let ks := rangeFrom (i0.step * d) (min kk (i0.step * d + d) - i0.step * d)
  let cells := (rangeFrom i0.row (min u.dt.rows (i0.row + g) - i0.row)).flatMap (fun i =>
    (rangeFrom i0.col (min u.dt.cols (i0.col + 64) - i0.col)).map (fun j => (i, j)))
  let acc := if i0.step = 0 then s else u.ld
  let rs := cells.map (fun e =>
    let (i, j) := e
    let c := u.rd acc i j
    let pairs : List (Nat × Nat) := ks.filterMap (fun k => (sel i k).map (fun r => (k, r)))
    let terms := pairs.map (fun (p : Nat × Nat) => 
      let y := lb.t.valueF (u.rd lb p.2 j) (u.sc lb p.2 j)
      let x := mulVal (la.t.value (u.rd la i p.1) 0x3C00) y.1
      (x.1, x.2 ||| y.2))
    let ints := if ty = AccTy.i32 then pairs.map (fun (p : Nat × Nat) =>
      intVal (isSignedCode la.t.etype) 8 (u.rd la i p.1) * intVal (isSignedCode lb.t.etype) 8 (u.rd lb p.2 j)) else []
    let r := accumulate ty u.x.sat c terms ints
    let evs := u.poison acc i j i j ++ (if i0.step = 0 then vuse acc.t.etype c i j else [])
      ++ ks.flatMap (fun k => u.poison la i k i j ++ vuse la.t.etype (u.rd la i k) i j)
      ++ pairs.flatMap (fun (p : Nat × Nat) => u.poison lb p.2 j i j ++ (if lb.t.isPlanes then [] else vuse lb.t.etype (u.rd lb p.2 j) i j))
    (e, r, evs))
  { st := u.s, evs := rs.flatMap (fun x => x.2.2)
    fls := rs.filterMap (fun x => if x.2.1.2 = 0 then none else some (x.1.1, x.1.2, x.2.1.2))
    wrs := rs.map (fun x => { r := x.1.1, c := x.1.2, v := x.2.1.1 })
    raw := i0.step + 1 < chunks, next := nextBand u.dt.rows u.dt.cols g chunks i0 }

/-- MMA (R204, R205). -/
def mmaUnit (u : Ux) : UnitOut := bandUnit u (u.loc u.f.c) (fun _ k => some k)

/-- MMAS (R207). -/
def mmasUnit (u : Ux) : UnitOut :=
  let lx := u.loc u.f.c
  let n := (u.loc u.f.b).t.rows
  let o := bandUnit u u.lsrc (fun i k => let x := u.rd lx i k; if x = 0xFFFF || n ≤ x then none else some x)
  { o with evs := (o.wrs.flatMap (fun w => (List.range lx.t.cols).flatMap (fun k => u.poison lx w.r k w.r w.c))) ++ o.evs }

/-! The cleat (R208 to R214, R260 to R262). -/

/-- The key of a threshold sample (R208): the word's own, as R398 and R399 show it for an all-zero word, and that of +∞ where [63:32] is
not 0 (log 29). -/
def sampleKey (v : Nat) : Nat := if 2 ^ 32 ≤ v then 0xFF800000 else v

/-- What a threshold sample of an MMAV with destination record t comes to (R209), for the instruction named seq: in deterministic mode a
sample of global memory sees the word, and its poison, as they were when the epoch opened. -/
def State.sample (s : State) (blk seq : Nat) (t : Tsr) : GRes × State :=
  let b := s.blk blk
  let va := t.d5.toNat % 2 ^ 56
  if t.thrsel = 0 then (.ok (leBytes 8 (t.d5.toNat % 2 ^ 32)), s)
  else if t.thrsel = 1 then
    if badWords b.poisonSh t.d5.toNat 8 then (.fault ⟨cPOISON, 4⟩, s)
    else (.ok (if s.detOn b then b.sharedC t.d5.toNat 8 else b.shared.read t.d5.toNat 8), s)
  else if s.detOn b then
    match s.translate b.master { r := true } va with
    | (.error e, s) => (.fault e, s)
    | (.ok x, s) =>
      let y := s.lch b.launch
      match Tab.get y.snapBad (x.rkey / 64) with
      | some d => (.fault ⟨cPOISON, d⟩, s)
      | none => (.ok (y.snap.read x.rkey 8), s.acquire blk 7)
  else match s.tRead blk seq 7 false va 8 with
    | (.ok bs, s) => (.ok bs, s.acquire blk 7)
    | r => r

/-- The word of %taddr that names a threshold's source. -/
def thrAddr (t : Tsr) : Dword := taddrWord (if t.thrsel = 1 then 1 else 0) (t.d5.toNat % 2 ^ 56)

/-- A value in units of 2^-48 (R67): every finite term is a multiple of one. -/
def units48 : FVal → Int
  | .fin neg m e => signed neg m * 2 ^ (e + 48).toNat
  | _ => 0

/-- The weight of plane p of N (R62). -/
def planeWeight (sg : Bool) (n p : Nat) : Int := if sg && p = 0 then -(2 ^ (n - 1) : Nat) else (2 ^ (n - 1 - p) : Nat)

/-- One plane pass over an element that is live: its partial in ascending k, or the first that leaves the accumulator (R67, R68). -/
def passElt (e : CleatEl) (w : Int) (terms : List (Int × Bool)) : CleatEl :=
  terms.foldl (fun (e : CleatEl) t =>
    if e.st != 0 || !t.2 then e
    else
      let q := e.q + t.1 * w
      if q < -(2 ^ 95 : Nat) || (2 ^ 95 : Nat) ≤ q then { e with st := 3, neg := q < 0 } else { e with q }) e

/-- A value of n units of 2^-48. -/
def val48 (n : Int) : FVal := finOf false n (-48)

/-- The k-th largest of a list. -/
def kthLargest (k : Nat) (xs : List Int) : Option Int := (sortBy (fun x y => y < x) xs)[k - 1]?

/-- The larger of two values that are no NaNs. -/
def maxVal (a b : FVal) : FVal := if ordVal a b == .lt then b else a

/-- Whether the cleat abandons an element with bounds U and L, given the L of the other elements of its row (R212, R262). -/
def abandons (cls k : Nat) (thr : FVal) (u l : Int) (others : List Int) : Bool :=
  if (2 ^ 95 : Nat) ≤ u || l < -(2 ^ 95 : Nat) then false
  else if cls = 1 then u ≤ 0
  else if cls = 2 then belowEdge (val48 u) thr
  else
    let tau := match kthLargest k others with
      | some x => fp32.value (roundVal fp32 .rne false (val48 x)).1
      | none => .inf true
    belowEdge (val48 u) (maxVal thr tau)

/-- The result of an element not abandoned, with its flags (R68, R69). -/
def keptElt (e : CleatEl) : Nat × Nat :=
  if e.st = 3 then (fp32.infBits e.neg, fOF ||| fNX)
  else if e.st = 4 then (fp32.qnan, fNV)
  else roundVal fp32 .rne false (val48 e.q)

/-- MMAV: one plane pass and its boundary (R210 to R214, R261). -/
def mmavUnit (u : Ux) : Option UnitOut :=
  match u.f.verd with
  | none => none
  | some cl =>
    if !cl.placed then none
    else
      let la := u.loc u.f.a
      let lb := u.loc u.f.b
      let p := u.f.idx.plane
      let n := lb.t.planes
      let passes := (u.f.sc.getD 0 0).toNat
      let sg := isSignedCode lb.t.etype
      let (m, j, kk) := (u.dt.rows, u.dt.cols, la.t.cols)
      let ks := List.range kk
      let aval := fun i k => la.t.value (u.rd la i k) 0x3C00
      let finA := (List.range m).map (fun i => ks.all (fun k => match aval i k with
        | .fin _ _ _ => true
        | _ => false))
      -- a(i,k) × s(k) in units, per element
      let coef := fun i c k => units48 (mulVal (aval i k) (lb.t.scaleVal (u.sc lb c k))).1
      let goodS := fun c => !lb.t.pscale || (List.range (ceilDiv kk 64)).all (fun r => match fp16.value (u.sc lb c (64 * r)) with
        | .fin _ _ _ => true
        | _ => false)
      let start := fun i c (e : CleatEl) => if p = 0 && !(finA.getD i true && goodS c) then { e with st := 4 } else e
      let bit := fun c k => bitOf (u.rd lb c k) (n - 1 - p)
      let cells := allCells u.dt
      let els := ((List.range cells.length).zip cells).map (fun e =>
        let (i, c) := e.2
        let x := start i c (cl.els.getD e.1 ⟨0, 0, false⟩)
        if x.st != 0 then x else passElt x (planeWeight sg n p) (ks.map (fun k => (coef i c k, bit c k))))
      let poison := (allCells la.t).flatMap (fun e => u.poison la e.1 e.2 e.1 0) ++ (allCells lb.t).flatMap (fun e => u.poison lb e.1 e.2 0 e.1)
      let use := if p = 0 then (List.range m).flatMap (fun i => if ks.any (fun k => isAbn la.t.etype (u.rd la i k)) then
          [{ cls := 4, cause := cVUSE, r := i, c := 0 }] else []) else []
      let keep := fun (els : List CleatEl) (thr : Nat) (s : State) => s.modBlk u.blk (fun b =>
        { b with flights := b.flights.map (fun (g : Flight) => if g.id = u.f.id then { g with verd := some { cl with els, thr } } else g) })
      if p + 1 < passes then
        let (smp, s) := u.s.sample u.blk u.f.id u.dt
        match smp with
        | .wait => none
        | .ask p => some { st := s, asks := [p] }
        | .fault e => some { st := s, evs := poison ++ [{ cls := 3, cause := e.cause, detail := e.detail, taddr := thrAddr u.dt }] }
        | .ok bs =>
          let key := if s.detOn u.b && u.dt.thrsel = 1 then cl.thr else sampleKey (ofLe bs)
          let thr := max cl.thr key
          let rem : Int := (2 ^ (n - 1 - p) : Nat) - (2 ^ (n - passes) : Nat)
          let bounds := ((List.range cells.length).zip cells).map (fun e =>
            let (i, c) := e.2
            let x := els.getD e.1 ⟨0, 0, false⟩
            if x.st != 0 then ((0 : Int), (0 : Int))
            else
              let cs := ks.map (coef i c)
              (x.q + rem * cs.foldl (fun a v => if 0 < v then a + v else a) 0, x.q + rem * cs.foldl (fun a v => if v < 0 then a + v else a) 0))
          let drop := fun (a : Nat) =>
            let x := els.getD a ⟨0, 0, false⟩
            let (bu, bl) := bounds.getD a (0, 0)
            let row := rangeFrom (a / j * j) j
            let others := (row.filter (fun o => o != a && (els.getD o ⟨0, 0, false⟩).st == 0)).map (fun o => (bounds.getD o (0, 0)).2)
            x.st == 0 && abandons u.dt.vclass (u.dt.km1 + 1) (thrValue thr) bu bl others
          let gone := (List.range cells.length).filter drop
          let els' := (List.range cells.length).map (fun a => let x := els.getD a ⟨0, 0, false⟩; if gone.contains a then { x with st := 2 } else x)
          some {
            st := s, evs := poison ++ use, next := some { plane := p + 1 }
            wrs := gone.map (fun a => { r := a / j, c := a % j, v := (abnOf 0x14).getD 0 })
            post := fun s => (keep els' thr s).modBlk u.blk (fun b => { b with thr := BitVec.ofNat 64 key }) }
      else
        let kept := (((List.range cells.length).zip els).filter (fun e => e.2.st != 2)).map (fun e => (e.1, keptElt e.2))
        some {
          st := u.s, evs := poison ++ use
          fls := kept.filterMap (fun e => if e.2.2 = 0 then none else some (e.1 / j, e.1 % j, e.2.2))
          wrs := kept.map (fun e => { r := e.1 / j, c := e.1 % j, v := e.2.1 }) }

end Sys2Proof.Machine
end

