-- ==== Sys2Proof/Machine/LaneFn.lean ====
section
/-! DEFINITION. Lane functions: fetching words, invocations and their registers, and the units of TMAP and TMAPR
(03 R89, R91; 06 R218 to R222; 13 R362). -/

namespace Sys2Proof.Machine

/-! Instruction words (R86, R314, R362, R367). -/

/-- A fault on fetching an instruction, with the word's address. -/
structure FetchFault where
  fault : AccFault
  va : Nat
  deriving DecidableEq, Repr

/-- A word of code read from memory for a core, and whether its page may be cached (R237). -/
def State.codeWord (s : State) (m : Master) (va : Nat) : Except AccFault (Word × Bool) × State :=
  match s.translate m { x := true } va with
  | (.error e, s) => (.error e, s)
  | (.ok x, s) =>
    if (s.homePoison x.rkey 4).isSome then (.error ⟨cPOISON, 7⟩, s) else (.ok (BitVec.ofNat 32 (s.mem.num x.rkey 4), x.c), s)

/-- n words of code from an address. -/
def State.codeWords (s : State) (m : Master) : Nat → Nat → Except FetchFault (List Word × Bool) × State
  | 0, _ => (.ok ([], true), s)
  | n + 1, va =>
    match s.codeWord m va with
    | (.error e, s) => (.error ⟨e, va⟩, s)
    | (.ok (w, c), s) =>
      match s.codeWords m n ((va + 4) % 2 ^ 56) with
      | (.error e, s) => (.error e, s)
      | (.ok (ws, d), s) => (.ok (w :: ws, c && d), s)

/-- What an instruction cache holds at an address for a core and a context. -/
def State.codeAt (s : State) (core ctx va : Nat) (op : Bool) : Option Code :=
  s.icache.find? (fun e => e.core == core && e.ctx == ctx && e.rev == isaRev && e.op == op && e.addr == va)

/-- What an entry takes up in its cache: an operation, or its words. -/
def Code.room (e : Code) : Nat := if e.op then 1 else e.words.length

/-- What a cache of a core holds: 2,048 operations, or the words of 64 KiB (R367). -/
def codeLimit (op : Bool) : Nat := if op then 2048 else 16384

/-- Holding an instruction, for which a full cache loses others. -/
def State.holdCode (s : State) (e : Code) : Nat → State
  | 0 => { s with icache := s.icache ++ [e] }
  | f + 1 =>
    let beside := s.icache.filter (fun x => x.core == e.core && x.op == e.op)
    if (beside.map Code.room).foldl (· + ·) e.room ≤ codeLimit e.op then { s with icache := s.icache ++ [e] }
    else
      let (i, s) := s.pick beside.length
      (match beside[i]? with
        | some x => ({ s with icache := s.icache.erase x } : State)
        | none => s).holdCode e f

/-- The words of the instruction at an address as a core fetches it for a context: from its decoded-operation cache, else from its byte
cache, else from memory, filling both unless its page may not be cached (R237, R367). len gives the number of words after the first. -/
def State.fetchCode (s : State) (m : Master) (core va : Nat) (len : Word → Nat) : Except FetchFault (List Word) × State :=
  let fits := fun (e : Code) => e.words.length == 1 + len (e.words.headD 0)
  match (s.codeAt core m.ctx va true).filter fits with
  | some e => (.ok e.words, s)
  | none =>
    match (s.codeAt core m.ctx va false).filter fits with
    | some e => (.ok e.words, s.holdCode { e with op := true } 1)
    | none =>
      match s.codeWord m va with
      | (.error e, s) => (.error ⟨e, va⟩, s)
      | (.ok (w, c), s) =>
        match s.codeWords m (len w) ((va + 4) % 2 ^ 56) with
        | (.error e, s) => (.error e, s)
        | (.ok (ws, d), s) =>
          let e : Code := { core, ctx := m.ctx, op := true, addr := va, words := w :: ws }
          (.ok e.words, if c && d then (s.holdCode { e with op := false } 3).holdCode e 1 else s)

/-- Word 0 of the instruction at an address, which walking a loop body reads (R124): as it is cached, else from memory. -/
def State.firstWord (s : State) (m : Master) (core va : Nat) : Except AccFault Word × State :=
  match (s.codeAt core m.ctx va true).or (s.codeAt core m.ctx va false) with
  | some e => (.ok (e.words.headD 0), s)
  | none =>
    match s.codeWord m va with
    | (.error e, s) => (.error e, s)
    | (.ok (w, _), s) => (.ok w, s)

/-! Invocations. -/

/-- A value widened into a lane register (R219): its bits and flags. -/
def widen (code bits : Nat) : Nat × Nat :=
  match tyOf code 8 with
  | .fp f => convert (.fp f) (.fp fp32) .rne false bits
  | .int sg w => (wrapBits 32 (intVal sg w bits), 0)

/-- A lane register narrowed to an element type (R219). -/
def narrow (md : RMode) (code bits : Nat) : Nat × Nat :=
  match tyOf code 8 with
  | .fp f => convert (.fp fp32) (.fp f) md false bits
  | .int _ w => (bits % 2 ^ w, 0)

/-- Whether an instruction is TMAPR. -/
def isMapr : Instr → Bool
  | .tmapr _ _ _ _ => true
  | _ => false

/-- The lane of an invocation (R219). -/
def laneOf (f : Flight) (r c : Nat) : Nat := if isMapr f.instr then r % 128 else c % 128

/-- The address of the entry of a lane function (R218). -/
def laneEntry (f : Flight) : VAddr :=
  match instrForm f.instr with
  | .w96 _ l => f.pc + l.signExtend 56
  | _ => f.pc

/-- The elements whose invocations make up the unit at a flight's index, head first. -/
def Ux.unitEls (u : Ux) : List (Nat × Nat) :=
  if isMapr u.f.instr then rowCells (u.loc u.f.a).t u.f.idx.row
  else (groupCells u.dt u.f.idx).filter (fun e => !u.masked e.1 e.2)

/-- Flags raised at an element, added to a run. -/
def LaneRun.flag (x : LaneRun) (r c fl : Nat) : LaneRun :=
  if fl = 0 then x else { x with flags := x.flags ||| fl, flagged := x.flagged ++ [(r, c, fl)] }

def LaneRun.reg (x : LaneRun) (n : Nat) : Nat := ((x.l[n % 32]?).getD 0).toNat
def LaneRun.setReg (x : LaneRun) (n v : Nat) : LaneRun := { x with l := x.l.setIfInBounds (n % 32) (BitVec.ofNat 32 v) }

/-- Starting the invocation at the head of a run (R219): inputs loaded, or the trap of an input. -/
def Ux.invoke (u : Ux) (x : LaneRun) : LaneRun ⊕ UEv :=
  match x.els with
  | [] => .inl x
  | (r, c) :: _ =>
    let ins := [u.f.a, u.f.b, u.f.c].map (fun o => let l := u.loc o; (l, u.rd l r c))
    match firstEv (ins.flatMap (fun e => u.poison e.1 r c r c ++ vuse e.1.t.etype e.2 r c)) with
    | some e => .inr e
    | none =>
      let x := { x with l := Vector.replicate 32 0, lpc := laneEntry u.f, stack := [] }
      let x := ((List.range 3).zip ins).foldl (fun (x : LaneRun) e =>
        let (v, fl) := widen e.2.1.t.etype e.2.2
        (x.setReg (e.1 + 1) v).flag r c fl) x
      let x := (x.setReg 4 r).setReg 5 c
      .inl (if isMapr u.f.instr then x.setReg 6 x.carry.toNat else x)

/-- Beginning a unit of TMAP or TMAPR: its run with the first invocation started, or a trap. -/
def Ux.laneStart (u : Ux) : LaneRun ⊕ UEv :=
  let r := u.f.idx.row
  let base : LaneRun := { els := u.unitEls, lpc := laneEntry u.f }
  if isMapr u.f.instr then
    let d := u.lsrc
    match firstEv (u.maskPoison r 0 ++ u.poison d r 0 r 0 ++ vuse d.t.etype (u.rd d r 0) r 0) with
    | some e => .inr e
    | none =>
      let (v, fl) := widen d.t.etype (u.rd d r 0)
      u.invoke ({ base with carry := BitVec.ofNat 32 v }.flag r 0 fl)
  else match firstEv ((groupCells u.dt u.f.idx).flatMap (fun e => u.maskPoison e.1 e.2)) with
    | some e => .inr e
    | none => u.invoke base

/-- The end of an invocation (R219): its result, and the start of the next. -/
def Ux.laneEnd (u : Ux) (x : LaneRun) : LaneRun ⊕ UEv :=
  match x.els with
  | [] => .inl x
  | (r, c) :: rest =>
    let x := { x with els := rest }
    if isMapr u.f.instr then
      let x := { x with carry := BitVec.ofNat 32 (x.reg 0) }
      if rest = [] then
        let (v, fl) := narrow u.md u.dt.etype x.carry.toNat
        .inl ({ x with results := [(r, 0, v)] }.flag r c fl)
      else u.invoke x
    else
      let (v, fl) := narrow u.md u.dt.etype (x.reg 0)
      u.invoke ({ x with results := x.results ++ [(r, c, v)] }.flag r c fl)

/-- The unit of a finished run (R219, R220): its elements, flags and lane-store writes. -/
def laneUnit (u : Ux) (x : LaneRun) : UnitOut :=
  let r := u.f.idx.row
  let row := isMapr u.f.instr
  let cells := if row then [(r, 0)] else groupCells u.dt u.f.idx
  { st := u.s, fls := x.flagged, anyFlag := true
    wrs := (x.results.filter (fun _ => !(row && u.masked r 0))).map (fun e => { r := e.1, c := e.2.1, v := e.2.2 })
    copies := cells.filter (fun e => u.masked e.1 e.2)
    next := if row then nextRow u.dt u.f.idx else nextGroup u.dt u.f.idx
    post := fun s => s.modBlk u.blk (fun b => x.writes.foldl (fun (b : Block) (e : Nat × Byte) => b.storeWrite 2 e.1 [e.2]) b) }

/-- The lane store as the current invocation sees it: with the writes of its unit (R220). -/
def laneRead (b : Block) (x : LaneRun) (key n : Nat) : List Byte :=
  (rangeFrom key n).map (fun k => ((x.writes.lookup k).getD (b.lane.get k)))

/-- Writes of a unit are kept as (key, byte), a zero byte too, since they replace what the store holds. -/
def LaneRun.put (x : LaneRun) (key : Nat) (bs : List Byte) : LaneRun :=
  { x with writes := ((List.range bs.length).zip bs).foldl (fun w e => Tab.put w (key + e.1) e.2) x.writes }

/-! One lane instruction. -/

/-- The tile instruction whose lane function runs, with its run. -/
def State.running (s : State) : Option (Flight × LaneRun) :=
  (s.me.flights.find? (fun f => f.id == s.curFlight)).bind (fun f => f.lane.map (fun x => (f, x)))

def State.setRun (s : State) (x : Option LaneRun) : State :=
  s.modMe (fun b => { b with flights := b.flights.map (fun (g : Flight) => if g.id = s.curFlight then { g with lane := x } else g) })

/-- A trap inside an invocation (R91, R222): delivered at the invoking instruction, whose unit is discarded. -/
def State.laneTrap (s : State) (f : Flight) (e : UEv) : State := (s.setRun none).unitTrap s.cur f e f.fm f.idx

/-- One lane instruction: what it does to the run, or its trap. Without a lane function in progress there is nothing to do. -/
def State.laneStep (s : State) (g : Ux → LaneRun → Nat × Nat → LaneRun ⊕ UEv) : State :=
  match s.running with
  | none => s
  | some (f, x) =>
    match g (ux s s.cur f) x (x.els.getD 0 (0, 0)) with
    | .inl x => s.setRun (some x)
    | .inr e => s.laneTrap f e

/-- A run after an instruction of element e that writes one register and goes on to the next: its value and flags. -/
def LaneRun.wrote (x : LaneRun) (e : Nat × Nat) (d : R6) (v fl : Nat) : LaneRun :=
  { (x.setReg d.toNat v).flag e.1 e.2 fl with lpc := x.lpc + 4 }

/-- An instruction that writes one register: its value and flags. -/
def State.laneOp (s : State) (d : R6) (g : RMode → LaneRun → Nat × Nat) : State :=
  s.laneStep (fun u x e => .inl (x.wrote e d (g u.md x).1 (g u.md x).2))

/-- A two-operand arithmetic instruction of a type code (R221): n32, i32 or f32. A lane register that holds the FP32 ABN pattern is a signalling NaN
here, as in comparisons: R222 checks for it in LLDT alone, and R72 does not say (log 94). -/
def laneArith (c : R6) (md : RMode) (gi : Int → Int → Int) (gf : FVal → FVal → FVal × Nat) (a b : Nat) : Nat × Nat :=
  arith2 (tyOf c.toNat 8) md false gi gf a b

/-- The key and checks of a lane-store access (R222): its trap, or the key. -/
def Ux.laneAddr (u : Ux) (e : Nat × Nat) (a n : Nat) : Except UEv Nat :=
  let t : UEv := { cls := 3, cause := cALIGN, r := e.1, c := e.2, taddr := taddrWord 3 a }
  if a % n != 0 then .error t
  else if u.b.hdr.lane < a + n then .error { t with cause := cPROTECT, detail := 7 }
  else .ok (laneOf u.f e.1 e.2 * 1024 + a)

/-- A lane-store load of n bytes: the bytes go to k. -/
def State.laneLoad (s : State) (addr : LaneRun → Nat) (n : Nat) (k : Ux → LaneRun → Nat × Nat → Nat → LaneRun ⊕ UEv) : State :=
  s.laneStep (fun u x e =>
    match u.laneAddr e (addr x) n with
    | .error t => .inr t
    | .ok key =>
      if badWords (u.b.poisonLane.filter (fun w => !(x.writes.any (fun p => p.1 / 4 == w)))) key n then
        .inr { cls := 3, cause := cPOISON, detail := 6, r := e.1, c := e.2, taddr := taddrWord 3 (addr x) }
      else k u x e (ofLe (laneRead u.b x key n)))

/-- A lane-store store of n bytes. -/
def State.laneStore (s : State) (addr : LaneRun → Nat) (n : Nat) (val : RMode → LaneRun → Nat × Nat) : State :=
  s.laneStep (fun u x e =>
    match u.laneAddr e (addr x) n with
    | .error t => .inr t
    | .ok key =>
      let (v, fl) := val u.md x
      .inl { (x.put key (leBytes n v)).flag e.1 e.2 fl with lpc := x.lpc + 4 })

/-- A relative lane branch (R79). -/
def LaneRun.jump (x : LaneRun) (n : Nat) (off : BitVec n) : LaneRun := { x with lpc := x.lpc + (off.signExtend 56 <<< 2) }

end Sys2Proof.Machine
end

