-- ==== Sys2Proof/Machine/Collect.lean ====
section
/-! DEFINITION. Units of the tile collectives: participants, what they send, and the combination in ascending participant index
(06 R223 to R226). -/

namespace Sys2Proof.Machine

def isColl : Instr → Bool
  | .tcred _ _ _ _ | .tcbc _ _ _ _ | .tcag _ _ _ _ => true
  | _ => false

/-- Whether a collective is at .domain, and the block index of its participants on every device (R223). -/
def Flight.domain (f : Flight) : Bool := dfld (f.sc.getD 0 0) 7 4 == 8
def Flight.baseBlk (f : Flight) : Nat := dfld (f.sc.getD 0 0) 63 32

/-- The participants of a collective flight: index and block index, ascending; at .domain a participant of another device has no block
here. -/
def State.participants (s : State) (f : Flight) : List (Nat × Option Nat) :=
  (maskBits 64 (f.sc.getD 1 0).toNat).map (fun j =>
    (j, if f.domain then (if j = s.devid.toNat then some f.baseBlk else none) else some (f.baseBlk + j)))

/-- The other devices of a collective at .domain. -/
def State.farPeers (s : State) (f : Flight) : List Nat :=
  if f.domain then (maskBits 64 (f.sc.getD 1 0).toNat).filter (fun j => j != s.devid.toNat) else []

/-- What the participants of a collective are to agree in. -/
def Flight.collDesc (f : Flight) : CollDesc :=
  let t := Opnd.tsrOf f.d
  { kind := match f.instr with
      | .tcred _ _ _ _ => 0
      | .tcbc _ _ _ _ => 1
      | _ => 2
    ctl := f.sc.getD 0 0, peers := f.sc.getD 1 0, rows := t.rows, cols := t.cols, etype := t.etype }

/-- The collective that the participant of another device is at. -/
def State.farHead (s : State) (ctx : Nat) (f : Flight) (j : Nat) : Option FarColl :=
  s.farColls.find? (fun e => e.ctx == ctx && e.dev == j && e.blkid == f.baseBlk && e.desc.kind < 8)

/-- Dropping the collectives that the other devices' participants are at. -/
def State.dropFar (s : State) (ctx : Nat) (f : Flight) : State :=
  { s with farColls := ((s.farPeers f).filterMap (s.farHead ctx f)).foldl List.erase s.farColls }

/-- Sending messages, in order, to every one of some devices, or none (R344). -/
def State.tellAll (s : State) (js : List Nat) (ms : List Msg) : Option State :=
  (js.flatMap (fun j => ms.map (fun m => (j, m)))).foldl (fun (o : Option State) e =>
    o.bind (fun s => (s.routeFor e.1 0).bind (fun n => s.sendFlit n false e.1 e.2))) (some s)

/-- Sending a message to every other device of a collective, or none. -/
def State.tellFar (s : State) (f : Flight) (m : Msg) : Option State := s.tellAll (s.farPeers f) [m]

/-- The collective a block is at: its oldest collective in flight that is not finished. -/
def Block.collective (b : Block) : Option Flight := b.flights.find? (fun f => !f.fin && isColl f.instr)

/-- Whether a block is among the participants of a collective. -/
def State.names (s : State) (f : Flight) (b : Block) : Bool := (s.participants f).any (fun e => e.2 == some b.blkid)

/-- The participants' places in the collective under way that a flight belongs to. -/
def Launch.session (x : Launch) (blk id : Nat) : List CollSent :=
  match x.sent.find? (fun e => e.blk == blk && e.flight == id && e.ses != 0) with
  | some e => x.sent.filter (fun y => y.ses == e.ses)
  | none => []

/-- Whether the other devices have been told of a flight's collective. -/
def Launch.collTold (x : Launch) (blk id : Nat) : Bool := x.sent.any (fun e => e.blk == blk && e.flight == id)

/-- What the participants of a flight have: every one at the same collective, some at another that names this block, or not all there. -/
inductive Meet where
  | agree (ms : List (Nat × Nat))
  | differ (bs : List Nat)
  | wait

def State.meet (s : State) (blk : Nat) (f : Flight) : Meet :=
  let b := s.blk blk
  let at_ := ((s.participants f).filterMap (fun e => e.2)).map (fun i => (s.byIndex b.launch i).bind (fun p =>
    (p.2.collective.filter (fun g => (s.names g b || g.id == f.id) && p.2.trapP.isNone)).map (fun g => (p.1, g))))
  let far := (s.farPeers f).map (s.farHead b.ctx f)
  let here := at_.filterMap (fun x => x)
  if here.length < at_.length || far.any (fun x => x.isNone) then .wait
  else if here.any (fun e => e.2.collDesc != f.collDesc) || far.any (fun x => x.any (fun y => y.desc != f.collDesc)) then
    .differ (here.map (fun e => e.1))
  else .agree (here.map (fun e => (e.1, e.2.id)))

/-- One combination step (R225). -/
def collStep (ty : Ty) (op v x : Nat) : Nat × Nat :=
  match ty with
  | .int sg w =>
    if op = 0 then (wrapBits w (intVal sg w v + intVal sg w x), 0)
    else if op = 1 then (if intVal sg w v ≤ intVal sg w x then x else v, 0)
    else if op = 2 then (if intVal sg w v ≤ intVal sg w x then v else x, 0)
    else if op = 3 then (v &&& x, 0) else if op = 4 then (v ||| x, 0) else (v ^^^ x, 0)
  | .fp f => if op = 0 then deliverFp f .rne false (addVal .rne (f.value v) (f.value x)) else minMaxBits f (op = 1) v x

/-- The elements of one group combined over the participants, with the post-scale (R225). -/
def collCombine (ty : Ty) (op : Nat) (scale : Option Nat) (xs : List Nat) : Nat × Nat :=
  let r := match xs with
    | [] => (0, 0)
    | x :: rest => rest.foldl (fun (acc : Nat × Nat) x => let y := collStep ty op acc.1 x; (y.1, acc.2 ||| y.2)) (x, 0)
  match ty, scale with
  | .fp f, some c => let y := deliverFp f .rne false (mulVal (f.value r.1) (fp64.value c)); (y.1, r.2 ||| y.2)
  | _, _ => r

/-- The number of the element group at an index, in commit order. -/
def groupNo (t : Tsr) (i : Idx) : Nat := i.row * ceilDiv t.cols 16 + i.col / 16

/-- A participant sends its source elements of its next group: the state, once the links take them, or the trap of a poisoned one. -/
def Ux.send (u : Ux) : Option State ⊕ UEv :=
  let l := u.lsrc
  let cells := groupCells u.dt u.f.idx
  match cells.flatMap (fun e => u.poison l e.1 e.2 e.1 e.2) with
  | e :: _ => .inr e
  | [] =>
    let bits := cells.map (fun e => u.rd l e.1 e.2)
    .inl (u.s.tellFar u.f (.collBits u.b.ctx u.b.blkid false bits) |>.map (fun s =>
      s.modLch u.b.launch (fun x => { x with sent := x.sent.map (fun (e : CollSent) =>
        if e.blk = u.blk && e.flight = u.f.id then { e with bits := e.bits ++ [bits] } else e) })))

/-- A collective's group, once every participant has sent it (R225). -/
def collUnit (u : Ux) (ses : List CollSent) : UnitOut :=
  let cells := groupCells u.dt u.f.idx
  let n := groupNo u.dt u.f.idx
  let ps : List (Nat × Option Nat × List Nat) := (u.s.participants u.f).filterMap (fun e => match e.2 with
    | some i => (u.s.byIndex u.b.launch i).map (fun p => (e.1, some p.1, ((ses.find? (fun e => e.blk == p.1)).map (fun e => e.bits.getD n [])).getD []))
    | none => (u.s.farHead u.b.ctx u.f e.1).map (fun x => (e.1, none, x.groups.getD n [])))
  let ctl := (u.f.sc.getD 0 0).toNat
  let post := fun (s : State) => if (nextGroup u.dt u.f.idx).isSome then s else
    (s.dropFar u.b.ctx u.f).modLch u.b.launch (fun x =>
      let sent := x.sent.map (fun (e : CollSent) => if e.blk = u.blk && e.flight = u.f.id then { e with fin := true } else e)
      { x with sent := sent.filter (fun e => !(sent.all (fun y => y.ses != e.ses || y.fin))) })
  let all : UnitOut := { st := u.s, next := nextGroup u.dt u.f.idx, silent := true, post }
  let idx := (List.range cells.length).zip cells
  match u.f.instr with
  | .tcred _ _ _ _ =>
    let scale := if u.x.c = 0 then none else some (u.f.sc.getD 2 0).toNat
    let rs := idx.map (fun e => (e.2, collCombine u.dt.ty (fld ctl 3 0) scale (ps.map (fun p => p.2.2.getD e.1 0))))
    { all with
      fls := rs.filterMap (fun x => if x.2.2 = 0 then none else some (x.1.1, x.1.2, x.2.2))
      wrs := rs.map (fun x => { r := x.1.1, c := x.1.2, v := x.2.1 }) }
  | .tcbc _ _ _ _ =>
    match ps.find? (fun p => p.1 == fld ctl 13 8) with
    | some root => if root.2.1 = some u.blk then { all with copies := cells }
      else { all with wrs := idx.map (fun e => { r := e.2.1, c := e.2.2, v := root.2.2.getD e.1 0 }) }
    | none => { all with copies := cells }
  | _ =>
    let slice := max (u.dt.rows / max ps.length 1) 1
    let owner := ps.getD (u.f.idx.row / slice) (0, some u.blk, [])
    if owner.2.1 = some u.blk then { all with copies := cells }
    else { all with wrs := idx.map (fun e => { r := e.2.1, c := e.2.2, v := owner.2.2.getD e.1 0 }) }

end Sys2Proof.Machine
end

