-- ==== Sys2Proof/Machine/Commit.lean ====
section
/-! DEFINITION. Committing the next unit of a tile instruction in flight, its traps, and its completion (01 R31, R32, R37, R39, R40; 05 R160
to R163, R177; 13 R372). -/

namespace Sys2Proof.Machine

/-- The next unit of a flight that is no collective and no lane function; none while it must wait. -/
def unitOf (u : Ux) : Option UnitOut :=
  match u.f.instr with
  | .tld _ _ op _ _ => tldUnit u (op.toNat % 8 = 1)
  | .tst _ _ _ _ _ => some (tstUnit u)
  | .tstr _ _ op _ _ => some (tstrUnit u (op.toNat % 8))
  | .tldg _ _ _ _ => tldgUnit u
  | .tstg _ _ _ _ => some (tstgUnit u)
  | .tcopy _ _ _ | .tsend _ _ _ | .trecv _ _ _ => some (copyUnit u)
  | .tfill _ _ _ => some (tfillUnit u)
  | .tiota _ _ _ _ => some (tiotaUnit u)
  | .ttrans _ _ _ => some (ttransUnit u)
  | .tbcast _ r _ _ => some (tbcastUnit u r)
  | .tldl _ _ _ => some (tldlUnit u)
  | .tstl _ _ _ => some (tstlUnit u)
  | .azero _ _ => some (azeroUnit u)
  | .tcvt _ _ _ => some (tcvtUnit u)
  | .tbfly _ _ _ _ _ => some (tbflyUnit u)
  | .tcmpr _ _ _ _ => some (tcmprUnit u)
  | .texpd _ _ _ _ => some (texpdUnit u)
  | .tred _ r o _ _ b => if redWaits u.s b then none else some (tredUnit u r.toNat o.toNat b)
  | .tscan _ r o _ _ => some (tscanUnit u r.toNat o.toNat)
  | .targmx _ r _ _ => some (targmxUnit u r.toNat)
  | .tchkf _ d _ => some (checkUnit u 0 d)
  | .tany _ d _ => some (checkUnit u 1 d)
  | .tall _ d _ => some (checkUnit u 2 d)
  | .ttopk _ _ _ _ => some (ttopkUnit u)
  | .mma _ _ _ _ => some (mmaUnit u)
  | .mmas _ _ _ _ => some (mmasUnit u)
  | .mmav _ _ _ _ => mmavUnit u
  | .tmap _ _ _ _ | .tmapr _ _ _ _ => u.f.lane.bind (fun x => if x.els = [] then some (laneUnit u x) else none)
  | .matt _ _ _ | .mattW _ _ _ => none
  | _ => some (eltUnit u)

/-- The rest of a gather or scatter of which an element has faulted (R177). -/
structure Rest where
  st : State
  asks : List Pend := []
  mask : List Nat := []          -- elements that fault
  first : Option UEv := none

/-- One element of the rest on its own: masked ones take R37, and those that trap, by their mask element's poison too, make the fault mask; none while
one must wait. -/
def Rest.elt (x : Rest) (blk : Nat) (f : Flight) (r c : Nat) : Option Rest :=
  let n := r * (Opnd.tsrOf f.d).cols + c
  let u := ux x.st blk { f with fm := some [n], idx := { row := r, col := c / 16 * 16 } }
  let copy := fun (s : State) => if f.fm.isSome || readsD f.instr || u.dt.depth ≤ 1 then s
    else s.copyElt blk u.ld.t u.ld.inst f.src r c false
  if u.masked r c && (u.maskPoison r c).isEmpty then some { x with st := copy x.st }
  else match unitOf u with
    | none => none
    | some o =>
      if o.asks != [] then some { x with st := o.st, asks := x.asks ++ o.asks }
      else
        let (ev, wrs) := u.verdict { o with evs := o.evs ++ o.bad.map (fun e => e.2) }
        some (match ev with
          | some e => { x with st := copy o.st, mask := x.mask ++ [n], first := x.first.or (some e) }
          | none => { x with st := u.store o wrs })

/-- Every element of the rest, in commit order. -/
def Rest.run (x : Rest) (blk : Nat) (f : Flight) : List (Nat × Nat) → Option Rest
  | [] => some x
  | (r, c) :: rest => (x.elt blk f r c).bind (fun x => x.run blk f rest)

/-- The elements a gather or scatter still has to move. -/
def Ux.rest (u : Ux) : List (Nat × Nat) :=
  if u.f.fm.isSome then u.masks else (allCells u.dt).filter (fun e => !cellLt e.1 e.2 u.f.idx.row (u.f.idx.col / 16 * 16))

/-- Adding the reads that a unit asks for. -/
def State.asks (s : State) (blk : Nat) (f : Flight) (ps : List Pend) : State := ps.foldl (fun s p => s.addT blk f.id p) s

/-- A gather or scatter of which an element has faulted: once no earlier instruction is in flight and every read has come, the rest
completes and the faulting elements make the fault mask (R177). -/
def State.gatherFault (s : State) (blk : Nat) (f : Flight) : Option State :=
  if ((s.blk blk).flights.takeWhile (fun g => g.id != f.id)).any (fun g => !g.fin) then none
  else (({ st := s } : Rest).run blk f (ux s blk f).rest).map (fun x =>
    if x.asks != [] then s.asks blk f x.asks
    else
      let e := x.first.getD { cls := 3, cause := cXLATE }
      x.st.unitTrap blk f e (some x.mask) { row := e.r, col := e.c / 16 * 16 })

/-- A unit whose writes are sent: the instruction goes on once they are where the unit needs them (R173, R174). A write that its port or its
route has refused meanwhile is a trap of the instruction, its unit committed (R302; log 71); a scatter's trap that has waited for them is raised. -/
def State.land (s : State) (blk : Nat) (f : Flight) (cells : List (Nat × Nat)) (next : Option Idx) : Option State :=
  if (s.blk blk).pend.any (fun p => p.seq == f.id && p.owed) then none
  else match f.late with
    | none => some (s.progress blk f cells next)
    | some t => some (s.modBlk blk (fun b => ({ b with flights := b.flights.map (fun (g : Flight) => if g.id = f.id then g.landed else g) } : Block).raise t))

/-- The effects of a unit: its reads asked for, its trap, or its commit. -/
def Ux.commitUnit (u : Ux) (o : UnitOut) : State :=
  let blk := u.blk
  let f := u.f
  if o.asks != [] then o.st.asks blk f o.asks
  else
    let (ev, wrs) := u.verdict o
    match ev with
    | some e => o.st.unitTrap blk f e f.fm f.idx
    | none =>
      let s := u.store o wrs
      let s := s.modBlk blk (fun b => { b with pend := b.pend.filter (fun p => !(p.isGet && p.agent == .t && p.seq == f.id)) })
      if (s.blk blk).pend.any (fun p => p.seq == f.id && p.owed) then
        s.modBlk blk (fun b => { b with flights := b.flights.map (fun (g : Flight) =>
          if g.id = f.id then { g with unit := some (o.next, o.cells) } else g) })
      else s.progress blk f o.cells o.next

/-- A participant of a collective traps, since the participants differ (R224). -/
def State.collTrap (s : State) (blk : Nat) : State :=
  match (s.blk blk).collective with
  | some g =>
    (s.modLch (s.blk blk).launch (fun x => { x with sent := x.sent.filter (fun e => !(e.blk == blk && e.flight == g.id)) })).unitTrap
      blk g { cls := 2, cause := cQPORT, detail := 0x0B02 } none g.idx
  | none => s

/-- A collective that has not begun: the other devices are told of it, and it begins, or traps, once every participant is there. -/
def State.collBegin (s : State) (blk : Nat) (f : Flight) : Option State :=
  let l := (s.blk blk).launch
  let ctx := (s.blk blk).ctx
  if s.farPeers f != [] && !(s.lch l).collTold blk f.id then
    (s.tellFar f (.collAt ctx (s.blk blk).blkid f.collDesc)).map (fun s =>
      s.modLch l (fun x => { x with sent := x.sent ++ [{ ses := 0, blk, flight := f.id }] }))
  else match s.meet blk f with
    | .wait => none
    | .agree ms =>
      let (n, s) := s.fresh
      some (s.modLch l (fun x => { x with
        sent := x.sent.filter (fun e => !(e.blk == blk && e.flight == f.id)) ++ ms.map (fun m => { ses := n, blk := m.1, flight := m.2 }) }))
    | .differ bs => some (bs.foldl State.collTrap (s.dropFar ctx f))

/-- One step of a collective in flight: it meets the others, sends a group, or commits one. -/
def State.collective (s : State) (blk : Nat) (f : Flight) : Option State :=
  let u := ux s blk f
  let ses := (s.lch u.b.launch).session blk f.id
  if ses = [] then s.collBegin blk f
  else
    let n := groupNo u.dt f.idx
    if ((ses.find? (fun e => e.blk == blk)).map (fun e => e.bits.length)).getD 0 ≤ n then
      if !s.unitFree blk f then none
      else match u.send with
        | .inl s => s
        | .inr e => some (s.unitTrap blk f e none f.idx)
    else if !s.unitFree blk f || ses.any (fun e => e.bits.length ≤ n)
      || (s.farPeers f).any (fun j => (s.farHead u.b.ctx f j).all (fun x => x.groups.length ≤ n)) then none
    else some (u.commitUnit (collUnit u ses))

/-- The channel port by which a flight writes to a peer that has retired (R21, R32). -/
def State.peerGone (s : State) (blk : Nat) (f : Flight) : Option Nat :=
  (f.portsOut.find? (fun o => match s.chanTo (s.blk blk) o.name with
    | some (p, _) => (s.blk p).st == .retired
    | none => true)).map (fun o => o.name - 48)

/-- Whether a peer that a flight writes to is away: saved, or not yet issuing after its save (R19, R355). -/
def State.peerAway (s : State) (blk : Nat) (f : Flight) : Bool :=
  f.portsOut.any (fun o => match s.chanTo (s.blk blk) o.name with
    | some (p, _) => (s.blk p).st == .saved || (s.blk p).restoring
    | none => false)

/-- One step of a tile instruction in flight: its next unit committed, or its trap found; none while it must wait. -/
def State.commit (s : State) (blk : Nat) (f : Flight) : Option State :=
  match f.unit with
  | some (next, cells) => s.land blk f cells next
  | none =>
    if isColl f.instr then s.collective blk f
    else match s.passFences blk f with
      | none => none
      | some s =>
        if !s.unitFree blk f || s.peerAway blk f then none
        else
          let u := ux s blk f
          match s.peerGone blk f, f.instr, f.lane with
          | some q, _, _ => some (s.unitTrap blk f { cls := 2, cause := cQPORT, named := false, tport := tportQueue q } f.fm f.idx)
          | none, .tmap _ _ _ _, none | none, .tmapr _ _ _ _, none =>
            match u.laneStart with
            | .inl x => some { s with blocks := (({ s with cur := blk, curFlight := f.id } : State).setRun (some x)).blocks }
            | .inr e => some (s.unitTrap blk f e f.fm f.idx)
          | _, _, _ =>
            (unitOf u).bind (fun o => if o.bad != [] then s.gatherFault blk f else some (u.commitUnit o))

end Sys2Proof.Machine
end

