-- ==== Sys2Proof/Machine/TileIssue.lean ====
section
/-! DEFINITION. Issuing a tile instruction: its operand checks, channel ports, waits, rename, and the entry it takes (01 R25, R32, R36, R48;
02 R50; 03 R81; 05 R155 to R159, R179; 06 R203; 13 R372, R373). -/

namespace Sys2Proof.Machine

/-! Operand checks (R155): pairs of a failed check and the operand's number, in the order D, A, B, C, mask tile. -/

def nD : Nat := 0
def nA : Nat := 1
def nB : Nat := 2
def nC : Nat := 3
def nM : Nat := 4

/-- A tile operand's own checks: its record valid, a channel port or a bit-plane tile only where accepted (R48, R50, R155). -/
def tileBad (t : Tsr) (r : R6) (port plane : Bool) : Bool := !t.v || (!port && isChan r.toNat) || (!plane && t.isPlanes)

/-- Equal rows and columns. -/
def sameShape (a b : Tsr) : Bool := a.rows == b.rows && a.cols == b.cols

/-- An integer or FP16, BF16, FP32, FP64 type. -/
def numCode (c : Nat) : Bool := isIntCode c || isFpBig c

/-- The mask tile's checks (R81), against the destination's record. -/
def maskChk (b : Block) (f : Form) (d : Tsr) : List (Bool × Nat) :=
  if f.mods.pmode = 2 then
    let t := b.tsrOf f.mods.psel.toNat
    [(tileBad t f.mods.psel false false || !isIntCode t.etype || !sameShape t d, nM)]
  else []

/-! Channel ports (R32, R179). -/

/-- The channel ports among operands, each once. -/
def chansOf (os : List (Option R6)) : List Nat :=
  (os.filterMap (fun o => o.bind (fun r => if isChan r.toNat then some r.toNat else none))).eraseDups
/-- The channel ports an instruction reads and writes. -/
def portsRead (i : Instr) : List Nat :=
  let (d, a, b, c) := tileOps i
  chansOf ((if readsD i then [d] else []) ++ [a] ++ (if writesB i then [] else [b]) ++ [c])
def portsWritten (i : Instr) : List Nat :=
  let (d, _, b, _) := tileOps i
  chansOf ((if readsD i then [] else [d]) ++ (if writesB i then [b] else []))

/-- The checks of a channel port's use (R21, R32), with its queue control word. -/
def chanC (s : State) (n : Nat) (write : Bool) : Ctl Unit := do
  let b := s.me
  let q := n - 48
  let bad : Ctl Unit := trapC s cQPORT 0 0 (tportQueue q)
  if !s.grouped b || n % 4 == s.cgpos b then bad
  match s.peer b (n % 4) with
  | none => bad
  | some (_, p) =>
    if write then
      let x := p.qcwOf (8 + s.cgpos b + (if 60 ≤ n then 4 else 0))
      if p.st == .retired || !x.v then bad
      else if x.free = 0 then .error (.wait (.chan q true) s) else pure ()
    else
      let x := b.qcwOf q
      let t := b.tsrOf n
      if !x.v then bad
      else if x.count = 0 then .error (.wait (.chan q false) s)
      else match ((Tab.get b.shapes q).getD [])[0]? with
        | some e => if e == (t.rows, t.cols, t.etype) then pure () else bad
        | none => pure ()

/-- All the channel ports of an instruction, in operand order. -/
def chansC (s : State) : List (Nat × Bool) → Ctl Unit
  | [] => .ok ()
  | e :: rest => do
    chanC s e.1 e.2
    chansC s rest

/-- Whether an instruction in flight names a tile (R38, R48). -/
def Flight.names (f : Flight) (n : Nat) : Bool :=
  [f.d, f.a, f.b, f.c, f.m].any (fun o => (o.map (fun o => o.name)) == some n)
def Block.usesTile (b : Block) (n : Nat) : Bool := b.flights.any (fun f => !f.fin && f.names n)

/-- Whether an instruction in flight reads or writes an instance of a tile (R36). -/
def Block.usesInst (b : Block) (n inst : Nat) : Bool :=
  b.flights.any (fun f => !f.fin &&
    ([f.d, f.a, f.b, f.c, f.m].any (fun o => match o with
        | some o => o.name == n && o.inst == inst
        | none => false)
      || ((f.d.map (fun o => o.name)) == some n && f.src == inst && f.readsOld)
      || (match f.instr, f.b with
        | .tcmpr _ _ _ _, some o => o.name == n && o.before == inst
        | _, _ => false)))

/-- Whether an unfinished TCMPR of the block names a tile as a destination (R185). -/
def Block.cmprOwes (b : Block) (n : Nat) : Bool :=
  b.flights.any (fun f => !f.fin && (match f.instr with
    | .tcmpr _ _ _ _ => (f.d.map (fun o => o.name)) == some n || (f.b.map (fun o => o.name)) == some n
    | _ => false))

/-! The entry (R25, R36, R157). -/

/-- Advancing a destination's instance; its operand, and the instance before. -/
def Block.advanceInst (b : Block) (n : Nat) : Opnd × Nat × Block :=
  let t := b.tsrOf n
  let k := (t.inst + 1) % t.depth
  (⟨n, t, k⟩, t.inst, b.setTsr n (t.setInst k))

def Block.source (b : Block) (r : R6) : Opnd := ⟨r.toNat, b.tsrOf r.toNat, (b.tsrOf r.toNat).inst⟩

/-- Counting a tile instruction for the sampling of its launch's session: whether it is the SPER-th (R372). -/
def State.countSample (s : State) (b : Block) : Bool × State :=
  (s.sessionOf (s.lch b.launch)).foldl (fun (acc : Bool × State) n =>
    let t := acc.2.slotOf n
    let c := (Tab.get t.counts b.core).getD 0 + 1
    let hit := t.sper != 0 && t.sper ≤ c
    (acc.1 || hit, acc.2.modSlot n (fun t => { t with counts := Tab.put t.counts b.core (if hit then 0 else c) }))) (false, s)

/-- What an instruction adds to its entry beyond its operands. -/
structure Entry where
  sc : List Dword := []
  chain : List (Instr × Tsr) := []
  tail : Option Instr := none     -- the last member of a chain
  src : Option Opnd := none       -- the source accumulator of MMA
  cleat : Option Cleat := none
  extra : Nat := 0                -- bytes of the further members of a chain
  deriving DecidableEq, Repr

/-- The waits of an issue: a full table, a shape still owed, a channel port in flight, a destination instance in use (R25, R36, R185). -/
def tileWaits (s : State) (i : Instr) : Ctl Unit :=
  let b := s.me
  let (d, a, bb, c) := tileOps i
  let names := ([d, a, bb, c, maskOp i].filterMap (fun r => r)).map BitVec.toNat
  if 8 ≤ b.flights.length || names.any b.cmprOwes || names.any (fun n => isChan n && b.usesTile n) then stallC else .ok ()

/-- The waits on the instances that the instruction is to write. -/
def instWaits (s : State) (i : Instr) : Ctl Unit :=
  let b := s.me
  let busy := fun (r : Option R6) => match r with
    | some r => !isChan r.toNat && b.usesInst r.toNat (((b.tsrOf r.toNat).inst + 1) % (b.tsrOf r.toNat).depth)
    | none => false
  if (!readsD i && busy (tileOps i).1) || (writesB i && busy (tileOps i).2.2.1) then stallC else .ok ()

/-- Taking the entry: operands bound, destinations advanced, the strip's breakpoints and the sampling counted. -/
def takeEntry (s : State) (i : Instr) (e : Entry) : State :=
  let tail := e.tail.getD i
  let b := s.me
  let (_, a, bb, c) := tileOps i
  let d := (tileOps tail).1
  let pc := b.pc
  let oa := a.map b.source
  let oc := e.src.or (c.map b.source)
  let om := (maskOp tail).map b.source
  let ob := if writesB i then none else bb.map b.source
  let (od, src, b) := match d with
    | none => (none, 0, b)
    | some r =>
      if readsD tail then (some (b.source r), 0, b)
      else let x := b.advanceInst r.toNat; (some x.1, x.2.1, x.2.2)
  let (ob, b) := if writesB i then (match bb with
    | some r => let x := b.advanceInst r.toNat; (some x.1, x.2.2)
    | none => (none, b)) else (ob, b)
  let (id, s) := (s.setMe b).fresh
  let (sample, s) := s.countSample b
  let fl : Flight := { id, pc, instr := i, sc := e.sc, d := od, a := oa, b := ob, c := oc, m := om, src, rm := b.mode.toNat % 4, grant := b.grant
                       chain := e.chain, verd := e.cleat, order := id, ordinal := b.ordinal, sample, issued := s.clock }
  let strip := (b.tsrOf fl.tile).strip
  let s := s.modMe (fun b => { b with flights := b.flights ++ [{ fl with strip }], pc := b.pc + BitVec.ofNat 56 e.extra, strip })
  s.breakStrip s.cur pc.toNat strip.toNat b.ordinal

/-- Issuing a tile instruction: scalars read, checks in order, ports and waits, then its own further checks (pre), then the entry.
Pops of its scalar operands stand (R157). -/
def tileOp (s : State) (f : Form) (i : Instr) (srcs : List R6) (chk : Block → List Dword → List (Bool × Nat))
    (pre : State → List Dword → Ctl (State × Entry)) : State :=
  s.tctl f (do
    let vs ← useRegs s srcs
    tileWaits s i
    match (chk s.me vs).find? (fun e => e.1) with
    | some e => trapC s cILLEGAL (0xC000 + e.2)
    | none => pure ()
    chansC s ((portsWritten i).map (fun n => (n, true)) ++ (portsRead i).map (fun n => (n, false)))
    instWaits s i
    let (s', e) ← pre s vs
    pure (popSrcs (takeEntry s' i e) srcs))

/-- No checks of its own; the scalars are kept. -/
def plainEntry (s : State) (vs : List Dword) : Ctl (State × Entry) := .ok (s, { sc := vs })

/-- A simple tile instruction without scalars. -/
def tileOp0 (s : State) (f : Form) (i : Instr) (chk : Block → List (Bool × Nat)) : State :=
  tileOp s f i [] (fun b _ => chk b) plainEntry

/-- The checks of an element-wise instruction with one type throughout (R156, R187): ok says which types it accepts. -/
def eltChk (b : Block) (f : Form) (ok : Nat → Bool) (d a : R6) (rest : List (R6 × Nat)) (extra : List (Bool × Nat) := []) : List (Bool × Nat) :=
  let ty := tyMod f
  let td := b.tsrOf d.toNat
  let te := fun r => (retype ty (b.tsrOf (BitVec.toNat r))).etype
  let one := fun (r : R6) (n : Nat) =>
    let t := b.tsrOf r.toNat
    (tileBad t r true false || reachBad ty t || !ok (te r) || te r != te d || !sameShape t td, n)
  [(tileBad td d true false || reachBad ty td || !ok (te d), nD), one a nA] ++ rest.map (fun e => one e.1 e.2) ++ extra ++ maskChk b f td

end Sys2Proof.Machine
end

