-- ==== Sys2Proof/Machine/Issue.lean ====
section
/-! DEFINITION. What comes before an instruction's own effect: the slot a core selects, fetching and decoding, the loop body's last
position, and breakpoints (03 R86; 04 R124 to R128; 09 R291; 08 R270; 13 R373). -/

namespace Sys2Proof.Machine

/-! Selection (R291). -/

/-- Whether a block on a core may issue: Ready, with nothing that holds its control lane. -/
def Block.issuable (b : Block) : Bool :=
  b.st == .ready && b.trapP.isNone && !b.laneHeld && !b.exitIssued && !b.stopped && b.cleatWait != some false

/-- The Ready slots of a core: name and block, by slot. -/
def State.readySlots (s : State) (core : Nat) : List (Nat × Block) :=
  sortBy (fun x y => x.2.slot < y.2.slot) ((s.onCore core).filter (fun e => e.2.issuable))

/-- The Ready slots of a core in the order in which it tries them, of which the first whose instruction does not stall issues: promoted ones
by slot; then by priority, then the least recently issued, or round robin by slot index for slots of deterministic launches. -/
def State.order (s : State) (core : Nat) : List Nat :=
  let rs := s.readySlots core
  let prio := fun (e : Nat × Block) => (s.lch e.2.launch).prio
  let nx := (Tab.get s.rrNext core).getD 0
  let before := fun (x y : Nat × Block) =>
    if rs.any (fun e => prio e == prio x && s.detOn e.2) then decide ((x.2.slot + 4 - nx) % 4 < (y.2.slot + 4 - nx) % 4)
    else decide (x.2.lastIssue < y.2.lastIssue)
  let up := rs.filter (fun e => e.2.promoted)
  let rest := rs.filter (fun e => !e.2.promoted)
  (up ++ sortBy (fun x y => prio y < prio x || (prio x == prio y && before x y)) rest).map (fun e => e.1)

/-! Fetching (R86, R128). -/

/-- An instruction held by a loop buffer of an active level. -/
def Block.buffered (b : Block) (pc : Nat) : Option (Word × Word × Word) := b.nest.findSome? (fun l => Tab.get l.buf pc)

/-- The words of the instruction at an address, those its length leaves out as 0; LEN 11 has one (R77, R86). -/
def State.fetchInstr (s : State) (blk : Nat) (pc : VAddr) : Except FetchFault (Word × Word × Word) × State :=
  let b := s.blk blk
  if pc.toNat % 4 != 0 then (.error ⟨⟨cALIGN, 0⟩, pc.toNat⟩, s)
  else match b.buffered pc.toNat with
    | some w => (.ok w, s)
    | none =>
      match s.fetchCode b.master b.core pc.toNat (fun w => extraWords w % 3) with
      | (.error e, s) => (.error e, s)
      | (.ok ws, s) => (.ok (ws.getD 0 0, ws.getD 1 0, ws.getD 2 0), s)

/-- The loop buffers of every active level capture a fetched instruction (R128). -/
def Block.capture (b : Block) (pc : Nat) (w : Word × Word × Word) : Block :=
  { b with nest := b.nest.map (fun (l : Level) => if (Tab.get l.buf pc).isSome then l else { l with buf := Tab.put l.buf pc w }) }

/-- Bytes of an instruction by its first word (R77). -/
def lenBytes (w0 : Word) : Nat := 4 + 4 * (extraWords w0 % 3)

/-- Walking n instructions from an address by their lengths: the address reached, or the fault of a word (LEN 11 as none). -/
def State.skip (s : State) (blk : Nat) : Nat → VAddr → Except (Option FetchFault × VAddr) VAddr × State
  | 0, a => (.ok a, s)
  | n + 1, a =>
    let b := s.blk blk
    match b.buffered a.toNat with
    | some w => s.skip blk n (a + BitVec.ofNat 56 (lenBytes w.1))
    | none =>
      match s.firstWord b.master b.core a.toNat with
      | (.error e, s) => (.error (some ⟨e, a.toNat⟩, a), s)
      | (.ok w0, s) => if extraWords w0 = 3 then (.error (none, a), s) else s.skip blk n (a + BitVec.ofNat 56 (lenBytes w0))

/-- The address of the last position of a level's body; none when a word on the way cannot be read. -/
def State.lastOf (s : State) (blk : Nat) (l : Level) : Option VAddr :=
  match (s.skip blk l.lenm1 l.start).1 with
  | .ok a => some a
  | .error _ => none

/-- Whether an address is the last position of the innermost level's body (R125). -/
def State.atLast (s : State) (blk : Nat) (pc : VAddr) : Bool :=
  match (s.blk blk).nest.getLast? with
  | none => false
  | some l => pc.toNat - l.start.toNat ≤ 12 * l.lenm1 && l.start.toNat ≤ pc.toNat && s.unslotted.lastOf blk l == some pc

def isEndlp : Instr → Bool
  | .endlp => true
  | _ => false

/-! Strip boundaries (R373). -/

/-- Whether a stop lands before an instruction: TSHAPE, TBIND, LOOPN, ENDLP, a taken BRKL, EXIT. -/
def Block.isBoundary (b : Block) (i : Instr) : Bool :=
  match i with
  | .tshape _ _ _ _ | .tbind _ _ _ | .loopn _ _ _ | .endlp | .exit _ => true
  | .brkl n k => b.cond k.toNat != n
  | _ => false

/-- The instruction at a block's pc, as far as it can be fetched and decoded. -/
def State.peek (s : State) (blk : Nat) : Option Instr :=
  match (s.unslotted.fetchInstr blk (s.blk blk).pc).1 with
  | .error _ => none
  | .ok (w0, w1, w2) => match decodeWords w0 w1 w2 with
    | .ok i => some i
    | .error _ => none

/-- Whether a pending stop holds a block at its next instruction (R373). -/
def State.stopHere (s : State) (blk : Nat) : Bool :=
  let b := s.blk blk
  b.stopReq.isSome && !b.intrap && b.issuable && ((s.peek blk).map b.isBoundary).getD false

/-- The majors of tile, matrix, map and collective instructions. -/
def isTileMajor (m : Nat) : Bool := 0x20 ≤ m && m ≤ 0x3E

/-! Issue. -/

/-- What an issue comes to: a stop in the way, nothing more (a trap taken), an instruction to execute, or an illegal encoding with its
DETAIL. -/
inductive Issued where
  | held
  | done (s : State)
  | run (i : Instr) (s : State)
  | illegal (detail : BitVec 16) (s : State)

/-- Issuing the next instruction of a block. -/
def State.issueOf (s : State) (blk : Nat) : Issued :=
  let s : State := { s with cur := blk }
  let b := s.blk blk
  match b.dueTrap with
  | some t => .done ((s.setBlk blk { b with dueTrap := none }).takeTrap blk t)
  | none =>
    if s.stopHere blk then .held
    else match s.fetchInstr blk b.pc with
      | (.error e, s) => .done (s.takeTrap blk { cause := e.fault.cause, detail := e.fault.detail, taddr := taddrWord 0 e.va })
      | (.ok (w0, w1, w2), s) =>
        let s := s.modBlk blk (fun b => b.capture b.pc.toNat (w0, w1, w2))
        match decodeWords w0 w1 w2 with
        | .error n => .illegal (illegalDetail n) s
        | .ok i =>
          let t : TrapInfo := { cause := cILLEGAL, detail := 0x4802 }
          if !isEndlp i && s.atLast blk b.pc then
            .done (if isTileMajor (fld w0.toNat 7 2) then s.raiseLate blk t else s.takeTrap blk t)
          else .run i s

/-- A restored block as its first instruction issues, or a replayed one goes on: its restore is over, and the frame it came from is free (R306, R355;
log 77). -/
def State.begun (s : State) (blk : Nat) : State :=
  let b := s.blk blk
  if b.restoring then
    let turned := fun (fs : List Flight) => fs.map (fun (f : Flight) => f.turned s.clock)
    (s.dropFrame b).modBlk blk (fun b => { b with restoring := false, frame := none, passed := none, flights := turned b.flights, recs := turned b.recs })
  else s

/-- A block after its instruction has issued: the order of the core's slots moves on. -/
def State.issued (s : State) (blk : Nat) : State :=
  let (n, s) := s.fresh
  let b := s.blk blk
  ({ s with rrNext := Tab.put s.rrNext b.core ((b.slot + 1) % 4) } : State).modBlk blk (fun b =>
    { b with lastIssue := n, promoted := false, readyAt := s.clock, defWait := none, walkWait := none })

/-- One lane-function instruction of a tile instruction in flight (R89, R91): its word fetched and decoded. -/
def State.issueLane (s : State) (blk id : Nat) : Issued :=
  let s : State := { s with cur := blk, curFlight := id }
  match s.running with
  | none => .done s
  | some (f, x) =>
    if x.els = [] then .done s
    else
      let b := s.blk blk
      let (r, c) := x.els.getD 0 (0, 0)
      let taddr := taddrWord 0 x.lpc.toNat
      match s.fetchCode b.master b.core x.lpc.toNat (fun _ => 0) with
      | (.error e, s) => .done (s.laneTrap f { cls := 2, cause := e.fault.cause, detail := e.fault.detail, r, c, taddr, named := false })
      | (.ok ws, s) => match decodeLane (ws.headD 0) with
        | .error n => .done (s.laneTrap f { cls := 2, cause := cILLEGAL, detail := 0x8000 + n, r, c, taddr })
        | .ok i => .run i s

end Sys2Proof.Machine
end

