-- ==== Sys2Proof/Machine/Integer.lean ====
section
/-! DEFINITION. Integer arithmetic of the control lane (04 R110 to R115). -/

namespace Sys2Proof.Machine

/-- The outcome of an instruction that always gives a next state. -/
abbrev Out := Host.Outcome State Fault Refusal

/-- sat_i64 of an exact result with .sat, else the wrapped one (R110). -/
def wrapOrSat (sat : Bool) (wrapped : Dword) (exact : Int) : Dword := if sat then BitVec.ofNat 64 (satBits true 64 exact) else wrapped

/-- DIV and REM with the corner cases of R111. -/
def divS (a b : Dword) : Dword := if b = 0 then BitVec.allOnes 64 else a.sdiv b
def divU (a b : Dword) : Dword := if b = 0 then BitVec.allOnes 64 else a.udiv b
def remS (a b : Dword) : Dword := if b = 0 then a else a.srem b
def remU (a b : Dword) : Dword := if b = 0 then a else a.umod b

/-- Bits [127:64] of a signed and of an unsigned product (R110). -/
def mulHi (a b : Dword) : Dword := BitVec.ofInt 64 (a.toInt * b.toInt / (2 ^ 64 : Nat))
def mulHiN (a b : Dword) : Dword := BitVec.ofNat 64 (a.toNat * b.toNat / 2 ^ 64)

/-- The low six bits of a shift amount (R110). -/
def amount (b : Dword) : Nat := b.toNat % 64

/-- The width that field B of SEXT and ZEXT selects (R78). -/
def extWidth (b : R6) : Nat := if b = 0 then 8 else if b = 1 then 16 else 32

/-- The condition of CMP (R114). -/
def cmpHolds (cc : R6) (a b : Dword) : Bool :=
  if cc = 0 then a == b else if cc = 1 then a != b else if cc = 2 then a.slt b else if cc = 3 then b.sle a
  else if cc = 4 then a.ult b else b.ule a

/-! R110. -/

def execAdd (f : Form) (d a b : R6) (s : State) : Out :=
  .next (scalarOp2 s f d a b (fun x y => wrapOrSat f.mods.sat (x + y) (x.toInt + y.toInt)))
def execSub (f : Form) (d a b : R6) (s : State) : Out :=
  .next (scalarOp2 s f d a b (fun x y => wrapOrSat f.mods.sat (x - y) (x.toInt - y.toInt)))
def execMul (f : Form) (d a b : R6) (s : State) : Out :=
  .next (scalarOp2 s f d a b (fun x y => wrapOrSat f.mods.sat (x * y) (x.toInt * y.toInt)))
def execMulh (f : Form) (d a b : R6) (s : State) : Out := .next (scalarOp2 s f d a b mulHi)
def execMulhn (f : Form) (d a b : R6) (s : State) : Out := .next (scalarOp2 s f d a b mulHiN)
def execDiv (f : Form) (d a b : R6) (s : State) : Out := .next (scalarOp2 s f d a b divS)
def execDivn (f : Form) (d a b : R6) (s : State) : Out := .next (scalarOp2 s f d a b divU)
def execRem (f : Form) (d a b : R6) (s : State) : Out := .next (scalarOp2 s f d a b remS)
def execRemn (f : Form) (d a b : R6) (s : State) : Out := .next (scalarOp2 s f d a b remU)
def execAnd (f : Form) (d a b : R6) (s : State) : Out := .next (scalarOp2 s f d a b (fun x y => x &&& y))
def execOr (f : Form) (d a b : R6) (s : State) : Out := .next (scalarOp2 s f d a b (fun x y => x ||| y))
def execXor (f : Form) (d a b : R6) (s : State) : Out := .next (scalarOp2 s f d a b (fun x y => x ^^^ y))
def execAndn (f : Form) (d a b : R6) (s : State) : Out := .next (scalarOp2 s f d a b (fun x y => x &&& ~~~y))
def execShl (f : Form) (d a b : R6) (s : State) : Out := .next (scalarOp2 s f d a b (fun x y => x <<< amount y))
def execShr (f : Form) (d a b : R6) (s : State) : Out := .next (scalarOp2 s f d a b (fun x y => x >>> amount y))
def execSra (f : Form) (d a b : R6) (s : State) : Out := .next (scalarOp2 s f d a b (fun x y => x.sshiftRight (amount y)))
def execRotr (f : Form) (d a b : R6) (s : State) : Out := .next (scalarOp2 s f d a b (fun x y => x.rotateRight (amount y)))
def execMin (f : Form) (d a b : R6) (s : State) : Out := .next (scalarOp2 s f d a b (fun x y => if x.sle y then x else y))
def execMax (f : Form) (d a b : R6) (s : State) : Out := .next (scalarOp2 s f d a b (fun x y => if x.sle y then y else x))
def execMinn (f : Form) (d a b : R6) (s : State) : Out := .next (scalarOp2 s f d a b (fun x y => if x ≤ y then x else y))
def execMaxn (f : Form) (d a b : R6) (s : State) : Out := .next (scalarOp2 s f d a b (fun x y => if x ≤ y then y else x))

/-! R112. -/

def execAddI (f : Form) (imm : BitVec 12) (d a : R6) (s : State) : Out := .next (scalarOp1 s f d a (fun x => x + immRI f imm))
def execAndI (f : Form) (imm : BitVec 12) (d a : R6) (s : State) : Out := .next (scalarOp1 s f d a (fun x => x &&& immRI f imm))
def execOrI (f : Form) (imm : BitVec 12) (d a : R6) (s : State) : Out := .next (scalarOp1 s f d a (fun x => x ||| immRI f imm))
def execXorI (f : Form) (imm : BitVec 12) (d a : R6) (s : State) : Out := .next (scalarOp1 s f d a (fun x => x ^^^ immRI f imm))
def execShlI (f : Form) (n : R6) (d a : R6) (s : State) : Out := .next (scalarOp1 s f d a (fun x => x <<< n.toNat))
def execShrI (f : Form) (n : R6) (d a : R6) (s : State) : Out := .next (scalarOp1 s f d a (fun x => x >>> n.toNat))
def execSraI (f : Form) (n : R6) (d a : R6) (s : State) : Out := .next (scalarOp1 s f d a (fun x => x.sshiftRight n.toNat))
def execRotrI (f : Form) (n : R6) (d a : R6) (s : State) : Out := .next (scalarOp1 s f d a (fun x => x.rotateRight n.toNat))

/-! R113. -/

def execClz (f : Form) (d a : R6) (s : State) : Out := .next (scalarOp1 s f d a (fun x => BitVec.ofNat 64 (clzBits 64 x.toNat)))
def execCtz (f : Form) (d a : R6) (s : State) : Out := .next (scalarOp1 s f d a (fun x => BitVec.ofNat 64 (ctzBits 64 x.toNat)))
def execPopc (f : Form) (d a : R6) (s : State) : Out := .next (scalarOp1 s f d a (fun x => BitVec.ofNat 64 (popBits 64 x.toNat)))
def execSext (f : Form) (d a b : R6) (s : State) : Out :=
  .next (scalarOp1 s f d a (fun x => BitVec.ofInt 64 (sx (extWidth b) x.toNat)))
def execZext (f : Form) (d a b : R6) (s : State) : Out :=
  .next (scalarOp1 s f d a (fun x => BitVec.ofNat 64 (x.toNat % 2 ^ extWidth b)))
def execMov (f : Form) (d a : R6) (s : State) : Out := .next (scalarOp1 s f d a (fun x => x))

/-! R114, R115. -/

def execCmp (f : Form) (cc : R6) (d a b : R6) (s : State) : Out :=
  .next (condOp s f [a, b] d (fun vs => .ok (cmpHolds cc (vs.getD 0 0) (vs.getD 1 0), 0)))

/-- Both sources are read, and popped, whichever is selected (R114). -/
def execSel (f : Form) (n : Bool) (k : BitVec 3) (d a b : R6) (s : State) : Out :=
  .next (scalarOp s f [a, b] d (fun vs =>
    if s.me.busyK k.toNat then stallC
    else .ok (if s.me.cond k.toNat != n then vs.getD 0 0 else vs.getD 1 0, 0)))

/-- LI; F 2 keeps the low half of the old destination, read at issue (R115). -/
def execLi (f : Form) (h : R6) (d : R6) (s : State) : Out :=
  .next (if h = 2 then
      scalarOp s f [d] d (fun vs => .ok (BitVec.ofNat 64 (f.lit.toNat * 2 ^ 32 + (vs.getD 0 0).toNat % 2 ^ 32), 0))
    else scalarOp s f [] d (fun _ => .ok (if h = 0 then f.lit.signExtend 64 else f.lit.zeroExtend 64, 0)))

end Sys2Proof.Machine
end

