-- ==== Sys2Proof/Machine/ScalarFp.lean ====
section
/-! DEFINITION. Floating point of the control lane (04 R116 to R120). -/

namespace Sys2Proof.Machine

/-- FADD to FMAX (R116, R117): ABN operands trap first, then enabled flags. -/
def fpArith (s : State) (f : Form) (p : Bool) (d a b : R6) (g : RMode → FVal → FVal → FVal × Nat) : State :=
  scalarOp s f [a, b] d (fun vs => do
    let x := fpBits p (vs.getD 0 0)
    let y := fpBits p (vs.getD 1 0)
    if isAbn (fpCode p) x || isAbn (fpCode p) y then trapC s cVUSE
    let (r, fl) := deliverFp (fpOf p) (modeOf s.me f) false (g (modeOf s.me f) ((fpOf p).value x) ((fpOf p).value y))
    flagsC s fl
    pure (BitVec.ofNat 64 r, fl))

def execFadd (f : Form) (p : Bool) (d a b : R6) (s : State) : Out := .next (fpArith s f p d a b addVal)
def execFsub (f : Form) (p : Bool) (d a b : R6) (s : State) : Out := .next (fpArith s f p d a b (fun md x y => addVal md x y.negate))
def execFmul (f : Form) (p : Bool) (d a b : R6) (s : State) : Out := .next (fpArith s f p d a b (fun _ => mulVal))
def execFdiv (f : Form) (p : Bool) (d a b : R6) (s : State) : Out := .next (fpArith s f p d a b (fun _ => divVal))
def execFmin (f : Form) (p : Bool) (d a b : R6) (s : State) : Out := .next (fpArith s f p d a b (fun _ => minMaxVal false))
def execFmax (f : Form) (p : Bool) (d a b : R6) (s : State) : Out := .next (fpArith s f p d a b (fun _ => minMaxVal true))

/-- The comparison code of cmpVal for FCMP's F[2:0]: EQ, LT, LE, UN (R118). -/
def fcmpCode (cc : BitVec 3) : Nat := if cc = 0 then 0 else if cc = 1 then 2 else if cc = 2 then 3 else 6

def execFcmp (f : Form) (p : Bool) (cc : BitVec 3) (d a b : R6) (s : State) : Out :=
  .next (condOp s f [a, b] d (fun vs => do
    let x := fpBits p (vs.getD 0 0)
    let y := fpBits p (vs.getD 1 0)
    if isAbn (fpCode p) x || isAbn (fpCode p) y then trapC s cVUSE
    let (r, fl) := cmpVal (fcmpCode cc) ((fpOf p).value x) ((fpOf p).value y)
    flagsC s fl
    pure (r, fl)))

/-- A result of a type as a 64-bit register value (R119): an iW result sign-extended, every other zero-extended. -/
def scalarOf (t : Ty) (bits : Nat) : Dword :=
  match t with
  | .int true w => BitVec.ofInt 64 (sx w bits)
  | _ => BitVec.ofNat 64 bits

/-- FCVT (R119, R60, R72). -/
def execFcvt (f : Form) (dt st : R6) (d a : R6) (s : State) : Out :=
  .next (scalarOp s f [a] d (fun vs =>
    let src := tyOf st.toNat 8
    let dst := tyOf dt.toNat 8
    let x := (vs.getD 0 0).toNat % 2 ^ src.width
    if isAbn st.toNat x then
      match abnOf dt.toNat with
      | some r => .ok (BitVec.ofNat 64 r, 0)
      | none => trapC s cVCONV
    else do
      let (r, fl) := convert src dst (modeOf s.me f) f.mods.sat x
      flagsC s fl
      pure (scalarOf dst r, fl)))

/-- The class mask of an operand (R120). -/
def fpClass (p : Bool) (bits : Nat) : Nat :=
  let fm := fpOf p
  let abn := b2n (isAbn (fpCode p) bits) * 2 ^ 10
  match fm.value bits with
  | .inf n => if n then 1 else 2 ^ 7
  | .nan sig => (if sig then 2 ^ 8 else 2 ^ 9) + abn
  | .fin n m _ =>
    if m = 0 then (if n then 2 ^ 3 else 2 ^ 4)
    else if fld bits (fm.eb + fm.fb - 1) fm.fb = 0 then (if n then 2 ^ 2 else 2 ^ 5)
    else if n then 2 else 2 ^ 6

def execFclass (f : Form) (p : Bool) (d a : R6) (s : State) : Out :=
  .next (scalarOp1 s f d a (fun x => BitVec.ofNat 64 (fpClass p (fpBits p x))))

end Sys2Proof.Machine
end

