-- ==== Sys2Proof/Machine/Control.lean ====
section
/-! DEFINITION. Branches, jumps, calls and LOOPN nests (04 R121 to R128). -/

namespace Sys2Proof.Machine

/-- The target of a relative transfer (R79, R121, R122). -/
def relTarget (pc : VAddr) {n : Nat} (off : BitVec n) : VAddr := pc + (off.signExtend 56 <<< 2)

def Block.goto (b : Block) (a : VAddr) : Block := { b with pc := a }
def State.goto (s : State) (a : VAddr) : State := s.modMe (fun b => b.goto a)

/-- Whether a target lies in a level's body (R127). A body whose words cannot all be read is taken up to the word that cannot (log 23). -/
def State.inBody (s : State) (l : Level) (a : VAddr) : Bool :=
  let last := match (s.skip s.cur l.lenm1 l.start).1 with
    | .ok x => x
    | .error e => e.2
  l.start.toNat ≤ a.toNat && a.toNat ≤ last.toNat

/-- A taken branch: its target inside the innermost active body, if a level is active (R127). -/
def branchTo (s : State) (a : VAddr) : Ctl State :=
  match s.me.nest.getLast? with
  | some l => if s.inBody l a then .ok (s.goto a) else trapC s cILLEGAL 0x4804
  | none => .ok (s.goto a)

/-- A conditional branch (R121). -/
def branch (s : State) (f : Form) (off : BitVec 18) (taken : Bool) : Ctl State :=
  if taken then branchTo s (relTarget s.me.pc off) else .ok (s.advance f)

/-- BR, BRZ and BNZ on a register (R121). -/
def branchReg (s : State) (f : Form) (off : BitVec 18) (a : R6) (g : Dword → Bool) : State :=
  s.run f (do
    let v ← useReg s a
    let s' ← branch s f off (g v)
    pure (popSrcs s' [a]))

/-- An unconditional transfer is refused while a level is active (R127). -/
def noLevel (s : State) : Ctl Unit := needC s s.me.nest.isEmpty 0x4804

def execBr (f : Form) (off : BitVec 18) (n : Bool) (k : BitVec 3) (s : State) : Out :=
  .next (s.run f (if s.me.busyK k.toNat then stallC else branch s f off (s.me.cond k.toNat != n)))
def execBrz (f : Form) (off : BitVec 18) (a : R6) (s : State) : Out := .next (branchReg s f off a (fun v => v == 0))
def execBnz (f : Form) (off : BitVec 18) (a : R6) (s : State) : Out := .next (branchReg s f off a (fun v => v != 0))

def execJmp (f : Form) (off : BitVec 24) (s : State) : Out :=
  .next (s.run f (do
    noLevel s
    pure (s.goto (relTarget s.me.pc off))))

/-- CALL links in s63 (R122). -/
def execCall (f : Form) (off : BitVec 24) (s : State) : Out :=
  .next (s.run f (do
    noLevel s
    dstReady s 63
    pure ((s.modMe (fun b => b.setReg 63 (BitVec.ofNat 64 (s.nextPc f).toNat))).goto (relTarget s.me.pc off))))

/-- The target of JR or RET: bits [63:56] ignored; ALIGN unless a multiple of 4 (R122, R123). -/
def jumpTarget (s : State) (v : Dword) : Ctl VAddr :=
  let a : VAddr := BitVec.ofNat 56 v.toNat
  if a.toNat % 4 = 0 then .ok a else trapC s cALIGN 0 (taddrWord 0 a.toNat)

def execJr (f : Form) (d a : R6) (s : State) : Out :=
  .next (s.run f (do
    noLevel s
    let v ← useReg s a
    dstReady s d
    let t ← jumpTarget s v
    let s' ← putDst s d (BitVec.ofNat 64 (s.nextPc f).toNat)
    pure ((popSrcs s' [a]).goto t)))

def execRet (f : Form) (s : State) : Out :=
  .next (s.run f (do
    noLevel s
    let v ← useReg s 63
    let t ← jumpTarget s v
    pure (s.goto t)))

/-- The address after n instructions from one, as LOOPN with count 0 and BRKL find it (R124, R126): the trap of a word that cannot be
read, or of LEN 11. -/
def skipC (s : State) (n : Nat) (a : VAddr) : Ctl (VAddr × State) :=
  match s.skip s.cur n a with
  | (.ok x, s) => .ok (x, s)
  | (.error (some e, _), s) => trapC s e.fault.cause e.fault.detail (taddrWord 0 e.va)
  | (.error (none, x), s) => trapC s cILLEGAL 0x8000 (taddrWord 0 x.toNat)

/-- LOOPN (R124, R127). -/
def execLoopn (cnt : BitVec 13) (len : BitVec 5) (a : R6) (s : State) : Out :=
  .next (s.finish (do
    needC s (!s.me.intrap) 0x4805
    let v ← useReg s a
    let count := if a = 0 then cnt.toNat else min v.toNat (2 ^ 32 - 1)
    let start := s.nextPc .w32
    if count = 0 then
      let (x, s) ← skipC s (len.toNat + 1) start
      pure ((popSrcs s [a]).goto x)
    else
      needC s (s.me.nest.length < 6) 0x4803
      let s := s.modMe (fun b => { b with nest := b.nest ++ [{ start, lenm1 := len.toNat, count, index := 0 }] })
      pure ((popSrcs s [a]).goto start)))

/-- ENDLP (R125). -/
def execEndlp (s : State) : Out :=
  .next (s.finish (do
    let b := s.me
    match b.nest.getLast? with
    | none => trapC s cILLEGAL 0x4801
    | some l =>
      needC s (s.atLast s.cur b.pc) 0x4801
      if l.index + 1 < l.count then
        pure (s.setMe { b with nest := b.nest.dropLast ++ [{ l with index := l.index + 1 }], pc := l.start })
      else pure (s.setMe { b with nest := b.nest.dropLast, pc := s.nextPc .w32 })))

/-- BRKL (R126): it leaves the innermost level after that level's ENDLP. A word on the way that cannot be fetched, or has LEN 11, traps it as R124
says of LOOPN (log 86). -/
def execBrkl (n : Bool) (k : BitVec 3) (s : State) : Out :=
  .next (s.finish (do
    let b := s.me
    match b.nest.getLast? with
    | none => trapC s cILLEGAL 0x4806
    | some l =>
      if b.busyK k.toNat then stallC
      if b.cond k.toNat != n then
        let (x, s) ← skipC s (l.lenm1 + 1) l.start
        pure (s.modMe (fun b => { b with nest := b.nest.dropLast, pc := x }))
      else pure (s.advance .w32)))

end Sys2Proof.Machine
end

