-- ==== Sys2Proof/Machine/Memory.lean ====
section
/-! DEFINITION. Scalar loads and stores, and atomics (04 R129 to R134). An access whose destination is a queue port is performed as its
instruction issues, since the push needs its value (log 24); every other one by ACCESS_PERFORMED. -/

namespace Sys2Proof.Machine

/-- Whether the control lane has an earlier atomic on these bytes still to reach its port, or an earlier load of them still to be performed
(R242). -/
def Block.owes (b : Block) (k n : Nat) : Bool :=
  b.pend.any (fun p => p.agent == .c && ((p.isRmw && p.at_ k n) || (p.isRead && !p.isGet && p.keys.any (fun j => k < j + p.size && j < k + n))))

/-- The read that an instruction at the block's pc has asked another die or device for. -/
def Block.asked (b : Block) (va n : Nat) : Option Pend :=
  b.pend.find? (fun p => p.isGet && p.agent == .c && p.addr == va && p.size == n && p.pc == b.pc)

/-- A read of the control lane whose value its instruction needs to issue, an acquire or not: on this die's side at once, else by a request
whose reply it awaits (R338). -/
def readNow (s : State) (va n sc : Nat) (acq alloc : Bool) : Ctl (List Byte × State) := do
  let (x, s) ← accessC s { r := true } va n
  awaitDeferred s x.rkey n
  if s.me.owes x.rkey n then stallC
  let core := s.me.core
  let acquired := fun (s : State) => if acq then s.acquire s.cur sc else s
  if (s.linkTo (dieOf core) x.rkey).isNone || (acquired s).l1Has core sc x.c x.rkey n then
    match (acquired s).gRead core sc x.c alloc x.rkey n with
    | (.error e, _) => trapC s cPOISON e (taddrWord 0 va)
    | (.ok bs, s) => pure (s.me.own .c s.nextId x.rkey bs, s)
  else match s.me.asked va n with
    | none => .error (.hold (addPend s { id := 0, agent := .c, kind := .get n, addr := va, pas := [x.rkey], cacheable := x.c, scope := sc }))
    | some p =>
      match p.bad, p.got with
      | some e, _ => trapC (s.modMe (fun b => b.dropPend p.id)) e.1 e.2 (taddrWord 0 va)
      | none, none => stallC
      | none, some bs =>
        if p.sent || p.owes then stallC
        else
          pure (bs, (acquired (s.modMe (fun b => b.dropPend p.id))).l1Renew core sc x.c alloc x.rkey n)

/-- A value bound for a queue port: the push with the state the access leaves; a refused push leaves the access undone (R108). -/
def pushValue (s0 s : State) (d : R6) (v : Dword) : Ctl State :=
  match putDst s d v with
  | .ok s' => .ok s'
  | .error _ => putDst s0 d v

/-- A load into a queue port. -/
def loadPort (s : State) (d : R6) (va : Nat) (sz : BitVec 3) (m : Mods) : Ctl State := do
  let n := 2 ^ (sz.toNat % 4)
  let (bs, s') ← readNow s va n m.scope.toNat (m.ord = 1) true
  pushValue s (s'.watch s.cur va n false) d (loadExt sz (ofLe bs))

/-- A returning atomic into a queue port. One on this die's side executes as it issues, and a refused push leaves it undone; for one of another
die or device the request takes the instruction's place, and its answer completes it (log 24). -/
def atomicPort (s : State) (f : Form) (op : RmwOp) (w : Bool) (d : R6) (va : Nat) (x y : Dword) (srcs : List R6) : Ctl State := do
  let n := if w then 4 else 8
  let (t, s') ← atomicChk s n va true
  let (ord, sc) := atomicMods f
  let p : Pend := { id := s'.nextId, agent := .c, kind := .rmw op n x y 0 true, addr := va, pas := t.keys, keys := t.keys, cacheable := t.c
                    ord, scope := sc, seq := s'.nextId }
  if (s'.linkTo (dieOf s'.me.core) t.rkey).isSome then
    .error (.hold (addPend s' { p with port := some d, pops := srcs.filter popPort, len := f.bytes }))
  else if !s'.portFree s'.cur p t.rkey || s'.noPlace s'.me p t.rkey
    || (2 ≤ ord && (!s'.seenDone s'.me sc || s'.me.pend.any (fun q => (q.agent == .c || q.ordC) && q.done < sc))) then stallC
  else
    let s1 := if 2 ≤ ord && sc = 11 then s'.persistSeen s'.me else s'
    let s' := (addPend s1 { p with kind := .rmw op n x y 0 false }).portExec s'.cur p t.rkey
    match s'.me.pendOf p.id with
    | none => stallC
    | some q =>
      let r ← pushValue s (s'.settle s'.cur q (q.got.getD [])) d (BitVec.ofNat 64 (ofLe (q.got.getD [])))
      pure (popSrcs r srcs)

/-- LD (R129, R130). -/
def execLd (f : Form) (imm : BitVec 9) (sz : BitVec 3) (d a : R6) (s : State) : Out :=
  .next (s.ctl f (do
    let base ← useReg s a
    dstReady s d
    let va := addrM f base imm (2 ^ (sz.toNat % 4))
    let s' ← if isPort d then loadPort s d va sz f.mods else loadC s d va sz f.mods
    pure (popIssued s' [a])))

/-- ST (R129, R130): the low bytes of s[D]. -/
def execSt (f : Form) (imm : BitVec 9) (sz : BitVec 3) (d a : R6) (s : State) : Out :=
  .next (s.ctl f (do
    let base ← useReg s a
    let v ← useReg s d
    let n := 2 ^ (sz.toNat % 4)
    let s' ← storeC s (addrM f base imm n) n v.toNat f.mods
    pure (popIssued s' [a, d])))

/-- LDS (R131). -/
def execLds (f : Form) (imm : BitVec 9) (sz : BitVec 3) (d a : R6) (s : State) : Out :=
  .next (s.ctl f (do
    let base ← useReg s a
    dstReady s d
    let v ← loadSharedC s (addrM f base imm (2 ^ (sz.toNat % 4))) sz
    let s' ← putDst s d v
    pure (popSrcs s' [a])))

/-- STS (R131). -/
def execSts (f : Form) (imm : BitVec 9) (sz : BitVec 3) (d a : R6) (s : State) : Out :=
  .next (s.ctl f (do
    let base ← useReg s a
    let v ← useReg s d
    let n := 2 ^ (sz.toNat % 4)
    let s' ← storeSharedC s (addrM f base imm n) n v.toNat
    pure (popSrcs s' [a, d])))

/-- An AMO: sources read, the atomic issued, the ports popped; without a destination it returns nothing (R132). -/
def amo (s : State) (f : Form) (op : RmwOp) (w : Bool) (d a b : R6) : State :=
  s.ctl f (do
    let va ← useReg s a
    let x ← useReg s b
    dstReady s d
    if isPort d then atomicPort s f op w d va.toNat x 0 [a, b]
    else
      let s' ← atomicC s f op w d va.toNat x 0 (d != 0)
      pure (popIssued s' [a, b]))

def execAmoAdd (f : Form) (w : Bool) (d a b : R6) (s : State) : Out := .next (amo s f .add w d a b)
def execAmoAnd (f : Form) (w : Bool) (d a b : R6) (s : State) : Out := .next (amo s f .and w d a b)
def execAmoOr (f : Form) (w : Bool) (d a b : R6) (s : State) : Out := .next (amo s f .or w d a b)
def execAmoXor (f : Form) (w : Bool) (d a b : R6) (s : State) : Out := .next (amo s f .xor w d a b)
def execAmoMin (f : Form) (w : Bool) (d a b : R6) (s : State) : Out := .next (amo s f .min w d a b)
def execAmoMax (f : Form) (w : Bool) (d a b : R6) (s : State) : Out := .next (amo s f .max w d a b)
def execAmoMinn (f : Form) (w : Bool) (d a b : R6) (s : State) : Out := .next (amo s f .minn w d a b)
def execAmoMaxn (f : Form) (w : Bool) (d a b : R6) (s : State) : Out := .next (amo s f .maxn w d a b)
def execAmoSwap (f : Form) (w : Bool) (d a b : R6) (s : State) : Out := .next (amo s f .swap w d a b)

/-- CAS (R133): compared with s[B], replaced by s[C]; always returning. -/
def execCas (f : Form) (w : Bool) (d a b : R6) (s : State) : Out :=
  .next (s.ctl f (do
    let c := f.mods.c
    let va ← useReg s a
    let x ← useReg s b
    let y ← useReg s c
    dstReady s d
    if isPort d then atomicPort s f .cas w d va.toNat x y [a, b, c]
    else
      let s' ← atomicC s f .cas w d va.toNat x y true
      pure (popIssued s' [a, b, c])))

end Sys2Proof.Machine
end

