-- ==== Sys2Proof/Machine/Sync.lean ====
section
/-! DEFINITION. Fences, drains, barriers and waits (04 R135 to R142). A fence, a drain or a barrier that must wait leaves the state as it
was, and issues again. -/

namespace Sys2Proof.Machine

/-- Whether every access of an agent issued so far, and every one ordered before them (R246), is performed at a scope. -/
def Block.performed (b : Block) (a : Agent) (sc : Nat) : Bool :=
  b.pend.all (fun p => p.isGet || !(p.agent == a || (a == .c && p.ordC)) || sc ≤ p.done)

/-- Whether every earlier tile instruction has completed. -/
def Block.drained (b : Block) : Bool := b.flights.all (fun f => f.fin)

/-- The accesses of T so far, ordered before the control lane's later ones (R246). -/
def Block.orderT (b : Block) : Block := { b with pend := b.pend.map (fun p => if p.agent == .t then { p with ordC := true } else p) }

/-- A fence whose wait is over, that for the writes its block's acquires have ordered before its accesses included: the copies narrower than its
scope are discarded (R135, R246); one of T's accesses orders those before the control lane's later ones; at .persist what is ordered before
it is durable (R258, R334). -/
def fenceC (s : State) (f : Form) (sc : BitVec 4) (ofT done : Bool) : State :=
  s.ctl f (if done && s.seenDone s.me sc.toNat then
      .ok (((if sc = 11 then s.persistSeen s.me else s).modMe (if ofT then Block.orderT else id)).acquire s.cur sc.toNat) else stallC)

def execFenceCt (f : Form) (sc : BitVec 4) (s : State) : Out := .next (fenceC s f sc false (s.me.performed .c sc.toNat))
def execFenceTc (f : Form) (sc : BitVec 4) (s : State) : Out :=
  .next (fenceC s f sc true (s.me.drained && s.me.performed .t sc.toNat))
def execFenceAll (f : Form) (sc : BitVec 4) (s : State) : Out :=
  .next (fenceC s f sc true (s.me.drained && s.me.performed .t sc.toNat && s.me.performed .c sc.toNat))

/-- FENCE.TT holds nothing up but later tile instructions (R135): a mark in the order of the block's instructions. -/
def execFenceTt (f : Form) (sc : BitVec 4) (s : State) : Out :=
  .next (s.ctl f (
    let (n, s) := s.fresh
    .ok (s.modMe (fun b => { b with fences := b.fences ++ [(n, sc.toNat)] }))))

/-- Whether every memory-side reduction of the block has been accepted by its memory port (R136). -/
def Block.reduced (b : Block) : Bool :=
  b.pend.all (fun p => p.agent != .t || p.pas == [] || (match p.kind with
    | .rmw _ _ _ _ _ _ => false
    | _ => true))

/-- TDRAIN (R136). -/
def execTdrain (f : Form) (s : State) : Out := .next (s.ctl f (if s.me.drained && s.me.reduced then .ok s else stallC))

/-- BAR (R137, R139). A block already counted as arrived only waits again (R17). Its port is popped when it completes (R107). -/
def execBar (f : Form) (sc : BitVec 4) (a : R6) (s : State) : Out :=
  .next (s.run f (do
    let b := s.me
    if b.arrived.isSome then .error (.wait (.bar sc) s)
    let mask ← if sc = 8 then useReg s a else pure 0
    if sc = 8 && !bitOf mask.toNat s.devid.toNat then trapC s cQPORT 0x0B01
    if !(b.drained && b.performed .c sc.toNat && b.performed .t sc.toNat && s.seenDone b sc.toNat) then stallC
    .error (.wait (.bar sc) (s.modMe (fun b =>
      { b with arrived := some { sc, mask, src := if sc = 8 then some a else none, len := f.bytes } })))))

/-- The conditions of WAITA (R140): 0 eq, 1 ne, 2 gen. -/
def waitaHolds (cmp : Nat) (m v : Dword) : Bool := if cmp = 0 then m == v else if cmp = 1 then m != v else v.ule m

/-- WAITA's read of its dword, an acquire at .dev once it satisfies the condition (R140). -/
def waitaRead (s : State) (va : Nat) : Ctl (Dword × State) := do
  let (bs, s) ← readNow s va 8 7 false false
  pure (BitVec.ofNat 64 (ofLe bs), s)

/-- WAITA: at once, or the block waits on the address. -/
def waita (s : State) (f : Form) (cmp : Nat) (d a b : R6) : State :=
  s.ctl f (do
    let va ← useReg s a
    let v ← useReg s b
    dstReady s d
    let (m, s') ← waitaRead s va.toNat
    let s' := s'.watch s.cur va.toNat 8 false
    if waitaHolds cmp m v then do
      let s' ← pushValue s (s'.acquire s.cur 7) d m
      pure (popSrcs s' [a, b])
    else .error (.wait (.addr cmp va.toNat v d a b f.bytes) s'))

def execWaitaEq (f : Form) (d a b : R6) (s : State) : Out := .next (waita s f 0 d a b)
def execWaitaNe (f : Form) (d a b : R6) (s : State) : Out := .next (waita s f 1 d a b)
def execWaitaGen (f : Form) (d a b : R6) (s : State) : Out := .next (waita s f 2 d a b)

/-- SLPT (R141). -/
def execSlpt (f : Form) (a : R6) (s : State) : Out :=
  .next (s.ctl f (do
    let t ← useReg s a
    if t.toNat ≤ s.qtb then pure (popSrcs s [a])
    else .error (.wait (.time t a f.bytes) s)))

/-- RDTIME (R143). -/
def execRdtime (f : Form) (d : R6) (s : State) : Out := .next (scalarOp s f [] d (fun _ => .ok (BitVec.ofNat 64 s.qtb, 0)))

end Sys2Proof.Machine
end

