-- ==== Sys2Proof/Machine/System.lean ====
section
/-! DEFINITION. Status, special registers, traps, counters and queue control (04 R144 to R152; 01 R39 to R42, R44, R45). -/

namespace Sys2Proof.Machine

/-- YIELD (R144): issuing it has made the block the most recently issued. -/
def execYield (f : Form) (s : State) : Out := .next (s.ctl f (.ok s))
def execNop (f : Form) (s : State) : Out := .next (s.ctl f (.ok s))

/-- EXIT (R145, R21): the block drains; the pc stays at the EXIT until the drain is over. In a handler the held records, the interrupted
nest and a fault mask go. -/
def execExit (f : Form) (s : State) : Out :=
  .next (s.run f (.ok (s.modMe (fun b =>
    let b := { b with st := .retiring, exitIssued := true }
    if b.intrap then { b with recs := [], inest := [], fmask := 0 } else b))))

/-- RDSR (R146). -/
def execRdsr (f : Form) (b d : R6) (s : State) : Out := .next (scalarOp s f [] d (fun _ => .ok (s.srValue s.me b.toNat, 0)))

/-! %pix (R40, R45, R147). -/

/-- What the units of an instruction are, as far as %pix may name them (R147, R160; 06 R205, R210): the bounds of each field, whether ROW
and COL name an element group, and the rows that a band spans. -/
structure PixRange where
  steps : Nat := 1
  planes : Nat := 1
  rows : Nat := 1
  cols : Nat := 1
  rowMul : Nat := 1
  colMul : Nat := 16
  deriving DecidableEq, Repr

/-- The points of a record's instruction. -/
def Flight.pixRange (f : Flight) : PixRange :=
  let t := match f.d with
    | some o => o.tsr
    | none => Opnd.tsrOf f.a
  let byRow : PixRange := { rows := t.rows, cols := 1 }
  let whole : PixRange := {}
  match f.instr with
  | .tbfly _ _ _ _ _ | .tldl _ _ _ | .tstl _ _ _ | .texpd _ _ _ _ | .tmapr _ _ _ _ => byRow
  | .tscan _ r _ _ _ => if r = 0 then byRow else whole
  | .tcmpr _ _ _ _ | .tred _ _ _ _ _ _ | .targmx _ _ _ _ | .tchkf _ _ _ | .tany _ _ _ | .tall _ _ _ | .ttopk _ _ _ _ => whole
  | .mma _ _ _ _ | .mmas _ _ _ _ =>
    let d := ((pairing (Opnd.tsrOf f.a) (Opnd.tsrOf f.b)).getD (1, .f32)).1
    { steps := ceilDiv (Opnd.tsrOf f.a).cols d, rows := t.rows, cols := t.cols, rowMul := max f.grant 1, colMul := 64 }
  | .mmav _ _ _ _ => { planes := (f.sc.getD 0 0).toNat }
  | _ => { rows := t.rows, cols := t.cols }

/-- The low bit of the lowest field of a %pix value that breaks a condition (R147). -/
def pixFault (f : Flight) (v : Nat) : Option Nat :=
  let p := f.pixRange
  let row := fld v 15 8
  let col := fld v 7 0
  lowest [(p.cols ≤ col || col % p.colMul != 0, 0), (p.rows ≤ row || row % p.rowMul != 0, 8), (p.planes ≤ fld v 20 16, 16),
    (p.steps ≤ fld v 31 24, 24), (fld v 61 56 != f.tile, 56), (!bitOf v 63, 63)]

/-- Moving the oldest record's index. -/
def Block.setPix (b : Block) (v : Nat) : Block :=
  match b.recs with
  | f :: rest => { b with recs := { f with idx := { step := fld v 31 24, plane := fld v 20 16, row := fld v 15 8, col := fld v 7 0 } } :: rest }
  | [] => b

/-- Writing a special register (R44, R45, R147). -/
def wrsrC (s : State) (n : Nat) (v : Dword) : Ctl State :=
  let b := s.me
  if n = 1 then .ok (s.setMe { b with mode := v &&& 0x1F03 })
  else if n = 2 then .ok (s.setMe { b with fflags := v &&& 0x1F })
  else if n = 3 then .ok (s.setMe { b with nfin := v &&& 1 })
  else if n = 4 then .ok (s.setMe { b with bflag := dset b.bflag 63 63 (dfld v 63 63) })
  else if n = 6 then do
    needC s b.intrap 0x4040
    match b.recs with
    | [] => trapC s cILLEGAL 0x4040
    | f :: _ =>
      match pixFault f v.toNat with
      | some d => trapC s cILLEGAL (0x4000 + d)
      | none => pure (s.setMe (b.setPix v.toNat))
  else if n = 9 then do
    needC s b.intrap 0x4040
    pure (s.setMe { b with tpc := BitVec.ofNat 64 (v.toNat % 2 ^ 56) })
  else if n = 14 then do
    let p := dfld v 31 0
    needC s (p != 0 && p ≤ 1000000) 0x4000
    pure (s.setMe { b with eptPeriod := p, eptNs := 0 })
  else .ok s

/-- WRSR (R147). -/
def execWrsr (f : Form) (b a : R6) (s : State) : Out :=
  .next (s.ctl f (do
    let v ← useReg s a
    let s' ← wrsrC s b.toNat v
    pure (popSrcs s' [a])))

/-! ERET and TRAP. -/

/-- Replaying the progress records but the first keep of them, in program order (R39): each in flight again at its recorded index, under a new
name; the fences of T (R135) are renamed with them, in the order of the program, and so is what they have sent into a collective (R226). -/
def State.replay (s : State) (blk keep : Nat) : State :=
  let b := s.blk blk
  let go := b.recs.drop keep
  let n := s.nextId
  let last := (((b.recs.take keep).getLast?).map (fun f => f.id)).getD 0
  let fs := ((List.range go.length).zip go).map (fun (e : Nat × Flight) =>
    (e.2.id, { e.2 with id := n + e.1 + (b.fences.filter (fun x => x.1 < e.2.id)).length, units := 0 }))
  let fences := ((List.range b.fences.length).zip b.fences).map (fun (e : Nat × Nat × Nat) =>
    (if e.2.1 < last then e.2.1 else n + e.1 + (go.filter (fun f => f.id < e.2.1)).length, e.2.2))
  let s := s.modLch b.launch (fun x => { x with sent := x.sent.map (fun (e : CollSent) =>
    if e.blk = blk then { e with flight := ((fs.lookup e.flight).map (fun f => f.id)).getD e.flight } else e) })
  ({ s with nextId := n + go.length + b.fences.length } : State).setBlk blk
    { b with recs := b.recs.take keep, flights := b.flights ++ fs.map (fun e => e.2), fences }

/-- ERET (R148). It first waits, as TDRAIN does, for the handler's own tile instructions (R303). -/
def execEret (f : Form) (s : State) : Out :=
  .next (s.run f (do
    let b := s.me
    needC s b.intrap 0x4807
    if !(b.drained && b.reduced) then stallC
    pure ((s.setMe { b with pc := BitVec.ofNat 56 b.tpc.toNat, nest := b.inest, inest := [], intrap := false, eptNs := 0 }).replay s.cur 0)))

/-- TRAP (R149): %tpc names the next instruction. -/
def execTrap (f : Form) (imm : BitVec 12) (s : State) : Out :=
  .next (s.run f (.error (.trap { cause := cTRAPINST, detail := imm.toNat } (s.advance f))))

/-- BBX (R150). -/
def execBbx (f : Form) (imm : BitVec 12) (s : State) : Out :=
  .next (s.ctl f (.ok (if s.myLch.bbxBase = 0 then s
    else s.modMe (fun b => { b with bbx := Tab.put b.bbx imm.toNat (((Tab.get b.bbx imm.toNat).getD 0 + 1) % 2 ^ 64) }))))

/-! Queue control. -/

/-- Whether a command queue holds a command, or part of one, whose header has CPL = 1 (R151). -/
def Block.cplQueued (b : Block) (q : Nat) : Nat → Nat → Bool
  | 0, _ => false
  | f + 1, i =>
    if (b.qcwOf q).count ≤ i then false
    else
      let h := (b.queueDword q i).toNat
      cmdCpl (engOf q) h || b.cplQueued q f (i + cmdLen (engOf q) h)

/-- QCFG (R42, R151): the value is checked first, then completion elements are awaited, then the queue must be empty (log 86). -/
def execQcfg (f : Form) (b a : R6) (s : State) : Out :=
  .next (s.ctl f (do
    let v ← useReg s a
    let n := b.toNat
    let x := s.me
    match qcwFault n v x.hdr.shared (x.tsrOf (48 + n)).tileBytes with
    | some d => trapC s cILLEGAL (0x4000 + d)
    | none => pure ()
    let completion := n == 1 || n == 3 || n == 5
    if completion && x.cmds.any (fun c => c.eng == engOf n) then stallC
    let q := x.qcwOf n
    if q.count != 0 then trapC s cQPORT 0 0 (tportQueue n)
    if completion && !bitOf v.toNat 63 && x.cplQueued (n - 1) (x.qcwOf (n - 1)).count 0 then trapC s cQPORT 0 0 (tportQueue n)
    pure (popSrcs (s.setMe { x.setQcw n ⟨v &&& 0x8000070FFF0FFFFF, 0⟩ with shapes := Tab.del x.shapes n }) [a])))

/-- QTRY (R152). -/
def execQtry (f : Form) (b d : R6) (s : State) : Out :=
  .next (scalarOp s f [] d (fun _ =>
    let q := s.me.qcwOf b.toNat
    .ok (dset q.d1 63 63 (b2n q.v), 0)))

end Sys2Proof.Machine
end

