-- ==== Sys2Proof/Machine/Zones.lean ====
section
/-! DEFINITION. Coolant zones as the dispatcher and HEATQ read them (12 R347 to R351), and HEATQ (04 R154). -/

namespace Sys2Proof.Machine

/-- DEMAND of a zone: the demands its blocks took at placement (R350). -/
def State.demand (s : State) (z : Nat) : Nat := ((s.onZone z).map (fun e => e.2.dem)).foldl (· + ·) 0

/-- HOLD of a zone (R353). -/
def Zone.hold (z : Zone) : Bool := z.holdT || z.holdF

/-- HEADROOM of a zone (R349). -/
def State.headroom (s : State) (z : Nat) : Nat :=
  let x := s.zone z
  if x.state = 0 && !x.hold then x.alloc - s.demand z else 0

/-- DEM[h] (R349). -/
def State.demOf (s : State) (h : Nat) : Nat := dfld s.cdem (8 * h + 7) (8 * h)

/-- admits (R350). -/
def State.admits (s : State) (z h : Nat) (x : Launch) : Bool :=
  let y := s.zone z
  y.state == 0 && !y.hold && (!y.ownv || y.ownedBy x) && s.demOf h ≤ s.headroom z

/-- HEATQ's answer for a zone (R154). -/
def State.heatWord (s : State) (z : Nat) (x : Launch) : Dword :=
  if 24 ≤ z then 0
  else
    let dry := (s.zone z).state != 0
    let adm := if dry then 0 else (List.range 4).foldl (fun a h => a + b2n (s.admits z h x) * 2 ^ h) 0
    BitVec.ofNat 64 (2 ^ 63 + b2n dry * 2 ^ 62 + adm * 2 ^ 16 + (if dry then 0 else s.headroom z % 2 ^ 16))

/-- HEATQ (R154): B = 1 asks for the block's own zone. -/
def execHeatq (f : Form) (d a b : R6) (s : State) : Out :=
  .next (scalarOp s f (if b = 1 then [] else [a]) d (fun vs =>
    .ok (s.heatWord (if b = 1 then zoneOf s.me.core else (vs.getD 0 0).toNat % 32) s.myLch, 0)))

end Sys2Proof.Machine
end

