-- ==== Sys2Proof/Machine/Launch.lean ====
section
/-! DEFINITION. Launch queues as LAUNCH and the launch engine use them, and LAUNCH (04 R153; 09 R274 to R276, R283, R284). -/

namespace Sys2Proof.Machine

/-- Records a queue holds (R275). -/
def LaunchQueue.held (q : LaunchQueue) : Nat := (q.widx - q.ridx).toNat
/-- Records its ring has room for. -/
def LaunchQueue.size (q : LaunchQueue) : Nat := 2 ^ q.log2sz.toNat
/-- The address of the record at an index (R275). -/
def LaunchQueue.slot (q : LaunchQueue) (i : Nat) : Nat := q.base.toNat + i % q.size * 128

/-- Places of a queue that LAUNCHes of deterministic launches have reserved (R153). -/
def State.reserved (s : State) (ctx q : Nat) : Nat :=
  (s.launches.map (fun (e : Nat × Launch) => if e.2.ctx = ctx then (e.2.resv.filter (fun r => r.queue == q)).length else 0)).foldl (· + ·) 0

/-- Free places of a queue. -/
def State.freePlaces (s : State) (ctx q : Nat) : Nat :=
  let x := (s.ctx ctx).queue q
  x.size - (x.held + s.reserved ctx q)

/-- The free places of each queue of a context as an epoch opens (R153). -/
def State.placesNow (s : State) (ctx : Nat) : List Nat := (List.range 16).map (s.freePlaces ctx)

/-- An epoch of a deterministic launch opens: the free places and the memory of that instant (R153, R209). -/
def Launch.openEpoch (x : Launch) (s : State) : Launch :=
  { x with
    free := s.placesNow x.ctx, snap := s.mem
    snapBad := s.poison.map (fun p => (p, (s.homePoison (p * 64) 64).getD 0)) }

/-- A fault of the launch engine, attributed to its context (R284). -/
def State.faultCtx (s : State) (ctx q va : Nat) : State :=
  s.modCtx ctx (fun x => { x with state := 2, fq := BitVec.ofNat 4 q, faddr := BitVec.ofNat 56 va })

/-- Appending a record to a queue (R276): slot WIDX, then WIDX. A faulting write appends nothing and faults the context, and a full queue
takes nothing (log 25). -/
def State.appendRecord (s : State) (ctx q : Nat) (bs : List Byte) : Bool × State :=
  let x := (s.ctx ctx).queue q
  if x.size ≤ x.held then (false, s)
  else match s.engineWrite ctx (x.slot x.widx.toNat) bs with
  | .error va => (false, s.faultCtx ctx q va)
  | .ok s => (true, s.modQueue ctx q (fun x => { x with widx := x.widx + 1 }))

/-- The reserved records of a launch enter their queues in (block identity, sequence) order as an epoch closes or the launch completes
(R153). -/
def State.enterReserved (s : State) (l : Nat) : State :=
  let x := s.lch l
  let rs := sortBy (fun (a b : Reserved) => a.blkid < b.blkid || (a.blkid = b.blkid && a.seq < b.seq)) x.resv
  let s := s.modLch l (fun x => { x with resv := [] })
  rs.foldl (fun (s : State) r => (s.appendRecord x.ctx r.queue r.bytes).2) s

/-- Closing a queue (R283): the records not yet fetched, and those reserved for it, are discarded and counted. -/
def State.closeQueue (s : State) (ctx q : Nat) : State :=
  let x := (s.ctx ctx).queue q
  let n := x.held + s.reserved ctx q
  let s := { s with launches := s.launches.map (fun (e : Nat × Launch) =>
    (e.1, if e.2.ctx = ctx then { e.2 with resv := e.2.resv.filter (fun r => r.queue != q) } else e.2)) }
  s.modQueue ctx q (fun x => { x with open_ := false, disc := BitVec.ofNat 32 n, ridx := x.widx })

/-- LAUNCH's result, and the state after it: 0 appended, 1 full, 2 closed, 3 no such queue (R153); 2 as well where the record's write into the
ring faults (log 25). -/
def launchResult (s : State) (q : Nat) (bs : List Byte) : Nat × State :=
  let b := s.me
  let x := (s.ctx b.ctx).queue q
  if 15 < q then (3, s)
  else if !x.open_ then (2, s)
  else if s.detOn b then
    let l := s.myLch
    if l.free.getD q 0 ≤ (l.resv.filter (fun r => r.queue == q && r.blkid ≤ b.blkid)).length then (1, s)
    else
      let (n, s) := s.fresh
      (0, s.modLch b.launch (fun l => { l with resv := l.resv ++ [{ blkid := b.blkid, seq := n, queue := q, bytes := bs }] }))
  else if s.freePlaces b.ctx q = 0 then (1, s)
  else
    let (ok, s) := s.appendRecord b.ctx q bs
    (if ok then 0 else 2, s)

/-- LAUNCH (R153): it releases the control lane's earlier accesses, and those ordered before them, at .dev (R246), and reads the record before it is held or decided. -/
def execLaunch (f : Form) (d a b : R6) (s : State) : Out :=
  .next (s.ctl f (do
    let va ← useReg s a
    let q ← useReg s b
    dstReady s d
    if !(s.me.performed .c 7 && s.seenDone s.me 7) then stallC
    let (bs, s') ← readNow s va.toNat 128 7 false true
    detHold s'
    let s' := s'.watch s.cur va.toNat 128 false
    let (r, s') := launchResult s' q.toNat bs
    let s' ← pushValue s s' d (BitVec.ofNat 64 r)
    pure (popSrcs s' [a, b])))

end Sys2Proof.Machine
end

