-- ==== Sys2Proof/Machine/TileConfig.lean ====
section
/-! DEFINITION. Configuring tile shape records (05 R167 to R169; 01 R31 to R34, R38, R48). -/

namespace Sys2Proof.Machine

/-- A configuring instruction on a named tile: it waits for a shape still owed (R185), reads its scalars, checks V (R48) with the DETAIL
of its operand, and goes on. -/
def cfgOp (s : State) (f : Form) (tile : R6) (chk : Option Nat) (srcs : List R6) (g : Tsr → List Dword → Ctl State) : State :=
  s.tctl f (do
    let vs ← useRegs s srcs
    if s.me.cmprOwes tile.toNat then stallC
    let t := s.me.tsrOf tile.toNat
    match chk with
    | some n => needC s t.v (0xC000 + n)
    | none => pure ()
    let s' ← g t vs
    pure (popSrcs s' srcs))

/-- The lower of two offending bits. -/
def lowerOf (a b : Option Nat) : Option Nat :=
  match a, b with
  | some x, some y => some (min x y)
  | some x, none => some x
  | none, y => y

/-- Writing a record that keeps the constraints of R34; else ILLEGAL, and the record stays. -/
def putTsr (s : State) (tile : R6) (t : Tsr) : Ctl State :=
  match lowerOf (t.fault (s.limits s.me)) (portDepth tile.toNat t) with
  | some d => trapC s cILLEGAL d
  | none => .ok (s.modMe (fun b => b.setTsr tile.toNat t))

/-- Writing a record whose shape may change (R38, R168): a change waits for every user and sets INST to 0; the strip address is the
instruction's own. -/
def reshape (s : State) (tile : R6) (old new : Tsr) : Ctl State := do
  let same := dset new.d0 56 56 0 == dset old.d0 56 56 0 && new.d1 == old.d1
  let t := { (if same then new else new.setInst 0) with strip := s.me.pc }
  let s' ← putTsr s tile t
  if !same && s.me.usesTile tile.toNat then stallC
  pure s'

/-- TSHAPE (R167, R168). -/
def execTshape (f : Form) (d a b : R6) (s : State) : Out :=
  .next (cfgOp s f d none [a, b] (fun t vs =>
    reshape s d t { t with d0 := dset (vs.getD 0 0) 56 56 1, d1 := dset (vs.getD 1 0) 33 0 0 }))

/-- TBIND (R167, R168). -/
def execTbind (f : Form) (d a : R6) (s : State) : Out :=
  .next (cfgOp s f d (some nD) [a] (fun t vs =>
    let v := vs.getD 0 0
    reshape s d t { t with d0 := dset (dset t.d0 63 62 (dfld v 63 62)) 19 0 (dfld v 19 0) }))

/-- TBOUND (R167). -/
def execTbound (f : Form) (p : BitVec 2) (d a : R6) (s : State) : Out :=
  .next (cfgOp s f d (some nD) [a, a + 1] (fun t vs =>
    putTsr s d { t with d2 := vs.getD 0 0, d3 := vs.getD 1 0, d4 := dset t.d4 63 62 p.toNat }))

/-- TMON (R167); bit 56 is reserved. -/
def execTmon (f : Form) (d a : R6) (s : State) : Out :=
  .next (cfgOp s f d (some nD) [a] (fun t vs =>
    let v := vs.getD 0 0
    putTsr s d { t with d4 := dset (dset t.d4 61 57 (dfld v 61 57)) 55 48 (dfld v 55 48) }))

/-- TVERD (R167). -/
def execTverd (f : Form) (d a b : R6) (s : State) : Out :=
  .next (cfgOp s f d (some nD) [a, b] (fun t vs =>
    putTsr s d { t with d4 := dset t.d4 47 38 (dfld (vs.getD 0 0) 47 38), d5 := vs.getD 1 0 }))

/-- TFREE (R48). -/
def execTfree (f : Form) (d : R6) (s : State) : Out :=
  .next (cfgOp s f d (some nD) [] (fun t _ =>
    if s.me.usesTile d.toNat then stallC else .ok (s.modMe (fun b => b.setTsr d.toNat (t.setV false)))))

/-- What TRDSH selects (R169). -/
def Tsr.selected (t : Tsr) (n : Nat) : Dword :=
  if n = 0 then t.d0 else if n = 1 then t.d1 else if n = 2 then t.d2 else if n = 3 then t.d3 else if n = 4 then t.d4
  else if n = 5 then t.d5 else if n = 6 then BitVec.ofNat 64 (t.base + t.inst * t.tpitch) else t.strip.zeroExtend 64

/-- TRDSH (R169). -/
def execTrdsh (f : Form) (d a b : R6) (s : State) : Out :=
  .next (cfgOp s f a (some nA) [] (fun t _ => do
    dstReady s d
    putDst s d (t.selected b.toNat)))

end Sys2Proof.Machine
end

