-- ==== Sys2Proof/Machine/TileGlobal.lean ====
section
/-! DEFINITION. Issuing the global tile loads, stores, reductions, gathers and scatters (05 R170 to R177). Their units are in TileMem. -/

namespace Sys2Proof.Machine

/-- The address and pitch of a TM operand, with the alignment check of R170. -/
def imageEntry (f : Form) (t : Tsr) (imm : BitVec 8) (op : BitVec 4) (s : State) (vs : List Dword) : Ctl (State × Entry) :=
  let base := addrTM s.me f (vs.getD 0 0) imm op
  let p := vs.getD 1 0
  let n := if t.isPlanes then 1 else t.esz
  if base.toNat % n != 0 then trapC s cALIGN 0 (taddrWord 0 base.toNat)
  else if p.toNat % n != 0 then trapC s cALIGN 0 (taddrWord 0 (base + p).toNat)
  else .ok (s, { sc := [base, p] })

/-- A TM instruction: scalars s[A] and s[A+1]. -/
def imageOp (s : State) (f : Form) (i : Instr) (imm : BitVec 8) (op : BitVec 4) (d a : R6) (bad : Tsr → Bool) : State :=
  tileOp s f i [a, a + 1]
    (fun b _ => let t := b.tsrOf d.toNat; (tileBad t d true true || bad t, nD) :: maskChk b f t)
    (imageEntry f (s.me.tsrOf d.toNat) imm op)

/-- TLD (R171). -/
def execTld (f : Form) (imm : BitVec 8) (op : BitVec 4) (d a : R6) (s : State) : Out :=
  .next (imageOp s f (.tld f imm op d a) imm op d a (fun _ => false))

/-- TST (R172). -/
def execTst (f : Form) (imm : BitVec 8) (op : BitVec 4) (d a : R6) (s : State) : Out :=
  .next (imageOp s f (.tst f imm op d a) imm op d a (fun _ => false))

/-- TSTR (R173): no FP8 and no bit planes, and the logic operations on integers alone. -/
def execTstr (f : Form) (imm : BitVec 8) (op : BitVec 4) (d a : R6) (s : State) : Out :=
  .next (imageOp s f (.tstr f imm op d a) imm op d a (fun t =>
    t.isPlanes || isFp8 t.etype || (isFpCode t.etype && 3 ≤ op.toNat % 8)))

/-- A gather or scatter (R176): D is the data tile, A the index tile of D's shape. -/
def gatherOp (s : State) (f : Form) (i : Instr) (d a b : R6) : State :=
  tileOp s f i [b]
    (fun x _ =>
      let td := x.tsrOf d.toNat
      let ta := x.tsrOf a.toNat
      [(tileBad td d false false, nD),
        (tileBad ta a false false || !(ta.etype == 7 || ta.etype == 8 || ta.etype == 3) || !sameShape ta td, nA)] ++ maskChk x f td)
    (fun s vs =>
      let base := vs.getD 0 0
      if base.toNat % (s.me.tsrOf d.toNat).esz != 0 then trapC s cALIGN 0 (taddrWord 0 base.toNat) else plainEntry s vs)

def execTldg (f : Form) (d a b : R6) (s : State) : Out := .next (gatherOp s f (.tldg f d a b) d a b)
def execTstg (f : Form) (d a b : R6) (s : State) : Out := .next (gatherOp s f (.tstg f d a b) d a b)

end Sys2Proof.Machine
end

