-- ==== Sys2Proof/Machine/TileMoves.lean ====
section
/-! DEFINITION. Issuing moves within the core, conversions, butterflies, compression and expansion (05 R178 to R186). Their units are in
TileMove. -/

namespace Sys2Proof.Machine

/-- Elements of equal width; bit planes only between tiles of equal N and PSCALE (R178). -/
def sameBits (td ta : Tsr) : Bool :=
  if td.isPlanes || ta.isPlanes then td.isPlanes && ta.isPlanes && td.planes == ta.planes && td.pscale == ta.pscale else td.esz == ta.esz

/-- A move of whole elements as bits (R178, R179): port D, port A say what the direction check asks of a channel port, when it asks. -/
def copyOp (s : State) (f : Form) (i : Instr) (d a : R6) (ports : Option (Bool × Bool)) : State :=
  tileOp0 s f i (fun b =>
    let td := b.tsrOf d.toNat
    let ta := b.tsrOf a.toNat
    let dir := fun (r : R6) (want : Option Bool) => match want with
      | some w => isChan r.toNat != w
      | none => false
    [(tileBad td d true true || dir d (ports.map (fun p => p.1)), nD),
      (tileBad ta a true true || dir a (ports.map (fun p => p.2)) || !sameBits td ta || !sameShape ta td, nA)] ++ maskChk b f td)

def execTcopy (f : Form) (d a : R6) (s : State) : Out := .next (copyOp s f (.tcopy f d a) d a none)
def execTsend (f : Form) (d a : R6) (s : State) : Out := .next (copyOp s f (.tsend f d a) d a (some (true, false)))
def execTrecv (f : Form) (d a : R6) (s : State) : Out := .next (copyOp s f (.trecv f d a) d a (some (false, true)))

/-- TFILL (R178): any type. -/
def execTfill (f : Form) (d a : R6) (s : State) : Out :=
  .next (tileOp s f (.tfill f d a) [a] (fun b _ => let t := b.tsrOf d.toNat; (tileBad t d true true, nD) :: maskChk b f t) plainEntry)

/-- TIOTA (R178): an integer type or FP16 to FP64. -/
def execTiota (f : Form) (d a b : R6) (s : State) : Out :=
  .next (tileOp s f (.tiota f d a b) [a, b]
    (fun x _ => let t := x.tsrOf d.toNat; (tileBad t d true false || !numCode t.etype, nD) :: maskChk x f t) plainEntry)

/-- TTRANS (R178). -/
def execTtrans (f : Form) (d a : R6) (s : State) : Out :=
  .next (tileOp0 s f (.ttrans f d a) (fun b =>
    let td := b.tsrOf d.toNat
    let ta := b.tsrOf a.toNat
    [(tileBad td d true false, nD), (tileBad ta a true false || td.esz != ta.esz || td.rows != ta.cols || td.cols != ta.rows, nA)]
      ++ maskChk b f td))

/-- TBCAST (R178): along rows from an A of one row, along columns from an A of one column. -/
def execTbcast (f : Form) (r : Bool) (d a : R6) (s : State) : Out :=
  .next (tileOp0 s f (.tbcast f r d a) (fun b =>
    let td := b.tsrOf d.toNat
    let ta := b.tsrOf a.toNat
    let shape := if r then ta.cols == 1 && ta.rows == td.rows else ta.rows == 1 && ta.cols == td.cols
    [(tileBad td d true false, nD), (tileBad ta a true false || td.esz != ta.esz || !shape, nA)] ++ maskChk b f td))

/-- A line move between a tile and the lanes' stores (R180): the checks on the tile, then on the bytes of a row. -/
def lineOp (s : State) (f : Form) (i : Instr) (tile b : R6) (n : Nat) : State :=
  tileOp s f i [b]
    (fun x _ =>
      let t := x.tsrOf tile.toNat
      (tileBad t tile true false || 128 < t.rows || t.layout != 0 || t.inLane, n) :: (if n = nD then maskChk x f t else []))
    (fun s vs =>
      let t := s.me.tsrOf tile.toNat
      let at_ := (vs.getD 0 0).toNat
      if at_ % 4 != 0 || s.me.hdr.lane < at_ + t.cols * t.esz then trapC s cPROTECT 7 (taddrWord 3 at_) else plainEntry s vs)

def execTldl (f : Form) (b a : R6) (s : State) : Out := .next (lineOp s f (.tldl f b a) a b nA)
def execTstl (f : Form) (b d : R6) (s : State) : Out := .next (lineOp s f (.tstl f b d) d b nD)

/-- TCVT's operands (R181, R156). -/
def tcvtChk (b : Block) (f : Form) (d a : R6) : List (Bool × Nat) :=
  let td := b.tsrOf d.toNat
  let ta := b.tsrOf a.toNat
  [(tileBad td d true true, nD), (tileBad ta a true true || reachBad (tyMod f) ta || !sameShape ta td, nA)] ++ maskChk b f td

def execTcvt (f : Form) (d a : R6) (s : State) : Out := .next (tileOp0 s f (.tcvt f d a) (fun b => tcvtChk b f d a))

/-! TBFLY and its chains (R183, R184). -/

/-- The types of TBFLY. -/
def bflyCode (c : Nat) : Bool := c == 0x12 || c == 0x13 || c == 0x14 || c == 6 || c == 7

/-- TBFLY's operands; the columns are a multiple of 2h. -/
def tbflyChk (b : Block) (f : Form) (h : BitVec 3) (d a : R6) : List (Bool × Nat) :=
  let ty := tyMod f
  let td := b.tsrOf d.toNat
  let ta := b.tsrOf a.toNat
  [(tileBad td d true false || reachBad ty td || !bflyCode (retype ty td).etype || td.cols % (2 * 2 ^ h.toNat) != 0, nD),
    (tileBad ta a true false || reachBad ty ta || (retype ty ta).etype != (retype ty td).etype || !sameShape ta td, nA)]

/-- The members of a chain after a TBFLY with destination d: each with the record of its A, their bytes, and the state their fetches
leave. left counts the chained members still allowed. A member that would not take effect breaks the chain (log 26). -/
def chainFrom (s0 : State) : Nat → R6 → VAddr → State → Ctl (List (Instr × Tsr) × Nat × State)
  | 0, _, _, _ => trapC s0 cILLEGAL 0xC002
  | left + 1, d, pc, s =>
    let b := s0.me
    let bad : Ctl (List (Instr × Tsr) × Nat × State) := trapC s0 cILLEGAL 0xC002
    if s0.atLast s0.cur pc then bad
    else match s.fetchInstr s.cur pc with
      | (.error e, s) => trapC s e.fault.cause e.fault.detail (taddrWord 0 e.va)
      | (.ok (w0, w1, w2), s) =>
        let s0 : State := { s0 with starved := s.starved }
        let bad : Ctl (List (Instr × Tsr) × Nat × State) := trapC s0 cILLEGAL 0xC002
        let s := s.modMe (fun b => b.capture pc.toNat (w0, w1, w2))
        let effect := fun (f : Form) => f.mods.pmode != 1 || b.cond f.mods.psel.toNat != f.mods.pneg
        let owed := fun (f : Form) => f.mods.pmode == 1 && b.busyK f.mods.psel.toNat
        let joins := fun (r : R6) (e : R6) => r == d && sameShape (b.tsrOf r.toNat) (b.tsrOf e.toNat)
        match decodeWords w0 w1 w2 with
        | .ok (.tbfly f ch h d' a') =>
          if owed f then stallC
          else if !joins a' d' || !effect f then bad
          else match (tbflyChk b f h d' a').find? (fun e => e.1) with
            | some e => trapC s0 cILLEGAL (0xC000 + e.2)
            | none =>
              let me := (Instr.tbfly f ch h d' a', b.tsrOf a'.toNat)
              if ch then do
                let (ms, n, s) ← chainFrom s0 left d' (pc + BitVec.ofNat 56 f.bytes) s
                pure (me :: ms, f.bytes + n, s)
              else .ok ([me], f.bytes, s)
        | .ok (.tcvt f d' a') =>
          if owed f then stallC
          else if !joins a' d' || !effect f then bad
          else match (tcvtChk b f d' a').find? (fun e => e.1) with
            | some e => trapC s0 cILLEGAL (0xC000 + e.2)
            | none => .ok ([(.tcvt f d' a', b.tsrOf a'.toNat)], f.bytes, s)
        | _ => bad

/-- TBFLY: alone, or the head of a chain that issues as one instruction. -/
def execTbfly (f : Form) (ch : Bool) (h : BitVec 3) (d a : R6) (s : State) : Out :=
  let i : Instr := .tbfly f ch h d a
  .next (if !ch then tileOp0 s f i (fun b => tbflyChk b f h d a)
    else s.tctl f (do
      tileWaits s i
      match (tbflyChk s.me f h d a).find? (fun e => e.1) with
      | some e => trapC s cILLEGAL (0xC000 + e.2)
      | none => pure ()
      let (ms, n, s') ← chainFrom s 8 d (s.nextPc f) s
      let tail := (ms.getLast?.map (fun e => e.1)).getD i
      tileWaits s tail
      chansC s ((portsWritten tail).map (fun n => (n, true)) ++ (([a].filter (fun r => isChan r.toNat)).map (fun r => (r.toNat, false))))
      instWaits s tail
      pure (takeEntry s' i { chain := ms, tail := some tail, extra := n })))

/-! TCMPR and TEXPD (R185, R186). -/

/-- TCMPR: B names the second destination; D and B have A's rows and at least its columns. -/
def execTcmpr (f : Form) (d a b : R6) (s : State) : Out :=
  .next (tileOp0 s f (.tcmpr f d a b) (fun x =>
    let td := x.tsrOf d.toNat
    let ta := x.tsrOf a.toNat
    let tb := x.tsrOf b.toNat
    [(tileBad td d true false, nD), (tileBad ta a true false || ta.etype != td.etype || ta.rows != td.rows || td.cols < ta.cols, nA),
      (tileBad tb b true false || tb.etype != 2 || tb.rows != ta.rows || tb.cols < ta.cols, nB)]))

/-- TEXPD: A and B of one shape, D with A's type and rows. -/
def execTexpd (f : Form) (d a b : R6) (s : State) : Out :=
  .next (tileOp0 s f (.texpd f d a b) (fun x =>
    let td := x.tsrOf d.toNat
    let ta := x.tsrOf a.toNat
    let tb := x.tsrOf b.toNat
    [(tileBad td d true false, nD), (tileBad ta a true false || ta.etype != td.etype || ta.rows != td.rows, nA),
      (tileBad tb b true false || tb.etype != 2 || !sameShape tb ta, nB)] ++ maskChk x f td))

end Sys2Proof.Machine
end

