-- ==== Sys2Proof/Machine/TileElts.lean ====
section
/-! DEFINITION. Issuing the element-wise family, reductions, scans and checks (05 R155, R156, R187 to R198). Their units are in TileElt
and TileRed. -/

namespace Sys2Proof.Machine

/-! Shapes of operand checks (R187). -/

/-- Operands D and A of one type. -/
def elt2 (s : State) (f : Form) (i : Instr) (ok : Nat → Bool) (d a : R6) : State :=
  tileOp0 s f i (fun x => eltChk x f ok d a [])

/-- Operands D, A and B of one type. -/
def elt3 (s : State) (f : Form) (i : Instr) (ok : Nat → Bool) (d a b : R6) : State :=
  tileOp0 s f i (fun x => eltChk x f ok d a [(b, nB)])

/-- An operand with types of its own, of D's shape. -/
def apart (x : Block) (ok : Nat → Bool) (d r : R6) (n : Nat) : Bool × Nat :=
  let t := x.tsrOf r.toNat
  (tileBad t r true false || !ok t.etype || !sameShape t (x.tsrOf d.toNat), n)

/-- A shift: B holds counts of any integer type (R190). -/
def shiftOp (s : State) (f : Form) (i : Instr) (d a b : R6) : State :=
  tileOp0 s f i (fun x => eltChk x f isIntCode d a [] [apart x isIntCode d b nB])

/-! Major 0x30. -/

def execTadd (f : Form) (d a b : R6) (s : State) : Out := .next (elt3 s f (.tadd f d a b) numCode d a b)
def execTsub (f : Form) (d a b : R6) (s : State) : Out := .next (elt3 s f (.tsub f d a b) numCode d a b)
def execTmul (f : Form) (d a b : R6) (s : State) : Out := .next (elt3 s f (.tmul f d a b) numCode d a b)
def execTdiv (f : Form) (d a b : R6) (s : State) : Out := .next (elt3 s f (.tdiv f d a b) numCode d a b)
def execTmin (f : Form) (d a b : R6) (s : State) : Out := .next (elt3 s f (.tmin f d a b) numCode d a b)
def execTmax (f : Form) (d a b : R6) (s : State) : Out := .next (elt3 s f (.tmax f d a b) numCode d a b)
/-- TSCALE (R191): B holds i8, i16 or i32. -/
def execTscale (f : Form) (d a b : R6) (s : State) : Out :=
  .next (tileOp0 s f (.tscale f d a b) (fun x => eltChk x f isFpBig d a [] [apart x (fun c => 5 ≤ c && c ≤ 7) d b nB]))

/-! Major 0x31: C is named by the modifier word. -/

def execTfma (f : Form) (d a b : R6) (s : State) : Out :=
  .next (tileOp0 s f (.tfma f d a b) (fun x => eltChk x f numCode d a [(b, nB), (f.mods.c, nC)]))
def execTclamp (f : Form) (d a b : R6) (s : State) : Out :=
  .next (tileOp0 s f (.tclamp f d a b) (fun x => eltChk x f numCode d a [(b, nB), (f.mods.c, nC)]))
/-- TSEL (R187): C is an integer tile. -/
def execTsel (f : Form) (d a b : R6) (s : State) : Out :=
  .next (tileOp0 s f (.tsel f d a b) (fun x => eltChk x f numCode d a [(b, nB)] [apart x isIntCode d f.mods.c nC]))

/-! Major 0x32. -/

def execTsqrt (f : Form) (d a : R6) (s : State) : Out := .next (elt2 s f (.tsqrt f d a) isFpBig d a)
def execTrsq (f : Form) (d a : R6) (s : State) : Out := .next (elt2 s f (.trsq f d a) isFpBig d a)
def execTrcp (f : Form) (d a : R6) (s : State) : Out := .next (elt2 s f (.trcp f d a) isFpBig d a)
def execTexp2 (f : Form) (d a : R6) (s : State) : Out := .next (elt2 s f (.texp2 f d a) isFpBig d a)
def execTlog2 (f : Form) (d a : R6) (s : State) : Out := .next (elt2 s f (.tlog2 f d a) isFpBig d a)
def execTabs (f : Form) (d a : R6) (s : State) : Out := .next (elt2 s f (.tabs f d a) numCode d a)
def execTneg (f : Form) (d a : R6) (s : State) : Out := .next (elt2 s f (.tneg f d a) numCode d a)

/-- TCMP (R189): D any integer type; UN (6) compares no integers. -/
def execTcmp (f : Form) (cc d a b : R6) (s : State) : Out :=
  .next (tileOp0 s f (.tcmp f cc d a b) (fun x =>
    let ty := tyMod f
    let td := x.tsrOf d.toNat
    let ta := x.tsrOf a.toNat
    let tb := x.tsrOf b.toNat
    let ca := (retype ty ta).etype
    [(tileBad td d true false || !isIntCode td.etype, nD),
      (tileBad ta a true false || reachBad ty ta || !numCode ca || (cc == 6 && isIntCode ca) || !sameShape ta td, nA),
      (tileBad tb b true false || reachBad ty tb || (retype ty tb).etype != ca || !sameShape tb td, nB)] ++ maskChk x f td))

/-! Major 0x34. -/

def execTand (f : Form) (d a b : R6) (s : State) : Out := .next (elt3 s f (.tand f d a b) isIntCode d a b)
def execTor (f : Form) (d a b : R6) (s : State) : Out := .next (elt3 s f (.tor f d a b) isIntCode d a b)
def execTxor (f : Form) (d a b : R6) (s : State) : Out := .next (elt3 s f (.txor f d a b) isIntCode d a b)
def execTnot (f : Form) (d a : R6) (s : State) : Out := .next (elt2 s f (.tnot f d a) isIntCode d a)
def execTshl (f : Form) (d a b : R6) (s : State) : Out := .next (shiftOp s f (.tshl f d a b) d a b)
def execTshr (f : Form) (d a b : R6) (s : State) : Out := .next (shiftOp s f (.tshr f d a b) d a b)
def execTsra (f : Form) (d a b : R6) (s : State) : Out := .next (shiftOp s f (.tsra f d a b) d a b)
def execTclz (f : Form) (d a : R6) (s : State) : Out := .next (elt2 s f (.tclz f d a) isIntCode d a)
def execTctz (f : Form) (d a : R6) (s : State) : Out := .next (elt2 s f (.tctz f d a) isIntCode d a)
def execTpopc (f : Form) (d a : R6) (s : State) : Out := .next (elt2 s f (.tpopc f d a) isIntCode d a)

/-! Reductions, scans and checks: of tiles of any integer or floating-point type. -/

/-- Whether a sum of elements of type a may be delivered in type d (R194). -/
def sumType (a d : Nat) : Bool :=
  a == d || (isIntCode a && isIntCode d && codeBits a < codeBits d && (isSignedCode d || !isSignedCode a))
    || ((a == 0x12 || a == 0x13) && (d == 0x14 || d == 0x15)) || (a == 0x14 && d == 0x15)

/-- The types of a reduction's or scan's A (R194). -/
def redCode (op : Nat) (c : Nat) : Bool := isIntCode c || (op != 3 && op != 4 && isFpCode c)

/-- D's type against A's under an operation (R194). -/
def redTypes (op a d : Nat) : Bool := if op = 0 then sumType a d else a == d

/-- The destination shape of a reduction (R194, R197): dir 0 rows × 1, 1 1 × columns, 2 1 × 1. -/
def redShape (dir : Nat) (td ta : Tsr) : Bool :=
  if dir = 0 then td.rows == ta.rows && td.cols == 1 else if dir = 1 then td.rows == 1 && td.cols == ta.cols else td.rows == 1 && td.cols == 1

/-- TRED (R194): into tile D, or with B ≠ 0 into s[B]. -/
def execTred (f : Form) (r : BitVec 2) (o : BitVec 3) (d a b : R6) (s : State) : Out :=
  let i : Instr := .tred f r o d a b
  let one := fun (x : Block) =>
    let ta := x.tsrOf a.toNat
    tileBad ta a true false || reachBad (tyMod f) ta || !redCode o.toNat (retype (tyMod f) ta).etype
  .next (if b = 0 then
      tileOp0 s f i (fun x =>
        let td := x.tsrOf d.toNat
        let ta := x.tsrOf a.toNat
        [(tileBad td d true false || !redCode o.toNat td.etype, nD),
          (one x || !redShape r.toNat td ta || !redTypes o.toNat (retype (tyMod f) ta).etype td.etype, nA)])
    else tileOp s f i [] (fun x _ => [(one x, nA)]) (fun s vs => do
      dstReady s b
      plainEntry s vs))

/-- TSCAN (R196): D of A's shape. -/
def execTscan (f : Form) (r : BitVec 2) (o : BitVec 3) (d a : R6) (s : State) : Out :=
  .next (tileOp0 s f (.tscan f r o d a) (fun x =>
    let td := x.tsrOf d.toNat
    let ta := x.tsrOf a.toNat
    let ca := (retype (tyMod f) ta).etype
    [(tileBad td d true false || !redCode o.toNat td.etype, nD),
      (tileBad ta a true false || reachBad (tyMod f) ta || !redCode o.toNat ca || !sameShape ta td || !redTypes o.toNat ca td.etype, nA)]
      ++ maskChk x f td))

/-- TARGMX (R197): D n16, n32, i32, i64 or n64, wide enough for every index. -/
def execTargmx (f : Form) (r : BitVec 2) (d a : R6) (s : State) : Out :=
  .next (tileOp0 s f (.targmx f r d a) (fun x =>
    let td := x.tsrOf d.toNat
    let ta := x.tsrOf a.toNat
    let n := if r = 0 then ta.cols else if r = 1 then ta.rows else ta.rows * ta.cols
    [(tileBad td d true false || !(td.etype == 2 || td.etype == 3 || td.etype == 7 || td.etype == 8 || td.etype == 4), nD),
      (tileBad ta a true false || reachBad (tyMod f) ta || !redCode 1 (retype (tyMod f) ta).etype || !redShape r.toNat td ta
        || intMax (isSignedCode td.etype) (codeBits td.etype) < (n : Int) - 1, nA)]))

/-- A check of every element of A, into k[D] (R198). -/
def checkOp (s : State) (f : Form) (i : Instr) (d a : R6) (ok : Nat → Bool) : State :=
  tileOp s f i []
    (fun x _ =>
      let ta := x.tsrOf a.toNat
      [(tileBad ta a true false || reachBad (tyMod f) ta || !ok (retype (tyMod f) ta).etype, nA)])
    (fun s vs => if s.me.busyK d.toNat then stallC else plainEntry s vs)

def execTchkf (f : Form) (d a : R6) (s : State) : Out := .next (checkOp s f (.tchkf f d a) d a isFpCode)
def execTany (f : Form) (d a : R6) (s : State) : Out := .next (checkOp s f (.tany f d a) d a (fun c => isIntCode c || isFpCode c))
def execTall (f : Form) (d a : R6) (s : State) : Out := .next (checkOp s f (.tall f d a) d a (fun c => isIntCode c || isFpCode c))

end Sys2Proof.Machine
end

