-- ==== Sys2Proof/Machine/MatrixIssue.lean ====
section
/-! DEFINITION. Matrix rows, matrix instructions, thresholds and top-k selection at issue (06 R200 to R217; 08 R260). Their units are in
Matrix and TileRed. -/

namespace Sys2Proof.Machine

/-! Matrix rows (R200 to R203). -/

def isMatt : Instr → Bool
  | .matt _ _ _ | .mattW _ _ _ => true
  | _ => false

/-- The instructions that use the matrix array. -/
def usesArray : Instr → Bool
  | .mma _ _ _ _ | .mmas _ _ _ _ | .mmav _ _ _ _ => true
  | i => isMatt i

/-- Whether a matrix instruction of the block has not completed. -/
def Block.arrayBusy (b : Block) : Bool := b.flights.any (fun f => !f.fin && usesArray f.instr)

/-- Whether a request for rows waits. -/
def Block.rowsOwed (b : Block) : Bool := b.flights.any (fun f => !f.fin && isMatt f.instr)

/-- The free rows of a cluster's array. -/
def State.freeRows (s : State) (cl : Nat) : Nat := 128 - (s.onCluster cl).foldl (fun n (e : Nat × Block) => n + e.2.rows) 0

/-- Whether a block's turn for rows has come: in deterministic mode, no block of its cluster that waits comes before it (R201). -/
def State.rowsTurn (s : State) (b : Block) : Bool :=
  !s.detOn b || (s.onCluster (clusterOf b.core)).all (fun e =>
    !e.2.rowsOwed || b.core < e.2.core || (b.core == e.2.core && b.slot ≤ e.2.slot))

/-- Attaching g rows of r requested: %mgrant, and s[D] := g (R200). -/
def attach (s : State) (d : R6) (r g : Nat) : Ctl State :=
  putDst (s.modMe (fun b => { b with rows := g, mgrant := BitVec.ofNat 64 (r * 2 ^ 8 + g) })) d (BitVec.ofNat 64 g)

/-- MATT: earlier matrix instructions first, then the rows held are released; the rows free are attached, or, when it is to wait for all of
them, it goes in flight until they are. -/
def mattOp (s : State) (f : Form) (i : Instr) (w : Bool) (d a : R6) : State :=
  s.tctl f (do
    let v ← useReg s a
    dstReady s d
    if s.me.arrayBusy then stallC
    let r := v.toNat
    needC s (16 ≤ r && r ≤ 128 && r % 16 = 0) 0xC001
    let s' := s.modMe (fun b => { b with rows := 0 })
    let n := s'.freeRows (clusterOf s'.me.core)
    let w := w || s.detOn s.me
    let s' ← if !w then attach s' d r (min r n)
      else if r ≤ n && s'.rowsTurn s'.me then attach s' d r r
      else
        let (id, s') := s'.fresh
        pure (s'.modMe (fun b => { b with flights := b.flights ++ [{ id, pc := b.pc, instr := i, sc := [v], order := id, issued := s.clock }] }))
    pure (popSrcs s' [a]))

def execMatt (f : Form) (d a : R6) (s : State) : Out := .next (mattOp s f (.matt f d a) false d a)
def execMattW (f : Form) (d a : R6) (s : State) : Out := .next (mattOp s f (.mattW f d a) true d a)

/-- MDET (R202): REQ is kept. -/
def execMdet (f : Form) (s : State) : Out :=
  .next (s.tctl f (
    if s.me.arrayBusy then stallC
    else .ok (s.modMe (fun b => { b with rows := 0, mgrant := dset b.mgrant 7 0 0 }))))

/-- A matrix instruction waits while a request for rows does; then its operands are checked, then its rows (R203). -/
def arrayOp (s : State) (f : Form) (i : Instr) (srcs : List R6) (chk : Block → List Dword → List (Bool × Nat))
    (pre : State → List Dword → Ctl (State × Entry)) : State :=
  if s.me.rowsOwed then s.tctl f stallC
  else tileOp s f i srcs (fun b vs => chk b vs ++ [(b.grant == 0, 5)]) pre

/-! MMA and MMAS (R204 to R207). -/

/-- The accumulators a type of A leads to in R65. -/
def accOf (c : Nat) : List Nat :=
  if isInt8 c then [0x07, 0x14] else if isFp8 c || c = 0x12 || c = 0x13 || c = 0x14 then [0x14] else if c = 0x15 then [0x15] else []

/-- An operand in shared store, row- or column-major. -/
def dense (t : Tsr) : Bool := t.space == 0 && t.layout ≤ 1

/-- D and A of MMA and MMAS. -/
def mmaChk (f : Form) (td ta : Tsr) (d a : R6) : List (Bool × Nat) :=
  [(tileBad td d true false || td.space != 1 || td.layout != 0 || !(td.etype == 0x07 || td.etype == 0x14 || td.etype == 0x15)
      || (f.mods.sat && td.etype != 0x07), nD),
    (tileBad ta a true false || !dense ta || !(accOf ta.etype).contains td.etype || ta.rows != td.rows, nA)]

/-- MMA: without C, or with C = D, the source accumulator is D. -/
def execMma (f : Form) (d a b : R6) (s : State) : Out :=
  let c := if f.len = 0 then d else f.mods.c
  .next (arrayOp s f (.mma f d a b) []
    (fun x _ =>
      let td := x.tsrOf d.toNat
      let ta := x.tsrOf a.toNat
      let tb := x.tsrOf b.toNat
      let tc := x.tsrOf c.toNat
      mmaChk f td ta d a ++
        [(tileBad tb b true true || tb.space != 0 || (pairing ta tb).map (fun p => p.2.code) != some td.etype || tb.rows != ta.cols
            || tb.cols != td.cols, nB),
          (tileBad tc c true false || tc.space != 1 || tc.layout != 0 || tc.etype != td.etype || !sameShape tc td, nC)])
    (fun s vs => .ok (s, { sc := vs, src := some (s.me.source c) })))

/-- MMAS: C is the index tile. -/
def execMmas (f : Form) (d a b : R6) (s : State) : Out :=
  let c := f.mods.c
  .next (arrayOp s f (.mmas f d a b) []
    (fun x _ =>
      let td := x.tsrOf d.toNat
      let ta := x.tsrOf a.toNat
      let tb := x.tsrOf b.toNat
      let tc := x.tsrOf c.toNat
      mmaChk f td ta d a ++
        [(tileBad tb b true false || !dense tb || (pairing ta tb).map (fun p => p.2.code) != some td.etype || tb.cols != td.cols, nB),
          (tileBad tc c true false || !dense tc || tc.etype != 2 || !sameShape tc ta, nC)])
    plainEntry)

/-! MMAV (R208 to R214, R260). -/

/-- Whether an MMAV holds a place of its cluster's cleat. -/
def Flight.placed (f : Flight) : Bool := (f.verd.map (fun c => c.placed)) == some true

/-- The places of a cleat that a block's MMAVs hold: one in flight, one held in a record, one granted to an issue (R260). -/
def Block.cleatHeld (b : Block) : Nat :=
  b2n (b.cleatWait == some true) + ((b.flights.filter (fun f => !f.fin)) ++ b.recs).countP Flight.placed

/-- The places of a cluster's cleat that are taken (R260). -/
def State.cleatTaken (s : State) (cl : Nat) : Nat := (s.onCluster cl).foldl (fun n e => n + e.2.cleatHeld) 0

/-- Whether an MMAV of the block is in flight. -/
def Block.mmavBusy (b : Block) : Bool := b.flights.any (fun f => !f.fin && (match f.instr with
  | .mmav _ _ _ _ => true
  | _ => false))

/-- The number of planes an MMAV reads (R210). -/
def planeCount (f : Form) (n : Nat) (vs : List Dword) : Nat :=
  if f.len = 0 then n else let p := (vs.getD 0 0).toNat; if p = 0 then n else p

/-- The sample of an MMAV as it issues (R209): of global memory, in T's order, after the earlier accesses of the word (R244) and a FENCE.TT before
it (R135, R246). -/
def State.sampleNow (s : State) (f : Flight) : GRes × State :=
  if s.me.flights.any (fun g => !g.fin && s.globalClash s.cur f g) then (.wait, s)
  else match s.passFences s.cur f with
    | none => (.wait, s)
    | some s => s.sample s.cur 0 (Opnd.tsrOf f.d)

/-- MMAV: once its place in the cleat is taken, the sample at issue gives the first threshold (R209, R260). -/
def execMmav (f : Form) (d a b : R6) (s : State) : Out :=
  .next (if s.me.mmavBusy then s.tctl f stallC
    else arrayOp s f (.mmav f d a b) (if f.len = 0 then [] else [f.mods.c])
      (fun x vs =>
        let td := x.tsrOf d.toNat
        let ta := x.tsrOf a.toNat
        let tb := x.tsrOf b.toNat
        let p := planeCount f tb.planes vs
        [(tileBad td d true false || td.space != 1 || td.layout != 0 || td.etype != 0x14 || td.vclass = 0 || 4096 < td.rows * td.cols, nD),
          (tileBad ta a true false || !dense ta || !(ta.etype == 0x05 || ta.etype == 0x06 || ta.etype == 0x10 || ta.etype == 0x12)
            || ta.rows != td.rows, nA),
          (tileBad tb b true true || tb.space != 0 || !tb.isPlanes || tb.planes < 2 || 16 < tb.planes || tb.rows != td.cols
            || tb.cols != ta.cols, nB),
          (p < 2 || tb.planes < p, nC)])
      (fun s vs =>
        if s.me.cleatWait != some true && 4 ≤ s.cleatTaken (clusterOf s.me.core) then
          .error (.hold (s.modMe (fun b => { b with cleatWait := some false })))
        else
          let td := s.me.tsrOf d.toNat
          let p := planeCount f (s.me.tsrOf b.toNat).planes vs
          match s.sampleNow { id := s.nextId, pc := s.me.pc, instr := .mmav f d a b, sc := [BitVec.ofNat 64 p], d := some (s.me.source d) } with
          | (.wait, _) => stallC
          | (.ask q, s) => .error (.hold (s.addT s.cur 0 q))
          | (.fault e, s) => trapC s e.cause e.detail (thrAddr td)
          | (.ok bs, s) =>
            let key := sampleKey (ofLe bs)
            .ok (s.modMe (fun b => { b with thr := BitVec.ofNat 64 key, cleatWait := none
                                            pend := b.pend.filter (fun q => !(q.isGet && q.agent == .t && q.seq == 0)) }),
              { sc := [BitVec.ofNat 64 p], cleat := some { placed := true, els := [], thr := key } })))

/-! THRUP, TTOPK, AZERO (R215 to R217). -/

/-- THRUP (R215): performed by the control lane on D's current record. -/
def execThrup (f : Form) (d a : R6) (s : State) : Out :=
  .next (s.ctl f (do
    let v ← useReg s a
    if s.me.cmprOwes d.toNat then stallC
    let t := s.me.tsrOf d.toNat
    needC s (t.v && t.space == 1 && (t.vclass == 2 || t.vclass == 3)) 0xC000
    let w := v.toNat % 2 ^ 32
    if isAbn 0x14 w then trapC s cVUSE
    if (fp32.value w).isNan then
      flagsC s fNV
      pure (popSrcs (s.modMe (fun b => b.mergeFlags fNV)) [a])
    else
      let m := thrKey w
      if t.thrsel = 0 then
        pure (popSrcs (s.modMe (fun b => b.setTsr d.toNat { t with d5 := BitVec.ofNat 64 (max t.d5.toNat m) })) [a])
      else if t.thrsel = 1 then
        let old ← loadSharedC s t.d5.toNat 3
        let s ← storeSharedC s t.d5.toNat 8 (max old.toNat m)
        pure (popSrcs s [a])
      else
        let s ← atomicC s .w32 .maxn false 0 t.d5.toNat (BitVec.ofNat 64 m) 0 false
        pure (popIssued s [a])))

/-- TTOPK (R216): B names the index tile it writes. -/
def execTtopk (f : Form) (d a b : R6) (s : State) : Out :=
  let short := f.len = 0
  .next (tileOp s f (.ttopk f d a b) (if short then [] else [f.mods.c])
    (fun x vs =>
      let td := x.tsrOf d.toNat
      let ta := x.tsrOf a.toNat
      let tb := x.tsrOf b.toNat
      let k := if short then ta.km1 + 1 else (vs.getD 0 0).toNat
      [(tileBad td d true false || !isFpBig td.etype, nD),
        (tileBad ta a true false || ta.etype != td.etype || ta.rows != td.rows || (short && (ta.vclass != 3 || td.cols != k)), nA),
        (tileBad tb b true false || !(tb.etype == 2 || tb.etype == 3 || tb.etype == 7) || tb.rows != ta.rows || tb.cols != td.cols, nB),
        (!short && (k = 0 || 64 < k || ta.cols < k || td.cols != k), nC)])
    plainEntry)

/-- AZERO (R217). -/
def execAzero (f : Form) (d : R6) (s : State) : Out :=
  .next (tileOp0 s f (.azero f d) (fun x => let t := x.tsrOf d.toNat; [(tileBad t d true false || t.space != 1, nD)]))

/-! TMAP and TMAPR (R218, R219). -/

/-- Elements of 8, 16 or 32 bits. -/
def laneCode (t : Tsr) : Bool := t.esz ≤ 4

def execTmap (f : Form) (d a b : R6) (s : State) : Out :=
  .next (tileOp0 s f (.tmap f d a b) (fun x =>
    let td := x.tsrOf d.toNat
    let one := fun (r : R6) (n : Nat) => let t := x.tsrOf r.toNat; (tileBad t r true false || !laneCode t || !sameShape t td, n)
    [one d nD, one a nA, one b nB, one f.mods.c nC] ++ maskChk x f td))

def execTmapr (f : Form) (d a b : R6) (s : State) : Out :=
  .next (tileOp0 s f (.tmapr f d a b) (fun x =>
    let td := x.tsrOf d.toNat
    let ta := x.tsrOf a.toNat
    let one := fun (r : R6) (n : Nat) => let t := x.tsrOf r.toNat; (tileBad t r true false || !laneCode t || !sameShape t ta, n)
    [(tileBad td d true false || !laneCode td || td.cols != 1, nD), (tileBad ta a true false || !laneCode ta || ta.rows != td.rows, nA),
      one b nB, one f.mods.c nC] ++ maskChk x f td))

end Sys2Proof.Machine
end

