-- ==== Sys2Proof/Machine/Collectives.lean ====
section
/-! DEFINITION. Tile collectives at issue, and the monitor instructions (06 R223 to R232). -/

namespace Sys2Proof.Machine

/-! Tile collectives (R223 to R225). -/

/-- Breaches in a collective's control dword: kind 0 TCRED, 1 TCBC, 2 TCAG. -/
def collBad (kind ctl peers : Nat) : Bool :=
  fld ctl 31 14 != 0 || fld ctl 7 4 < 5 || 8 < fld ctl 7 4 || (if kind = 0 then 5 < fld ctl 3 0 else fld ctl 3 0 != 0)
    || (if kind = 1 then !bitOf peers (fld ctl 13 8) else fld ctl 13 8 != 0)

/-- The participant index a block has in a collective. -/
def State.ownIndex (s : State) (b : Block) (ctl : Nat) : Option Nat :=
  let base := fld ctl 63 32
  if fld ctl 7 4 = 8 then (if b.blkid = base then some s.devid.toNat else none)
  else if base ≤ b.blkid && b.blkid < base + 64 then some (b.blkid - base) else none

/-- The first element of a tile that is ABN. -/
def Block.firstAbn (b : Block) (t : Tsr) : Option (Nat × Nat) :=
  (allCells t).find? (fun e => isAbn t.etype (b.elt t t.inst e.1 e.2))

/-- Issuing a collective. A participant whose tile holds ABN traps once the tile's earlier writers are done (R225). -/
def collOp (s : State) (f : Form) (i : Instr) (kind : Nat) (d : R6) (srcs : List R6) : State :=
  tileOp s f i srcs
    (fun x vs =>
      let t := x.tsrOf d.toNat
      let ctl := (vs.getD 0 0).toNat
      let peers := (vs.getD 1 0).toNat
      let op := fld ctl 3 0
      [(tileBad t d false false || 2 ≤ t.space || !numCode t.etype, nD),
        (collBad kind ctl peers || (kind == 0 && 3 ≤ op && !isIntCode t.etype), nA),
        (kind == 2 && t.rows % max (popBits 64 peers) 1 != 0, nB),
        (2 < srcs.length && isIntCode t.etype, nC)])
    (fun s vs =>
      let x := s.me
      let t := x.tsrOf d.toNat
      let ctl := (vs.getD 0 0).toNat
      if !((s.ownIndex x ctl).map (fun j => bitOf (vs.getD 1 0).toNat j)).getD false then trapC s cQPORT 0x0B03
      else if x.flights.any (fun g => !g.fin && (match g.d with
          | some o => o.name == d.toNat && o.inst == t.inst
          | none => false) || writesB g.instr && !g.fin && (match g.b with
          | some o => o.name == d.toNat && o.inst == t.inst
          | none => false)) then stallC
      else match x.firstAbn t with
        | some e => .error (.trap { cause := cVUSE, telem := telemWord e.1 e.2 } s)
        | none => plainEntry s vs)

def execTcred (f : Form) (d a b : R6) (s : State) : Out :=
  .next (collOp s f (.tcred f d a b) 0 d ([a, b] ++ (if f.mods.c = 0 then [] else [f.mods.c])))
def execTcbc (f : Form) (d a b : R6) (s : State) : Out := .next (collOp s f (.tcbc f d a b) 1 d [a, b])
def execTcag (f : Form) (d a b : R6) (s : State) : Out := .next (collOp s f (.tcag f d a b) 2 d [a, b])

/-! Monitors (R227 to R232). -/

/-- The claim that s[A] names. -/
def claimC (s : State) (v : Dword) : Ctl Nat := do
  needC s (v.toNat < 8 && v.toNat < s.myLch.monc) 0xC001
  pure v.toNat

/-- The second register of a pair. -/
def pairOf (b : R6) : R6 := b + 1

/-- A 128-bit two's-complement value from its two dwords. -/
def int128 (lo hi : Dword) : Int := sx 128 (lo.toNat + 2 ^ 64 * hi.toNat)

/-- Bits [64n+63:64n] of a 128-bit value. -/
def part128 (x : Int) (n : Nat) : Dword := BitVec.ofNat 64 (wrapBits 128 x / 2 ^ (64 * n))

/-- MONSET (R228). -/
def execMonset (f : Form) (b a : R6) (s : State) : Out :=
  .next (s.ctl f (do
    let v ← useReg s a
    let cfg ← useReg s b
    let bound ← useReg s (pairOf b)
    let n ← claimC s v
    let e := sx 12 (dfld cfg 43 32)
    needC s (dfld cfg 63 44 = 0 && dfld cfg 31 9 = 0 && dfld cfg 5 4 = 0 && 5 ≤ dfld cfg 3 0 && dfld cfg 3 0 ≤ 7
      && -1152 ≤ e && e ≤ 1023) 0xC002
    pure (popSrcs (s.modLch s.me.launch (fun x => x.modClaim n (fun _ => { cfg, bound := bound.toNat, set := true }))) [a, b])))

/-- MONREF (R229). -/
def execMonref (f : Form) (b a : R6) (s : State) : Out :=
  .next (s.ctl f (do
    let v ← useReg s a
    let lo ← useReg s b
    let hi ← useReg s (pairOf b)
    let n ← claimC s v
    pure (popSrcs (s.modLch s.me.launch (fun x => x.modClaim n (fun c => { c with ref := int128 lo hi }))) [a, b])))

/-- MONCLR (R229): the configuration, BOUND and REF are kept. -/
def execMonclr (f : Form) (a : R6) (s : State) : Out :=
  .next (s.ctl f (do
    let v ← useReg s a
    let n ← claimC s v
    pure (popSrcs (s.modLch s.me.launch (fun x => x.modClaim n (fun c => { cfg := c.cfg, bound := c.bound, ref := c.ref, set := c.set }))) [a])))

/-- The status word of a claim (R231). -/
def Claim.status (c : Claim) : Dword :=
  BitVec.ofNat 64 (c.epochs.toNat * 2 ^ 32 + b2n c.fail * 2 ^ 7 + b2n c.failed * 2 ^ 6 + b2n c.set * 2 ^ 3 + b2n c.ovf * 2 ^ 2
    + b2n c.inexact * 2 + b2n c.outwin)

/-- What MONRD selects (R231). -/
def Claim.selected (c : Claim) (n : Nat) : Dword :=
  if n = 0 then part128 c.last 0 else if n = 1 then part128 c.last 1 else if n = 2 then c.status
  else if n = 3 then part128 c.ref 0 else if n = 4 then part128 c.ref 1 else if n = 5 then c.cfg else BitVec.ofNat 64 c.bound

/-- MONRD (R231): B selects. -/
def execMonrd (f : Form) (d a b : R6) (s : State) : Out :=
  .next (s.ctl f (do
    let v ← useReg s a
    dstReady s d
    let n ← claimC s v
    let s' ← putDst s d ((s.myLch.claims.getD n {}).selected b.toNat)
    pure (popSrcs s' [a])))

end Sys2Proof.Machine
end

