-- ==== Sys2Proof/Machine/Lanes.lean ====
section
/-! DEFINITION. The lane-function instructions (03 R89 to R91; 06 R221, R222), on the invocation in progress of the tile instruction that
the step names. -/

namespace Sys2Proof.Machine

/-! Arithmetic. -/

/-- Two registers and a type code into a third. -/
def laneBin (s : State) (c b a d : R6) (gi : Int → Int → Int) (gf : RMode → FVal → FVal → FVal × Nat) : Out :=
  .next (s.laneOp d (fun md x => laneArith c md gi (gf md) (x.reg a.toNat) (x.reg b.toNat)))

/-- An operation on the bits of two registers. -/
def laneBits (s : State) (b a d : R6) (g : Nat → Nat → Nat) : Out :=
  .next (s.laneOp d (fun _ x => (g (x.reg a.toNat) (x.reg b.toNat), 0)))

/-- An operation on one register. -/
def laneOne (s : State) (a d : R6) (g : RMode → Nat → Nat × Nat) : Out := .next (s.laneOp d (fun md x => g md (x.reg a.toNat)))

def execLadd (c b a d : R6) (s : State) : Out := laneBin s c b a d (· + ·) addVal
def execLsub (c b a d : R6) (s : State) : Out := laneBin s c b a d (· - ·) (fun md p q => addVal md p q.negate)
def execLmul (c b a d : R6) (s : State) : Out := laneBin s c b a d (· * ·) (fun _ => mulVal)
/-- LFMA: C is a register. -/
def execLfma (c b a d : R6) (s : State) : Out :=
  .next (s.laneOp d (fun md x => deliverFp fp32 md false
    (fmaVal md (fp32.value (x.reg a.toNat)) (fp32.value (x.reg b.toNat)) (fp32.value (x.reg c.toNat)))))
def execLdiv (c b a d : R6) (s : State) : Out :=
  .next (s.laneOp d (fun md x =>
    let p := x.reg a.toNat
    let q := x.reg b.toNat
    match tyOf c.toNat 8 with
    | .int sg w => (divInt sg w (intVal sg w p) (intVal sg w q), 0)
    | .fp f => deliverFp f md false (divVal (f.value p) (f.value q))))
def execLand (_c b a d : R6) (s : State) : Out := laneBits s b a d (fun p q => p &&& q)
def execLor (_c b a d : R6) (s : State) : Out := laneBits s b a d (fun p q => p ||| q)
def execLxor (_c b a d : R6) (s : State) : Out := laneBits s b a d (fun p q => p ^^^ q)
def execLshl (_c b a d : R6) (s : State) : Out := laneBits s b a d (fun p q => p * 2 ^ (q % 32))
def execLshr (_c b a d : R6) (s : State) : Out := laneBits s b a d (fun p q => p / 2 ^ (q % 32))
def execLsra (_c b a d : R6) (s : State) : Out := laneBits s b a d (fun p q => wrapBits 32 (sx 32 p / (2 ^ (q % 32) : Nat)))
/-- LCMP: −1, 0, 1, or 2 when unordered; NV for any NaN. -/
def execLcmp (c b a d : R6) (s : State) : Out :=
  .next (s.laneOp d (fun _ x =>
    let t := tyOf c.toNat 8
    let p := t.value (x.reg a.toNat)
    let q := t.value (x.reg b.toNat)
    if p.isNan || q.isNan then (2, fNV)
    else (match ordVal p q with
      | .lt => 0xFFFFFFFF
      | .eq => 0
      | .gt => 1, 0)))
/-- LSEL: C is a register. -/
def execLsel (c b a d : R6) (s : State) : Out :=
  .next (s.laneOp d (fun _ x => (if x.reg c.toNat != 0 then x.reg a.toNat else x.reg b.toNat, 0)))
def execLmin (c b a d : R6) (s : State) : Out := laneBin s c b a d min (fun _ => minMaxVal false)
def execLmax (c b a d : R6) (s : State) : Out := laneBin s c b a d max (fun _ => minMaxVal true)
/-- LCVT: C the destination type, B the source type. An abandoned result stays one in FP16, BF16 and FP32, and refuses every other type (R60,
R72). -/
def execLcvt (c b a d : R6) (s : State) : Out :=
  .next (s.laneStep (fun u x e =>
    let st := tyOf b.toNat 8
    let dt := tyOf c.toNat 8
    let v := x.reg a.toNat % 2 ^ st.width
    if isAbn b.toNat v then match abnOf c.toNat with
      | some r => .inl (x.wrote e d r 0)
      | none => .inr { cls := 4, cause := cVCONV, r := e.1, c := e.2 }
    else
      let (r, fl) := convert st dt u.md false v
      .inl (x.wrote e d (match dt with
        | .int sg w => wrapBits 32 (intVal sg w r)
        | .fp _ => r) fl)))
def execLclz (_c a d : R6) (s : State) : Out := laneOne s a d (fun _ v => (clzBits 32 v, 0))
def execLpopc (_c a d : R6) (s : State) : Out := laneOne s a d (fun _ v => (popBits 32 v, 0))
def execLexp2 (_c a d : R6) (s : State) : Out := laneOne s a d (fun md v => unary (.fp fp32) md .exp2 v)
def execLlog2 (_c a d : R6) (s : State) : Out := laneOne s a d (fun md v => unary (.fp fp32) md .log2 v)
def execLrsq (_c a d : R6) (s : State) : Out := laneOne s a d (fun md v => unary (.fp fp32) md .rsq v)
/-- LLI (R89): H writes bits [31:14] and keeps the others. -/
def execLli (i : BitVec 18) (h : Bool) (d : BitVec 5) (s : State) : Out :=
  .next (s.laneOp (d.zeroExtend 6) (fun _ x =>
    (if h then i.toNat * 2 ^ 14 + x.reg d.toNat % 2 ^ 14 else (i.signExtend 32).toNat, 0)))
def execLmov (_c a d : R6) (s : State) : Out := laneOne s a d (fun _ v => (v, 0))

/-! The lane store. -/

/-- The address of LLD and LST. -/
def laneWordAt (i : BitVec 12) (a : R6) (x : LaneRun) : Nat := (BitVec.ofNat 32 (x.reg a.toNat) + (i.signExtend 32 <<< 2)).toNat

/-- The address of LLDT and LSTT. -/
def laneEltAt (c b a : R6) (x : LaneRun) : Nat := (x.reg a.toNat + x.reg b.toNat * codeBytes c.toNat) % 2 ^ 32

def execLld (i : BitVec 12) (a d : R6) (s : State) : Out :=
  .next (s.laneLoad (laneWordAt i a) 4 (fun _ x _ v => .inl { x.setReg d.toNat v with lpc := x.lpc + 4 }))
def execLst (i : BitVec 12) (a d : R6) (s : State) : Out :=
  .next (s.laneStore (laneWordAt i a) 4 (fun _ x => (x.reg d.toNat, 0)))
/-- LLDT: an abandoned element raises VERDICT_USE. -/
def execLldt (c b a d : R6) (s : State) : Out :=
  .next (s.laneLoad (laneEltAt c b a) (codeBytes c.toNat) (fun _ x e v =>
    match vuse c.toNat v e.1 e.2 with
    | t :: _ => .inr t
    | [] =>
      let (w, fl) := widen c.toNat v
      .inl { (x.setReg d.toNat w).flag e.1 e.2 fl with lpc := x.lpc + 4 }))
def execLstt (c b a d : R6) (s : State) : Out :=
  .next (s.laneStore (laneEltAt c b a) (codeBytes c.toNat) (fun md x => narrow md c.toNat (x.reg d.toNat)))

/-! Control. -/

/-- An illegal use of the return stack (R222). -/
def stackEv (x : LaneRun) (e : Nat × Nat) (detail : Nat) : UEv :=
  { cls := 2, cause := cILLEGAL, detail, r := e.1, c := e.2, taddr := taddrWord 0 x.lpc.toNat }

def execLbr (off : BitVec 18) (a : R6) (s : State) : Out :=
  .next (s.laneStep (fun _ x _ => .inl (if x.reg a.toNat != 0 then x.jump 18 off else { x with lpc := x.lpc + 4 })))
def execLj (off : BitVec 24) (s : State) : Out := .next (s.laneStep (fun _ x _ => .inl (x.jump 24 off)))
/-- LCALL: four return addresses at most. -/
def execLcall (off : BitVec 24) (s : State) : Out :=
  .next (s.laneStep (fun _ x e =>
    if 4 ≤ x.stack.length then .inr (stackEv x e 0x4808)
    else .inl { x.jump 24 off with stack := (x.lpc + 4) :: x.stack }))
def execLret (s : State) : Out :=
  .next (s.laneStep (fun _ x e =>
    match x.stack with
    | [] => .inr (stackEv x e 0x4809)
    | p :: rest => .inl { x with lpc := p, stack := rest }))
/-- LEND: the result, and the next invocation of the unit. -/
def execLend (s : State) : Out := .next (s.laneStep (fun u x _ => u.laneEnd x))

end Sys2Proof.Machine
end

