-- ==== Sys2Proof/Machine/BlockEvents.lean ====
section
/-! DEFINITION. Events of a block on its core: units of its tile instructions, grants, wakes, the element-progress timer, trap entry, the
drain of EXIT, stops and releases (01 R16 to R22; 04 R140, R141; 06 R200; 08 R260; 09 R291, R296; 10 R299 to R303, R321; 11 R333; 13 R373).
An event whose condition does not hold changes nothing. -/

namespace Sys2Proof.Machine

/-- An event's result: what it changes, or nothing while its condition does not hold. -/
def evOf (s : State) (o : Option State) : Out := .next (o.getD s)

/-- Whether the masters stand still: a warm reset is in progress (R323), or the bring-up has failed (R381). -/
def State.asleep (s : State) : Bool := s.resetting || s.mgmt.step != 0

/-- An event of a master, which nothing brings about while the masters stand still. -/
def evOut (s : State) (o : Option State) : Out := .next (if s.asleep then s else o.getD s)

/-- Whether a block on its core goes on with its tile instructions. -/
def Block.working (b : Block) : Bool :=
  match b.st with
  | .ready | .waiting _ | .retiring => true
  | .saving => b.trapP.isSome || b.flights != []
  | _ => false

/-! Units (R40, R261). -/

/-- One step of a tile instruction in flight, unless a trap of an older instruction waits for its entry or the zone's lane groups are gated
(R354). -/
def State.unitStep (s : State) (blk : Nat) (f : Flight) : Option State :=
  let b := s.blk blk
  if b.working && !(s.zone (zoneOf b.core)).gated && !f.fin && b.trapP.all (fun t => f.id < t.age) then
    ({ s.begun blk with cur := blk } : State).commit blk (if b.restoring then f.turned s.clock else f)
  else none

/-- UNIT_COMMIT: the i-th tile instruction of the block. -/
def State.unitCommit (s : State) (blk i : Nat) : Option State := ((s.blk blk).flights[i]?).bind (fun f => s.unitStep blk f)
def execUnitCommit (blk i : Nat) (s : State) : Out := evOut s (s.unitCommit blk i)

def isMmav : Instr → Bool
  | .mmav _ _ _ _ => true
  | _ => false

/-- PLANE_BOUNDARY: the next pass of the block's MMAV, as one unit. -/
def State.planeBoundary (s : State) (blk : Nat) : Option State :=
  ((s.blk blk).flights.find? (fun f => !f.fin && isMmav f.instr)).bind (fun f => s.unitStep blk f)
def execPlaneBoundary (blk : Nat) (s : State) : Out := evOut s (s.planeBoundary blk)

/-! Grants (R200, R201, R260). -/

/-- A trap of a tile instruction in flight that names no element. -/
def State.flightTrap (s : State) (blk : Nat) (f : Flight) (t : TrapInfo) : State :=
  s.modBlk blk (fun b => b.raise { t with age := f.id })

/-- MATT_GRANT: the block's waiting request attaches its rows once they are free and its turn has come. -/
def State.mattGrant (s : State) (blk : Nat) : Option State :=
  let s : State := { s.begun blk with cur := blk }
  let b := s.blk blk
  match b.flights.find? (fun f => !f.fin && isMatt f.instr) with
  | none => none
  | some f =>
    let d := (scalarDest f.instr).getD 0
    let r := (f.sc.getD 0 0).toNat
    if !b.working || b.trapP.any (fun t => t.age ≤ f.id) || s.freeRows (clusterOf b.core) < r || !s.rowsTurn b
      || (isPort d && b.pushBlocked (queueOf d)) then none
    else match attach s d r r with
      | .ok s => some (s.complete blk f)
      | .error (.trap t s') => some (s'.flightTrap blk f t)
      | .error _ => none
def execMattGrant (blk : Nat) (s : State) : Out := evOut s (s.mattGrant blk)

/-- CLEAT_PLACE_GRANT: a place for a replayed MMAV, or for one that waits at issue. -/
def State.cleatPlaceGrant (s : State) (blk : Nat) : Option State :=
  let b := s.blk blk
  if !b.working || 4 ≤ s.cleatTaken (clusterOf b.core) then none
  else match b.flights.find? (fun f => !f.fin && isMmav f.instr && !f.placed) with
    | some f => some ((s.begun blk).modBlk blk (fun b => { b with flights := b.flights.map (fun (g : Flight) =>
        if g.id = f.id then { g with verd := g.verd.map (fun c => { c with placed := true }) } else g) }))
    | none => if b.cleatWait = some false then some (s.setBlk blk { b with cleatWait := some true }) else none
def execCleatPlaceGrant (blk : Nat) (s : State) : Out := evOut s (s.cleatPlaceGrant blk)

/-! Wakes (R16, R28, R140, R141, R179, R296). -/

/-- A block that is Ready again. -/
def Block.wake (b : Block) : Block := { b with st := .ready, detWait := false, walkWait := none }

/-- PORT_WAKE: an element in a pop port, or room in a push port; the timer restarts (R22). -/
def State.portWake (s : State) (blk : Nat) : Option State :=
  let b := s.blk blk
  match b.st with
  | .waiting (.port q) =>
    if (if popPort (BitVec.ofNat 6 (48 + q)) then (b.qcwOf q).count = 0 else b.pushBlocked q) then none
    else some (s.setBlk blk b.wake.restartEpt)
  | _ => none
def execPortWake (blk : Nat) (s : State) : Out := evOut s (s.portWake blk)

/-- CHANNEL_PORT_WAKE: a tile in the block's channel, room in its peer's, or a fault of the port that the instruction is to take. -/
def State.channelPortWake (s : State) (blk : Nat) : Option State :=
  let b := s.blk blk
  match b.st with
  | .waiting (.chan j push) =>
    match chanC ({ s with cur := blk } : State) (48 + j) push with
    | .error (.wait _ _) => none
    | _ => some (s.setBlk blk b.wake)
  | _ => none
def execChannelPortWake (blk : Nat) (s : State) : Out := evOut s (s.channelPortWake blk)

/-- WAITA_WAKE: the re-read of the dword satisfies the wait, and the instruction completes; or it traps. Of another die or device the dword is
asked for once its line holds such a value. -/
def State.waitaWake (s : State) (blk : Nat) : Option State :=
  match (s.blk blk).st with
  | .waiting (.addr cmp va v d a b len) =>
    let s : State := { s with cur := blk }
    if s.me.trapP.isSome then none
    else match waitaRead s va with
      | .ok (m, s') =>
        if !waitaHolds cmp m v then (if (s.me.asked va 8).isSome then some s' else none)
        else some (s.finish (do
          let s' ← pushValue s (s'.acquire s.cur 7) d m
          pure ((popSrcs s' [a, b]).modMe (fun b => { b.wake with pc := b.pc + BitVec.ofNat 56 len }))))
      | .error (.trap t s') => some (s'.takeTrap blk t)
      | .error (.hold s') =>
        match (s.unslotted.translate s.me.master { r := true } va).1 with
        | .ok x => if (s.homePoison x.rkey 8).isSome || waitaHolds cmp (BitVec.ofNat 64 (s.mem.num x.rkey 8)) v then some s' else none
        | .error _ => none
      | .error _ => none
  | _ => none
def execWaitaWake (blk : Nat) (s : State) : Out := evOut s (s.waitaWake blk)

/-- SLPT_WAKE: the QTB has reached the instant. -/
def State.slptWake (s : State) (blk : Nat) : Option State :=
  match (s.blk blk).st with
  | .waiting (.time t a len) =>
    if s.qtb < t.toNat then none
    else some ((popSrcs ({ s with cur := blk } : State) [a]).modBlk blk (fun b => { b.wake with pc := b.pc + BitVec.ofNat 56 len }))
  | _ => none
def execSlptWake (blk : Nat) (s : State) : Out := evOut s (s.slptWake blk)

/-- DET_HOLD_RELEASE: every lower block has arrived or exited; the held instruction issues again and performs. -/
def State.detHoldRelease (s : State) (blk : Nat) : Option State :=
  let b := s.blk blk
  if b.st = .waiting .det && s.lowerDone b then some (s.setBlk blk b.wake) else none
def execDetHoldRelease (blk : Nat) (s : State) : Out := evOut s (s.detHoldRelease blk)

/-! A quiesced checkpoint (R387). -/

/-- Whether a quiesced checkpoint has stopped every block but the frozen ones, every engine command is complete, and no block's write is under
way. -/
def State.ckptQuiet (s : State) : Bool :=
  s.blocks.all (fun e => (!e.2.onCore || e.2.st == .frozen) && e.2.cmds.all (fun c => c.delivered)
    && e.2.pend.all (fun p => p.isRead || p.isShared || 7 ≤ p.done))

/-- Whether the copy of a quiesced checkpoint runs: no block's operation lands meanwhile. -/
def State.ckptStill (s : State) : Bool := s.ckpt.any (fun k => k.running && !k.live) && s.ckptQuiet

/-- A deferred operation whose target has been poisoned since: it changes nothing, and POISON is raised at its element (R318); of the control lane's,
which has gone on, at the next instruction (log 93). -/
def State.deferredBad (s : State) (d : Deferred) (e : Nat) : State :=
  match (s.blk d.blk).pendOf d.id with
  | none => s
  | some p =>
    if (s.blk d.blk).st == .retired then s.modBlk d.blk (fun b => b.dropPend p.id)
    else if p.agent = .c then
      s.modBlk d.blk (fun b => (b.dropPend p.id).raise { cause := cPOISON, detail := e, taddr := taddrWord 0 p.addr, age := p.id, now := true })
    else s.accessTrap d.blk p (cPOISON, e)

/-- DEFERRED_OP_APPLY: the i-th deferred operation, once every lower block has arrived or exited and no operation of the epoch on the
location that precedes it by block identity and program order is left (R255, R333). -/
def State.deferredOpApply (s : State) (i : Nat) : Option State :=
  match s.deferred[i]? with
  | none => none
  | some d =>
    let first := s.deferred.all (fun e => e.launch != d.launch || d.pa + d.w ≤ e.pa || e.pa + e.w ≤ d.pa ||
      d.blkid < e.blkid || (d.blkid == e.blkid && (d.seq < e.seq || (d.seq == e.seq && d.id ≤ e.id))))
    if !first || !s.lowerDone (s.blk d.blk) || s.earlierOwed d || s.queueFull d.pa || s.ckptStill then none
    else if let some e := s.homePoison d.pa d.w then
      let s : State := { s with deferred := s.deferred.eraseIdx i }
      some (s.deferredBad d e)
    else
      let s := ((s.queued d.pa).homeRmw d.pa d.op d.w d.x 0).2
      let s := (sectorsOf d.pa d.w).foldl (fun (s : State) sec => s.l1Drop (s.blk d.blk).core sec) s
      some { s with deferred := s.deferred.eraseIdx i }
def execDeferredOpApply (i : Nat) (s : State) : Out := evOut s (s.deferredOpApply i)

/-! The element-progress timer (R22, R142, R299). -/

/-- Whether the timer runs: a tile instruction in flight, a wait on a queue or channel port, the deterministic hold, a wait for a cleat
place, a read that awaits the block's own deferred operations, or an access that awaits its walk (R314). Trap entry stops it, until ERET restarts it (R301, R304; log 39). -/
def Block.timerRuns (b : Block) : Bool :=
  b.working && !b.intrap && (b.flights.any (fun f => !f.fin) || b.cleatWait == some false || b.defWait.isSome || b.walkWait.isSome || (match b.st with
    | .waiting (.port _) | .waiting (.chan _ _) | .waiting .det => true
    | _ => false))

/-- The address a global tile access awaits, with its memory key: of a write, a reduction or a read that is on its way or finds no place at its
port, or of the first part of a read that must wait; without one where it awaits its walk (R299, R314, R332, R333). -/
def State.awaited (s : State) (blk : Nat) (f : Flight) : Option (Nat × Option Nat) :=
  let u := ux s blk f
  let parts : List (Nat × Nat) := match f.instr with
    | .tld _ _ _ _ _ => ((groupCells u.dt f.idx).filter (fun (e : Nat × Nat) => !u.masked e.1 e.2)).flatMap (fun (e : Nat × Nat) => f.parts u.dt e.1 e.2)
    | .tldg _ _ _ _ => u.moves.map (fun (e : Nat × Nat) => (u.gaddr e.1 e.2, u.dt.esz))
    | _ => []
  let puts : List (Nat × Nat) := match f.instr with
    | .tst _ _ _ _ _ | .tstr _ _ _ _ _ => ((groupCells u.dt f.idx).filter (fun (e : Nat × Nat) => !u.masked e.1 e.2)).flatMap (fun (e : Nat × Nat) => f.parts u.dt e.1 e.2)
    | .tstg _ _ _ _ => u.moves.map (fun (e : Nat × Nat) => (u.gaddr e.1 e.2, u.dt.esz))
    | _ => []
  let sent := u.b.pend.find? (fun p => p.agent == .t && p.seq == f.id && (p.owed || (p.isGet && p.got.isNone)))
  let walks := ((parts ++ puts).find? (fun (p : Nat × Nat) => s.walkWaits u.b.master p.1)).map (fun p => (p.1, none))
  (sent.map (fun p => (p.addr, some (p.pas.getD 0 (p.keys.getD 0 0))))).or <| walks.or <| parts.findSome? (fun (p : Nat × Nat) =>
    match (s.tRead blk f.id u.x.scope.toNat true p.1 p.2).1 with
    | .wait => match (s.translate u.b.master { r := true } p.1).1 with
      | .ok x => some (p.1, some x.rkey)
      | .error _ => none
    | _ => none)

/-- PROGRESS of the oldest tile instruction in flight: what it awaits. -/
def State.progressTrap (s : State) (blk : Nat) (f : Flight) : TrapInfo :=
  let t : TrapInfo := { cause := cPROGRESS, age := f.id }
  if isMatt f.instr then { t with detail := 2 }
  else if isMmav f.instr && (f.verd.map (fun c => c.placed)) == some false then { t with detail := 3 }
  else if isColl f.instr then { t with detail := 4 }
  else match f.instr with
    | .tred _ _ _ _ _ d =>
      if redWaits ({ s with cur := blk } : State) d then { t with detail := 1, tport := tportQueue (queueOf d) }
      else { t with telem := pixWord true 0 f.idx }
    | _ =>
      let w := s.awaited blk f
      { t with
        telem := pixWord true 0 f.idx
        taddr := (w.map (fun x => taddrWord 0 x.1)).getD 0
        tport := ((w.bind (fun x => x.2)).map tportOf).getD 0 }

/-- ELEMENT_PROGRESS_EXPIRY: PROGRESS or DET_WAIT, unless an older instruction's trap already waits for its entry. -/
def State.expire (s : State) (blk : Nat) : Option State :=
  let s := s.begun blk
  let b := s.blk blk
  if !b.timerRuns || b.eptNs < b.eptPeriod * 1000 then none
  else match b.flights.find? (fun f => !f.fin) with
    | some f =>
      if b.trapP.any (fun t => t.age ≤ f.id) then none else some (s.flightTrap blk f (s.progressTrap blk f))
    | none =>
      if b.trapP.isSome then none
      else match b.st with
        | .waiting (.port q) => some (s.takeTrap blk { cause := cPROGRESS, detail := 1, tport := tportQueue q })
        | .waiting (.chan j _) => some (s.takeTrap blk { cause := cPROGRESS, detail := 1, tport := tportQueue j })
        | .waiting .det => some (s.takeTrap blk { cause := cDETWAIT })
        | _ =>
          if b.cleatWait = some false then some (s.takeTrap blk { cause := cPROGRESS, detail := 3 })
          else (b.defWait.map (fun k => s.takeTrap blk { cause := cPROGRESS, tport := tportOf k })).or
            (b.walkWait.map (fun va => s.takeTrap blk { cause := cPROGRESS, taddr := taddrWord 0 va }))
def execElementProgressExpiry (blk : Nat) (s : State) : Out := evOut s (s.expire blk)

/-! Promotion (R291). -/

/-- SLOT_PROMOTION: a Ready slot that has not issued for 4,096 cycles of the clock in force. -/
def State.slotPromotion (s : State) (core slot : Nat) : Option State :=
  match (s.readySlots core).find? (fun e => e.2.slot == slot) with
  | some e => if e.2.promoted || s.clock - e.2.readyAt < 4096 * 1000 then none
    else some (s.setBlk e.1 { e.2 with promoted := true })
  | none => none
def execSlotPromotion (core slot : Nat) (s : State) : Out :=
  if 192 ≤ core then .fault .noSuchUnit else evOut s (s.slotPromotion core slot)

/-! Trap entry (R18, R301). -/

/-- TRAP_ENTRY: the entry of a trap that waits, once the older tile instructions have completed. A block that is being saved is saved
after it; a block frozen by it is not saved. -/
def State.trapEntry (s : State) (blk : Nat) : Option State :=
  let b := s.blk blk
  match b.trapP with
  | none => none
  | some t =>
    if !b.working || b.stopped || b.laneHeld || !(t.now || b.flights.all (fun f => f.fin || t.age ≤ f.id)) then none
    else
      let r := (s.setBlk blk { b with trapP := none }).takeTrap blk t
      if b.st != .saving then some r
      else match (r.blk blk).st with
        | .ready => some (r.modBlk blk (fun b => { b with st := .saving, held := b.recs.length }))
        | _ => some { (r.dropFrame b).modBlk blk (fun b => { b with frame := none }) with saves := r.saves.filter (fun e => e.2 != blk) }
def execTrapEntry (blk : Nat) (s : State) : Out := evOut s (s.trapEntry blk)

/-! The drain of EXIT (R21). -/

/-- Releasing what a block holds on its core as it retires. Its writes and non-returning atomics stay to be performed. -/
def Block.retire (b : Block) : Block :=
  { b with
    st := .retired, flights := [], recs := [], cmds := [], marks := [], fqs := [], cleatWait := none, trapP := none, dueTrap := none
    arrived := none, rows := 0, stopReq := none, stopped := false, dem := 0, fences := []
    pend := b.pend.filter (fun p => !p.isRead && !p.isShared) }

/-- DRAIN_COMPLETE: its tile instructions and engine commands complete, no register is owed a value, the counters flushed, the block retires. -/
def State.drainComplete (s : State) (blk : Nat) : Option State :=
  let b := s.blk blk
  if b.st != .retiring || !b.exitIssued || b.trapP.isSome || !b.drained || !b.reduced || b.pend.any (fun p => p.dest.isSome || (p.agent == .e && p.done < 3)) || b.marks != [] || b.fqs != []
    || b.cmds.any (fun c => !c.delivered) then none
  else
    let s := (s.flushBbx blk).modBlk blk Block.retire
    some ((s.modLch b.launch (fun x => { x with retired := x.retired + 1 })).settleCore b.core)
def execDrainComplete (blk : Nat) (s : State) : Out := evOut s (s.drainComplete blk)

/-! Debug stops, frozen blocks (R321, R373). -/

/-- DEBUG_STOP: a pending stop lands at a strip boundary once the earlier tile instructions have completed. -/
def State.debugStop (s : State) (blk : Nat) : Option State :=
  let b := s.blk blk
  if !s.stopHere blk || !b.drained || !b.reduced then none
  else
    let s := s.stopRecord b b.pc.toNat b.strip.toNat b.ordinal
    let s := if b.stopReq = some true then s.dumpRecord b else s
    some (s.setBlk blk { b with st := .waiting .stop, stopReq := none, stopped := true })
def execDebugStop (blk : Nat) (s : State) : Out := evOut s (s.debugStop blk)

/-- FROZEN_RELEASE: the release terminates the block. -/
def State.frozenRelease (s : State) (blk : Nat) : Option State :=
  if (s.blk blk).st = .frozen then some (s.terminate blk 5 0) else none
def execFrozenRelease (blk : Nat) (s : State) : Out := evOut s (s.frozenRelease blk)

end Sys2Proof.Machine
end

