-- ==== Sys2Proof/Machine/Barrier.lean ====
section
/-! DEFINITION. Releasing a barrier: its participants, the monitors' gather, the epoch (04 R137 to R139; 06 R230; 08 R266 to R270; 09 R296;
11 R333). -/

namespace Sys2Proof.Machine

/-! Monitors (R230, R269). -/

/-- The comparison of an epoch's gathered sum, or the opening of a claim's first epoch. -/
def Claim.close (c : Claim) : Claim :=
  let sum := c.sum0 + c.sum1
  let last := sx 128 (wrapBits 128 sum)
  let ovf := last != sum
  let fail := c.bound < (last - c.ref).natAbs || ovf || (bitOf c.cfg.toNat 8 && c.eOutwin)
  let c' := { c with sum0 := 0, sum1 := 0, eOutwin := false, eInexact := false }
  if !c.opened then { c' with opened := true, hOutwin := c.hOutwin || c.eOutwin, hInexact := c.hInexact || c.eInexact }
  else { c' with
    outwin := c.outwin || c.hOutwin || c.eOutwin, inexact := c.inexact || c.hInexact || c.eInexact
    last, fail, ovf := c.ovf || ovf, failed := c.failed || fail, epochs := c.epochs + 1
    ref := if bitOf c.cfg.toNat 6 then last else c.ref }

/-- Whether a release at a scope closes the claim's epoch: the barrier covers the claim's scope (R267). -/
def Claim.closesAt (c : Claim) (sc : Nat) : Bool := c.set && dfld c.cfg 3 0 ≤ sc

/-- The claims of a launch after a release that all its blocks take part in, and the lowest failing claim under policy trap (R270). -/
def Launch.gather (x : Launch) (sc : Nat) : Option Nat × Launch :=
  let cs := x.claims.map (fun c => if c.closesAt sc then (c.opened, c.close) else (false, c))
  ((List.range cs.length).find? (fun i => match cs[i]? with
    | some (closed, c) => closed && c.closesAt sc && c.fail && bitOf c.cfg.toNat 7
    | none => false), { x with claims := cs.map (fun e => e.2) })

/-! Participants (R137, R139). -/

/-- Whether a participant counts as arrived at a barrier of a scope. -/
def Block.atBar (b : Block) (sc : BitVec 4) : Bool := b.st == .retired || (b.arrived.map (fun a => a.sc)) == some sc

/-- The launches whose blocks take part in a barrier of a launch at a scope: at .domain those of its context that have started, or have
completed. -/
def State.barLaunches (s : State) (l : Nat) (sc : BitVec 4) : List Nat :=
  if sc = 8 then (s.launches.filter (fun e => e.2.ctx == (s.lch l).ctx && e.2.st != .fetched)).map (fun e => e.1) else [l]

/-- The blocks of launches, once every one is made and counts as arrived at a barrier of a scope. -/
def State.allAt (s : State) (ls : List Nat) (sc : BitVec 4) : Option (List (Nat × Block)) :=
  let g := ls.flatMap s.ofLaunch
  if ls.all (fun l => (s.lch l).made == (s.lch l).total) && g.all (fun e => e.2.atBar sc) then some g else none

/-- The first complete set of local participants of a barrier that has anyone to release. -/
def State.barSet (s : State) (l : Nat) (sc : BitVec 4) : Option (List (Nat × Block)) :=
  let x := s.lch l
  let live := fun (g : List (Nat × Block)) => g.any (fun e => e.2.arrived.isSome)
  if sc = 5 then
    let all := s.ofLaunch l
    let ready := fun (g : List (Nat × Block)) => g.all (fun e => e.2.atBar sc) && live g
    if x.cgsize = 0 then (all.find? (fun e => ready [e])).map (fun e => [e])
    else
      let group := fun (b : Nat) => all.filter (fun (e : Nat × Block) => e.2.blkid / x.cgsize == b)
      (((List.range (x.total / x.cgsize)).map group).find? (fun g => g.length == x.cgsize && ready g))
  else (s.allAt (s.barLaunches l sc) sc).filter live

/-! Other devices (R137, R139). -/

/-- The devices of a .domain mask other than this one. -/
def State.others (s : State) (mask : Nat) : List Nat := (maskBits 64 mask).filter (fun j => j != s.devid.toNat)

/-- Telling devices that this device's participants in a context have arrived at BAR.domain, or that their masks differ. -/
def State.tellArrived (s : State) (ctx : Nat) (js : List Nat) (mask : Option Dword) : Option State :=
  s.tellAll js [.arrive ctx s.devid.toNat mask]

/-- The first arrival told by each of some devices that have told one. -/
def State.farArrived (s : State) (ctx : Nat) (js : List Nat) : List (Nat × Nat × Option Dword) :=
  js.filterMap (fun j => s.remoteArr.find? (fun e => e.1 == ctx && e.2.1 == j))

/-! Release. -/

/-- The pop of a BAR's mask, which takes effect when it completes (R107), and its length. -/
def Block.barDone (b : Block) (a : Arrival) : Block :=
  let b := match a.src with
    | some r => if popPort r then b.setQcw (queueOf r) ((b.qcwOf (queueOf r)).popped 1) else b
    | none => b
  { b with pc := b.pc + BitVec.ofNat 56 a.len }

/-- A participant passing its BAR: on its core, or when it resumes (R17); one under restore does both, for its frame holds it at its BAR (R355). -/
def Block.passBar (b : Block) : Block :=
  match b.arrived with
  | none => b
  | some a =>
    let b := { b with arrived := none }
    match b.st with
    | .waiting _ => b.wake.barDone a
    | .saved => { b with passed := some a }
    | _ => { b.barDone a with passed := if b.restoring then some a else none }

/-- Delivering a trap of a release: at once, or when the block resumes (R270). An older instruction's trap that waits for its entry discards
it (R300). -/
def State.deliver (s : State) (blk : Nat) (t : TrapInfo) : State :=
  if (s.blk blk).trapP.isSome then s
  else if (s.blk blk).restoring then s.modBlk blk (fun b => { b with dueTrap := some t })
  else match (s.blk blk).st with
    | .saved | .saving => s.modBlk blk (fun b => { b with dueTrap := some t })
    | .retired | .frozen => s
    | _ => s.takeTrap blk t

/-- A launch's part in a release: claims gathered, its epoch closed; the claim that fails under policy trap. -/
def State.closeEpoch (s : State) (l : Nat) (sc : BitVec 4) (whole : Bool) : Option Nat × State :=
  let x := s.lch l
  let (mon, x) := if whole then x.gather sc.toNat else (none, x)
  let s := s.setLch l (if 6 ≤ sc.toNat then { x with epoch := x.epoch + 1 } else x)
  (mon, if 6 ≤ sc.toNat && x.det then
      let s := s.enterReserved l
      s.modLch l (fun y => y.openEpoch s)
    else s)

/-- A release of launches' participants: claims gathered, epochs closed, the participants past their BARs with their acquires, MONITOR
delivered: to every one of them, whichever of the launches' claims fails, with the lowest index of a failing one (R270). -/
def State.releaseBar (s : State) (ls : List Nat) (sc : BitVec 4) (ids : List Nat) : State :=
  let (mons, s) := ls.foldl (fun (acc : List Nat × State) l =>
    let (mon, s) := acc.2.closeEpoch l sc (6 ≤ sc.toNat || ids.length = (acc.2.lch l).total)
    (acc.1 ++ mon.toList, s)) ([], s)
  let go := ids.filter (fun i => (s.blk i).arrived.isSome)
  let s := go.foldl (fun (s : State) i => (s.acquire i sc.toNat).modBlk i Block.passBar) s
  match mons with
  | [] => s
  | m :: ms => go.foldl (fun (s : State) i => s.deliver i { cause := cMONITOR, detail := ms.foldl min m }) s

/-- BAR.domain with this device's participants at it: the other devices are told, once; with their arrivals it releases, or, where masks
differ, every participant takes QPORT at its BAR (R139). -/
def State.domainRelease (s : State) (l : Nat) (g : List (Nat × Block)) : Option State :=
  let ctx := (s.lch l).ctx
  let own := g.filterMap (fun e => e.2.arrived.map (fun a => a.mask))
  let js := (own.flatMap (fun m => s.others m.toNat)).eraseDups
  let same := own.all (fun m => some m == own.head?)
  if js != [] && !s.told.contains ctx then
    (s.tellArrived ctx js (if same then own.head? else none)).map (fun s => { s with told := addNum s.told ctx })
  else
    let far := s.farArrived ctx js
    let s' : State := { s with remoteArr := far.foldl List.erase s.remoteArr, told := delNum s.told ctx }
    if !same || far.any (fun e => e.2.2 != own.head?) then
      let go := g.filterMap (fun e => e.2.arrived.map (fun a => (e.1, a.mask)))
      let s' := go.foldl (fun (s : State) e => s.modBlk e.1 (fun b => { b with arrived := none })) s'
      some (go.foldl (fun (s : State) e => s.deliver e.1 { cause := cQPORT, detail := 0x0B00, taddr := e.2 }) s')
    else if far.length = js.length then some (s'.releaseBar (s.barLaunches l 8) 8 (g.map (fun e => e.1)))
    else none

/-- A device whose participants in a context have all retired counts as arrived (R137): it answers a device's arrival. -/
def State.retiredAnswer (s : State) (l : Nat) : Option State :=
  let ctx := (s.lch l).ctx
  match s.remoteArr.find? (fun e => e.1 == ctx), s.allAt (s.barLaunches l 8) 8 with
  | some e, some g =>
    if g = [] || g.any (fun e => e.2.st != .retired) then none
    else ({ s with remoteArr := s.remoteArr.erase e } : State).tellArrived ctx [e.2.1] e.2.2
  | _, _ => none

/-- BARRIER_RELEASE: once every participant has arrived and, at .die and beyond, every deferred operation of the epoch is applied (R333). -/
def State.barrierRelease (s : State) (l : Nat) (sc : BitVec 4) : Option State :=
  if sc.toNat < 5 || 8 < sc.toNat then none
  else match s.barSet l sc with
    | none => if sc = 8 then s.retiredAnswer l else none
    | some g =>
      if 6 ≤ sc.toNat && s.deferred.any (fun d => (s.barLaunches l sc).contains d.launch) then none
      else if sc = 8 then s.domainRelease l g else some (s.releaseBar [l] sc (g.map (fun e => e.1)))
def execBarrierRelease (l : Nat) (sc : BitVec 4) (s : State) : Out := evOut s (s.barrierRelease l sc)

end Sys2Proof.Machine
end

