-- ==== Sys2Proof/Machine/Engines.lean ====
section
/-! DEFINITION. The engines of a core and the farm distributor: starting a command, its elements, its completion, and farm queries
(03 R92 to R97; 07 R246 to R252; 09 R292; 11 R326 to R329). A command moves its elements in order; those that follow each other in one
64-byte sector of what it reads move at one instant (R250). -/

namespace Sys2Proof.Machine

def EngCmd.h (c : EngCmd) : Nat := c.dw.headD 0 |>.toNat
def EngCmd.d (c : EngCmd) (i : Nat) : Nat := (c.dw.getD i 0).toNat
def EngCmd.cpl (c : EngCmd) : Bool := cmdCpl c.eng c.h
def EngCmd.nats (c : EngCmd) : List Nat := c.dw.map BitVec.toNat

/-- Changing a started command. -/
def Block.modCmd (b : Block) (id : Nat) (f : EngCmd → EngCmd) : Block := { b with cmds := b.cmds.map (fun c => if c.id == id then f c else c) }
/-- The i-th started command of a block, if it belongs to an engine and is not finished. -/
def Block.cmdAt (b : Block) (i eng : Nat) : Option EngCmd := (b.cmds[i]?).filter (fun c => c.eng == eng && c.status.isNone)

/-- Whether the engines, stores and copy paths of a block's core run: not once an evacuation has emptied its zone, which only a frozen block outlasts
(R354 step 4, R355). -/
def State.enginesRun (s : State) (blk : Nat) : Bool := decide ((s.zone (zoneOf (s.blk blk).core)).state < 2)
/-- The i-th started command of a block, where its engine runs. -/
def State.cmdOf (s : State) (blk i eng : Nat) : Option EngCmd := if s.enginesRun blk then (s.blk blk).cmdAt i eng else none

/-! Starting (R251, R326). -/

/-- Whether a block's engines take up commands. -/
def Block.starts (b : Block) : Bool :=
  match b.st with
  | .ready | .waiting _ | .retiring => true
  | _ => false

/-- Whether the range checker holds a command back: an earlier one of the block not completed overlaps it and one of the two writes
shared store. -/
def Block.rangeHeld (b : Block) (m : CmdMark) : Bool :=
  let meets := fun (lo hi : Nat) (w : Bool) => (m.shw || w) && lo < m.hi && m.lo < hi
  b.marks.any (fun x => x.pushId < m.pushId && meets x.lo x.hi x.shw)
    || b.cmds.any (fun c => !c.delivered && c.pushId < m.pushId && (let r := cmdRange c.eng c.nats; meets r.1 r.2.1 r.2.2))

/-- The command of a block that an engine may start: the first that has not started, clear of the range checker, its push's release over. -/
def Block.startable (b : Block) (e : Nat) : Option CmdMark :=
  if !b.starts then none
  else (b.marks.find? (fun m => m.eng == e)).filter (fun m =>
    !b.rangeHeld m && b.pend.all (fun p => p.isGet || p.agent != .c || m.pushId < p.id || 3 ≤ p.done))

/-- The places of an engine of a core that are taken. -/
def State.places (s : State) (core e : Nat) : Nat := ((s.onCore core).flatMap (fun x => x.2.cmds.filter (fun c => c.eng == e))).length

/-- ENGINE_COMMAND_START: among the blocks of the core, the command whose last dword was pushed first. -/
def State.commandStart (s : State) (blk e : Nat) : Option State :=
  let b := s.blk blk
  match b.startable e with
  | none => none
  | some m =>
    let others := (s.onCore b.core).filterMap (fun x => (x.2.startable e).map (fun y => y.at_))
    if 4 ≤ s.places b.core e || others.any (fun n => n < m.at_) then none
    else
      let q := 2 * e
      let n := cmdLen e (b.queueDword q 0).toNat
      let dw := (List.range n).map (b.queueDword q)
      let (id, s) := s.fresh
      some (s.setBlk blk { b.setQcw q ((b.qcwOf q).popped n) with
        marks := b.marks.filter (fun x => x.pushId != m.pushId)
        cmds := b.cmds ++ [{ id, eng := e, dw, pushId := m.pushId }] })
def execEngineCommandStart (blk e : Nat) (s : State) : Out := evOut s (s.commandStart blk e)

/-! The accesses of an engine. A failure is a STATUS with its cause's DETAIL and the address (R94). -/

/-- How a command fails. -/
structure EngFail where
  status : Nat
  detail : Nat := 0
  space : Nat := 0
  addr : Nat := 0
  deriving DecidableEq, Repr

/-- The STATUS of a refused access (R94). -/
def statusOf (cause : Nat) : Nat :=
  if cause = cXLATE then 1 else if cause = cPROTECT then 2 else if cause = cPOISON then 3 else if cause = cALIGN then 4
  else if cause = cWORLD then 5 else 6
/-- The cause of a STATUS when CPL is 0. -/
def causeOf (status : Nat) : Nat :=
  if status = 1 then cXLATE else if status = 2 then cPROTECT else if status = 3 then cPOISON else if status = 4 then cALIGN
  else if status = 5 then cWORLD else cQPORT

def failAt (space addr : Nat) (e : AccFault) : EngFail := { status := statusOf e.cause, detail := e.detail, space, addr }

/-- Whether a shared-store range lies in the block's allocation. -/
def Block.inShared (b : Block) (off : Int) (n : Nat) : Bool := 0 ≤ off && off + n ≤ b.hdr.shared

/-- What an engine's read gives: bytes, a failure, a wait for a reply, or the read to ask another die or device for. -/
inductive EngRead where
  | ok (bs : List Byte)
  | fail (e : EngFail)
  | wait
  | ask (p : Pend)

/-- Reading n bytes for a command: of shared store, or of global memory through the core's L1 and write path (R236), reached across a link by a
request of its own (R338). -/
def State.engRead (s : State) (blk cmd : Nat) (shared : Bool) (addr : Int) (n : Nat) : EngRead × State :=
  let b := s.blk blk
  if shared then
    if !b.inShared addr n then (.fail { status := 6, space := 1, addr := wrapBits 56 addr }, s)
    else if badWords b.poisonSh addr.toNat n then (.fail { status := 3, detail := 4, space := 1, addr := addr.toNat }, s)
    else (.ok (b.sharedE addr.toNat n), s)
  else
    let va := wrapBits 64 addr
    match s.translate b.master { r := true } va with
    | (.error e, s) => (.fail (failAt 0 va e), s)
    | (.ok x, s) =>
      if (s.linkTo (dieOf b.core) x.rkey).isNone || s.l1Has b.core 3 x.c x.rkey n then
        match (s.watch blk va n false).gRead b.core 3 x.c false x.rkey n with
        | (.error d, s) => (.fail { status := 3, detail := d, addr := va }, s)
        | (.ok bs, s) => (.ok (b.own .e s.nextId x.rkey bs), s)
      else match b.pend.find? (fun p => p.isGet && p.agent == .e && p.seq == cmd && p.addr == va && p.size == n) with
        | none => (.ask { id := 0, agent := .e, kind := .get n, addr := va, keys := [x.rkey], pas := [x.rkey], cacheable := x.c, scope := 3
                          seq := cmd }, s.watch blk va n false)
        | some p =>
          match p.bad, p.got with
          | some e, _ => (.fail (failAt 0 va ⟨e.1, e.2⟩), s)
          | none, some bs => if p.sent || p.owes then (.wait, s) else (.ok bs, s)
          | none, none => (.wait, s)

/-- Adding an access of a command. -/
def State.addE (s : State) (blk cmd : Nat) (p : Pend) : State :=
  let (id, s) := s.fresh
  s.modBlk blk (fun b => { b with pend := b.pend ++ [{ p with id, agent := .e, keys := p.pas, seq := cmd }] })

/-- Writing bytes for a command: of shared store, or of global memory by the core's write path (R236); a completion word, a release at a scope
rel (R249), passes the L1 once it may. -/
def State.engWrite (s : State) (blk cmd : Nat) (rel : Option Nat) (shared : Bool) (addr : Int) (bs : List Byte) : Except EngFail State :=
  let b := s.blk blk
  if shared then
    if !b.inShared addr bs.length then .error { status := 6, space := 1, addr := wrapBits 56 addr }
    else .ok (s.setBlk blk (b.storeC addr.toNat bs))
  else
    let va := wrapBits 64 addr
    match s.translate b.master { w := true } va with
    | (.error e, _) => .error (failAt 0 va e)
    | (.ok x, s) =>
      let p : Pend := { id := s.nextId, agent := .e, kind := .wr bs, addr := va, keys := x.keys, pas := x.keys, cacheable := x.c
                        ord := if rel.isSome then 2 else 0, scope := rel.getD 3 }
      let s := (s.addE blk cmd p).watch blk va bs.length true
      .ok (if rel.isSome then s else (s.passL1 blk p).modBlk blk (fun b => b.modPend p.id (fun p => { p with done := 3 })))

/-- Writing an element's bytes, of which those a copy's ranges share each stay as they were or are written, as free bits say (R93). -/
def State.engMix (s : State) (blk cmd : Nat) (dst : Bool × Int) (ov : Int → Bool) (bs : List Byte) : Except EngFail State :=
  ((List.range bs.length).zip bs).foldlM (fun (s : State) e =>
    let a : Int := dst.2 + ((e.1 : Nat) : Int)
    if ov a && !Config.freeBool s.free then .ok { s with free := s.free + 1 }
    else State.engWrite (if ov a then { s with free := s.free + 1 } else s) blk cmd none dst.1 a [e.2]) s

/-- How an element of n bytes is misaligned, the source before the destination: each a space and an address. -/
def eltBad (n : Nat) (src dst : Bool × Int) : Option EngFail :=
  [src, dst].findSome? (fun x => if x.2 % (n : Int) != 0 then some { status := 4, space := b2n x.1, addr := wrapBits 56 x.2 } else none)

/-- The outcome of a command that stops or ends. -/
def EngCmd.ended (c : EngCmd) (r : Except EngFail Unit) : EngCmd :=
  match r with
  | .ok _ => { c with status := some 0 }
  | .error e => { c with status := some e.status, detail := e.detail, faddr := (taddrWord e.space e.addr).toNat }

/-- What an element of a command reads and writes: how it fails before any of that, or its source and its destination. -/
abbrev EltAt := State → Nat → Except EngFail ((Bool × Int) × (Bool × Int))

/-- What the elements of a run have read: each with its destination, the reads still to come, and the failure that ends the run. -/
structure RunRead where
  st : State
  got : List ((Bool × Int) × List Byte) := []
  asks : List Pend := []
  waits : Bool := false
  fail : Option EngFail := none

/-- Reading elements of a command from a position on, while the next one reads a sector that the last one read (R250). Fuel is the number of
elements left. -/
def RunRead.run (blk : Nat) (c : EngCmd) (n : Nat) (at_ : EltAt) (same : Nat → Bool) : Nat → Nat → RunRead → RunRead
  | 0, _, x => x
  | f + 1, pos, x =>
    match at_ x.st pos with
    | .error e => { x with fail := some e }
    | .ok (src, dst) =>
      match eltBad n src dst, x.st.engRead blk c.id src.1 src.2 n with
      | some e, _ | none, (.fail e, _) => { x with fail := some e }
      | none, (r, s) =>
        let x : RunRead := match r with
          | .ok bs => { x with st := s, got := x.got ++ [(dst, bs)] }
          | .ask p => { x with st := s, asks := x.asks ++ [p] }
          | _ => { x with st := s, waits := true }
        if same pos then RunRead.run blk c n at_ same f (pos + 1) x else x

/-- Writing the elements of a run in order: how many, and the failure that ends it. -/
def State.writeRun (blk : Nat) (c : EngCmd) (ov : Option (Int → Bool)) :
    List ((Bool × Int) × List Byte) → Nat → State → Nat × Option EngFail × State
  | [], n, s => (n, none, s)
  | (dst, bs) :: rest, n, s =>
    match s.engWrite blk c.id none dst.1 dst.2 bs, ov with
    | .error e, _ => (n, some e, s)
    | .ok s, none => State.writeRun blk c ov rest (n + 1) s
    | .ok _, some ov' => match s.engMix blk c.id dst ov' bs with
      | .error e => (n, some e, s)
      | .ok s => State.writeRun blk c ov rest (n + 1) s

/-- Moving the next run of a command's elements, of which left are left: its reads first, asked for where they are far, then its writes. -/
def State.moveRun (s : State) (blk : Nat) (c : EngCmd) (n : Nat) (at_ : EltAt) (same : Nat → Bool) (ov : Option (Int → Bool)) (left : Nat) :
    Option State :=
  let x := RunRead.run blk c n at_ same left c.pos { st := s }
  if x.asks != [] then some (x.asks.foldl (fun (s : State) p => s.addE blk c.id p) x.st)
  else if x.waits then none
  else
    let (k, e, s) := State.writeRun blk c ov x.got 0 x.st
    some (s.modBlk blk (fun b =>
      let b : Block := { b with pend := b.pend.filter (fun (p : Pend) => !(p.isGet && p.agent == .e && p.seq == c.id)) }
      b.modCmd c.id (fun c =>
        let c : EngCmd := { c with pos := c.pos + k }
        match e.or x.fail with
        | some e => c.ended (.error e)
        | none => if left ≤ k then c.ended (.ok ()) else c)))

/-! CPY6 and GTH (R93, R95). -/

/-- The offsets of an element of a nested copy, dimension 0 fastest. -/
def cpyOffsets : List (Nat × Int × Int) → Nat → Int × Int
  | [], _ => (0, 0)
  | (n, a, b) :: ds, i =>
    let r := cpyOffsets ds (i / n)
    let k : Int := ((i % n : Nat) : Int)
    (a * k + r.1, b * k + r.2)

/-- The places of a CPY6's element. -/
def cpyAt (c : EngCmd) (i : Nat) : (Bool × Int) × (Bool × Int) :=
  let o := cpyOffsets (cpyDims c.nats) i
  ((bitOf c.h 13, (c.d 1 : Int) + o.1), (bitOf c.h 15, (c.d 2 : Int) + o.2))

/-- The destination bytes of a CPY6 that its source range covers too, when its ranges overlap (R93). -/
def cpyOverlap (c : EngCmd) : Option (Int → Bool) :=
  let n : Int := ((2 ^ fld c.h 19 17 : Nat) : Int)
  let x := walkSpan ((cpyDims c.nats).map (fun d => (d.1, d.2.1)))
  let y := walkSpan ((cpyDims c.nats).map (fun d => (d.1, d.2.2)))
  let lo := (c.d 1 : Int) + x.1
  let hi := (c.d 1 : Int) + x.2 + n
  if bitOf c.h 13 == bitOf c.h 15 && lo < (c.d 2 : Int) + y.2 + n && (c.d 2 : Int) + y.1 < hi then some (fun a => lo ≤ a && a < hi) else none

/-- Whether two addresses lie in one 64-byte sector. -/
def oneSector (x y : Int) : Bool := x / 64 == y / 64

/-- CPY6: the next elements of the i-th started command. -/
def State.cpy6 (s : State) (blk i : Nat) : Option State :=
  (s.cmdOf blk i 0).bind (fun c =>
    let total := (cpyDims c.nats).foldl (fun m d => m * d.1) 1
    let same := fun (i : Nat) => oneSector (cpyAt c i).1.2 (cpyAt c (i + 1)).1.2
    s.moveRun blk c (2 ^ fld c.h 19 17) (fun _ i => .ok (cpyAt c i)) same (cpyOverlap c) (total - c.pos))
def execCpy6 (blk i : Nat) (s : State) : Out := evOut s (s.cpy6 blk i)

/-- An index of a GTH: i32, i64 or n32 (R95). -/
def gthIndex (isz : Nat) (bs : List Byte) : Int :=
  if isz = 0 then sx 32 (ofLe bs) else if isz = 1 then sx 64 (ofLe bs) else (ofLe bs : Nat)

/-- The places of a GTH's element, its index read from the list. -/
def gthAt (blk : Nat) (c : EngCmd) : EltAt := fun s i =>
  let isz := fld c.h 10 9
  let w := if isz = 1 then 8 else 4
  let n := 2 ^ fld c.h 15 13
  match (s.engRead blk c.id true ((c.d 2 + i * w : Nat) : Int) w).1 with
  | .fail e => .error e
  | .ok bs =>
    let mem : Bool × Int := (false, (c.d 1 : Int) + gthIndex isz bs * ((n : Nat) : Int))
    let data : Bool × Int := (true, ((c.d 3 + i * n : Nat) : Int))
    .ok (if bitOf c.h 8 then (data, mem) else (mem, data))
  | _ => .error { status := 6 }

/-- GTH: the next elements of the i-th started command. -/
def State.gth (s : State) (blk i : Nat) : Option State :=
  (s.cmdOf blk i 1).bind (fun c =>
    let w := if fld c.h 10 9 = 1 then 8 else 4
    let n := 2 ^ fld c.h 15 13
    let same := fun (i : Nat) => oneSector (c.d 2 + i * w : Nat) (c.d 2 + (i + 1) * w : Nat)
      || (bitOf c.h 8 && oneSector (c.d 3 + i * n : Nat) (c.d 3 + (i + 1) * n : Nat))
    s.moveRun blk c n (gthAt blk c) same none (fld c.h 63 32 - c.pos))
def execGth (blk i : Nat) (s : State) : Out := evOut s (s.gth blk i)

/-! COL (R96, R225, R344; log 41). -/

/-- The block index of participant 0, and the scope .domain. -/
def EngCmd.base (c : EngCmd) : Nat := fld (c.d 2) 63 32
def EngCmd.domain (c : EngCmd) : Bool := fld c.h 23 20 == 8

/-- The fields in which the commands of one collective agree. -/
def EngCmd.collDesc (c : EngCmd) : CollDesc :=
  { kind := 8, ctl := BitVec.ofNat 64 (c.h % 2 ^ 32), peers := BitVec.ofNat 64 (c.d 3), rows := fld (c.d 2) 31 0, cols := c.base
    etype := fld c.h 19 14 }

/-- The collective command a block is at: its first started one that is not finished. -/
def Block.colCmd (b : Block) : Option EngCmd := b.cmds.find? (fun c => c.eng == 2 && c.status.isNone)

/-- The participant index of a block in a command. -/
def State.colIndex (s : State) (c : EngCmd) (blkid : Nat) : Option Nat :=
  if c.domain then (if blkid = c.base then some s.devid.toNat else none)
  else if c.base ≤ blkid then some (blkid - c.base) else none

/-- Whether a command names a block of this device among its participants. -/
def State.colNames (s : State) (c : EngCmd) (blkid : Nat) : Bool := ((s.colIndex c blkid).map (fun j => j < 64 && bitOf (c.d 3) j)) == some true

/-- The other devices of a COL at .domain. -/
def State.colFar (s : State) (c : EngCmd) : List Nat :=
  if c.domain then (maskBits 64 (c.d 3)).filter (fun j => j != s.devid.toNat) else []

/-- The COL that a participant of another device is at. -/
def State.colHead (s : State) (ctx : Nat) (c : EngCmd) (j : Nat) : Option FarColl :=
  s.farColls.find? (fun e => e.ctx == ctx && e.dev == j && e.blkid == c.base && e.desc.kind == 8)

/-- The participants of a COL on this device: index, and block. -/
def State.colOwn (s : State) (b : Block) (c : EngCmd) : List (Nat × Option Nat) :=
  (maskBits 64 (c.d 3)).filterMap (fun j =>
    if !c.domain then some (j, (s.byIndex b.launch (c.base + j)).map (fun e => e.1))
    else if j = s.devid.toNat then some (j, (s.byIndex b.launch c.base).map (fun e => e.1)) else none)

/-- The elements of a block's buffer for its COL, up to the first that cannot be read, with that failure. -/
def State.colRead (s : State) (blk : Nat) (c : EngCmd) : Nat → Nat → List Nat × Option EngFail
  | 0, _ => ([], none)
  | f + 1, i =>
    let n := codeBytes (fld c.h 19 14)
    match (s.engRead blk c.id true ((c.d 1 + i * n : Nat) : Int) n).1 with
    | .ok bs => let r := s.colRead blk c f (i + 1); (ofLe bs :: r.1, r.2)
    | .fail e => ([], some e)
    | _ => ([], none)

/-- How a failure is told to another device, and how one that was told reads. -/
def EngFail.words (e : EngFail) : List Nat := [e.status, e.detail, e.space, e.addr]
def EngFail.ofWords (l : List Nat) : EngFail := { status := l.getD 0 0, detail := l.getD 1 0, space := l.getD 2 0, addr := l.getD 3 0 }

/-- A participant's elements: its index, its block and command where it is on this device, what it supplies, and its failure. -/
structure ColPart where
  j : Nat
  own : Option (Nat × EngCmd) := none
  vals : List Nat
  fail : Option EngFail := none

/-- The values a COL leaves in one participant's buffer at element i, of those at which none fails. -/
def colValue (c : EngCmd) (ps : List ColPart) (k : Nat) (i : Nat) : Option Nat :=
  let kind := fld c.h 9 8
  if kind = 0 then some (collCombine (tyOf (fld c.h 19 14) 8) (fld c.h 13 10) none (ps.map (fun p => p.vals.getD i 0))).1
  else
    let slice := fld (c.d 2) 31 0 / max ps.length 1
    let owner := if kind = 1 then ps.find? (fun p => p.j == fld c.h 31 26) else if slice = 0 then none else ps[i / slice]?
    (owner.filter (fun p => p.j != k)).map (fun p => p.vals.getD i 0)

/-- The elements of a COL moved as far as none fails, in this device's buffers; its commands end. -/
def State.colMove (s : State) (c : EngCmd) (ps : List ColPart) : State :=
  let count := fld (c.d 2) 31 0
  let done := (ps.map (fun p => p.vals.length)).foldl min count
  let fail := ps.findSome? (fun p => if p.vals.length = done then p.fail else none)
  let n := codeBytes (fld c.h 19 14)
  ps.foldl (fun (s : State) p => match p.own with
    | none => s
    | some (blk, x) => s.modBlk blk (fun b =>
      ((List.range done).foldl (fun (b : Block) i => match colValue c ps p.j i with
        | some v => b.storeC (x.d 1 + i * n) (leBytes n v)
        | none => b) b).modCmd x.id (fun x => ({ x with pos := done } : EngCmd).ended (match fail with
          | some e => .error e
          | none => .ok ())))) s

/-- Ending commands that disagree. Their failure has no address: where one is delivered as a trap, %taddr names offset 0 of the global space (log
95). -/
def State.colFail (s : State) (cs : List (Nat × EngCmd)) : State :=
  cs.foldl (fun (s : State) e => s.modBlk e.1 (fun b => b.modCmd e.2.id (fun c => c.ended (.error { status := 7 })))) s

/-- A participant's part, from what it has sent. -/
def colPart (j : Nat) (own : Option (Nat × EngCmd)) (groups : List (List Nat)) : ColPart :=
  { j, own, vals := groups.getD 0 [], fail := groups[1]?.map EngFail.ofWords }

/-- What a participant supplies to its COL: its elements, and how it fails. -/
def State.colGroups (s : State) (blk : Nat) (c : EngCmd) : List (List Nat) :=
  match c.told with
  | some g => g
  | none => let (vs, e) := s.colRead blk c (fld (c.d 2) 31 0) 0; vs :: (e.map EngFail.words).toList

/-- Telling the other devices of a COL at .domain: its fields, its elements, and how it fails. -/
def State.colTell (s : State) (blk : Nat) (c : EngCmd) : Option State :=
  let b := s.blk blk
  let g := s.colGroups blk c
  (s.tellAll (s.colFar c) (.collAt b.ctx b.blkid c.collDesc :: g.map (.collBits b.ctx b.blkid true))).map (fun s =>
    s.modBlk blk (fun b => b.modCmd c.id (fun c => { c with told := some g })))

/-- The commands at which the blocks named by some commands are, added to these; none while one of those blocks is not at a command that agrees with
the one that names it or names its block in turn. -/
def State.colNamed (s : State) (l : Nat) (ms : List (Nat × EngCmd)) : Option (List (Nat × EngCmd)) :=
  ms.foldl (fun (acc : Option (List (Nat × EngCmd))) m => (s.colOwn (s.blk m.1) m.2).foldl (fun acc e => acc.bind (fun acc =>
    (e.2.bind (fun p => ((s.blk p).colCmd.filter (fun x => (s.blk p).launch == l
        && (x.collDesc == m.2.collDesc || s.colNames x (s.blk m.1).blkid))).map (fun x => (p, x)))).map (fun y =>
      if acc.any (fun z => z.1 == y.1) then acc else acc ++ [y]))) acc) (some ms)

/-- Every participant of commands that disagree (R96): those that the commands name, those that their commands name, and so on; none while one is not
there. -/
def State.colParties (s : State) (l : Nat) (ms : List (Nat × EngCmd)) : Option (List (Nat × EngCmd)) :=
  (s.ofLaunch l).foldl (fun acc _ => acc.bind (s.colNamed l)) (some ms)

/-- COL: once every participant's command has started, the whole collective. Commands that name each other and disagree, and those of a
collective whose command a block outside its own PEERS has pushed, end with STATUS 0x07 at every participant. A block at a command that does not name
a peer is at another collective than that peer's, which waits for its next (log 95). -/
def State.col (s : State) (blk i : Nat) : Option State :=
  let b := s.blk blk
  (s.cmdOf blk i 2).bind (fun c =>
    if (b.colCmd.map (fun x => x.id)) != some c.id then none
    else if c.told.isNone && s.colFar c != [] then s.colTell blk c
    else
      let own := s.colOwn b c
      let heads := own.filterMap (fun e => e.2.bind (fun p => (s.blk p).colCmd.map (fun x => (e.1, p, x))))
      let there := heads.filter (fun e => e.2.2.collDesc == c.collDesc || s.colNames e.2.2 b.blkid)
      let outside := (s.ofLaunch b.launch).filterMap (fun e => (e.2.colCmd.filter (fun x =>
        x.collDesc == c.collDesc && !s.colNames x e.2.blkid)).map (fun x => (e.1, x)))
      let far := (s.colFar c).filterMap (fun j => (s.colHead b.ctx c j).map (fun e => (j, e)))
      let stray := s.farColls.filter (fun e => e.ctx == b.ctx && e.desc == c.collDesc && !((s.colFar c).contains e.dev && e.blkid == c.base))
      if there.length < own.length || far.length < (s.colFar c).length then none
      else
        let s' : State := { s with farColls := ((far.map (fun e => e.2)) ++ stray).foldl List.erase s.farColls }
        if !outside.isEmpty || !stray.isEmpty || there.any (fun e => e.2.2.collDesc != c.collDesc)
          || far.any (fun e => e.2.desc != c.collDesc) || (fld c.h 9 8 = 1 && !bitOf (c.d 3) (fld c.h 31 26)) then
          (s.colParties b.launch (there.map (fun e => e.2))).map (fun all => s'.colFail (all ++ outside))
        else if far.any (fun e => e.2.groups = [] || ((e.2.groups.getD 0 []).length < fld (c.d 2) 31 0 && e.2.groups.length < 2)) then none
        else
          let mine := there.map (fun e => colPart e.1 (some e.2) (s.colGroups e.2.1 e.2.2))
          let theirs := far.map (fun e => colPart e.1 none e.2.groups)
          some (s'.colMove c (sortBy (fun x y => x.j < y.j) (mine ++ theirs))))
def execCol (blk i : Nat) (s : State) : Out := evOut s (s.col blk i)

/-! Completion (R94, R249, R321, R327). -/

/-- The completion element (R94). -/
def EngCmd.element (c : EngCmd) : Dword :=
  BitVec.ofNat 64 (min c.pos (2 ^ 32 - 1) * 2 ^ 32 + cmdTag c.eng c.h * 2 ^ 24 + c.status.getD 0 * 2 ^ 8 + fld c.h 7 0)

/-- The scope of a command's completion word. -/
def EngCmd.cwScope (c : EngCmd) : Nat := if c.eng = 1 then fld c.h 19 16 else fld c.h 23 20

/-- ENGINE_COMMAND_COMPLETE: a finished command writes its completion word when it succeeded; then its element is due, or, with CPL = 0, its
place is free and a failure is a trap of the block, a WORLD failure freezing it. A fault of the word's own write is the command's (log 75). -/
def State.commandComplete (s : State) (blk i : Nat) : Option State :=
  let b := s.blk blk
  ((b.cmds[i]?).filter (fun c => s.enginesRun blk && c.status.isSome && !c.delivered)).map (fun c =>
    let at_ := if c.eng = 0 then 3 else 4
    let (c, s) := match if c.status = some 0 && cmdCw c.eng c.h then
          s.engWrite blk c.id (some c.cwScope) false (c.d at_ : Int) (leBytes 8 (c.d (at_ + 1)))
        else .ok s with
      | .ok s => (c, s)
      | .error e => (c.ended (.error e), s)
    let st := c.status.getD 0
    if c.cpl then
      let s := s.modBlk blk (fun b => b.modCmd c.id (fun _ => { c with delivered := true }))
      if st = 5 then { s with mgmt := { s.mgmt with notices := s.mgmt.notices ++ [(b.core, b.slot, c.faddr)] } } else s
    else s.modBlk blk (fun b =>
      let b := { b with cmds := b.cmds.filter (fun x => x.id != c.id) }
      if st = 0 then b
      else b.raise { cause := causeOf st, detail := c.detail, taddr := BitVec.ofNat 64 c.faddr, tport := tportQueue (2 * c.eng)
                     age := c.pushId, now := true }))
def execEngineCommandComplete (blk i : Nat) (s : State) : Out := evOut s (s.commandComplete blk i)

/-- Whether every access of a command is performed at .engine (R248). -/
def Block.cmdPerformed (b : Block) (id : Nat) : Bool := b.pend.all (fun p => p.agent != .e || p.seq != id || 3 ≤ p.done)

/-- The accesses of a command come before the control lane's later ones, whose pop of its element acquires them (R246; log 72). -/
def Block.orderE (b : Block) (id : Nat) : Block :=
  { b with pend := b.pend.map (fun p => if p.agent == .e && p.seq == id then { p with ordC := true } else p) }

/-- COMPLETION_ELEMENT_DELIVER: the oldest due element of an engine enters the completion queue when it has room, and in the drain of EXIT
is discarded when it has none (R21); the place is free. -/
def State.elementDeliver (s : State) (blk e : Nat) : Option State :=
  let b := s.blk blk
  let q := 2 * e + 1
  match (b.cmds.find? (fun c => c.eng == e && c.cpl)).filter (fun c => s.enginesRun blk && c.delivered && b.cmdPerformed c.id) with
  | none => none
  | some c =>
    let left := b.cmds.filter (fun x => x.id != c.id)
    if (b.qcwOf q).free != 0 then some (s.setBlk blk { (b.append q c.element).orderE c.id with cmds := left })
    else if b.exitIssued then some (s.setBlk blk { b with cmds := left })
    else none
def execCompletionElementDeliver (blk e : Nat) (s : State) : Out := evOut s (s.elementDeliver blk e)

/-! Farm queries (R97, R292). -/

/-- FQ: the block's oldest query that is not at the distributor reaches it and is given its ordinal. -/
def State.farmQuery (s : State) (blk : Nat) : Option State :=
  let b := s.blk blk
  let x := s.lch b.launch
  match (b.fqs.find? (fun f => !f.reached)).filter (fun _ => s.enginesRun blk) with
  | none => none
  | some f =>
    let n := if x.det then b.blkid + f.m * x.pblk else x.farmNext
    let b' := { b.setQcw 6 ((b.qcwOf 6).popped 1) with
      fqs := b.fqs.map (fun g => if g.m == f.m then { g with reached := true, ordinal := some n } else g) }
    some ((s.setBlk blk b').modLch b.launch (fun x => if x.det then x else { x with farmNext := x.farmNext + 1 }))
def execFq (blk : Nat) (s : State) : Out := evOut s (s.farmQuery blk)

/-- The answer to an ordinal: the coordinates of its tile, or the token (R97, R292). -/
def Launch.answer (x : Launch) (n : Nat) : Dword :=
  if x.x * x.y * x.z ≤ n then BitVec.allOnes 64
  else BitVec.ofNat 64 (n / (x.x * x.y) * 2 ^ 42 + n / x.x % x.y * 2 ^ 21 + n % x.x)

/-- FARM_ANSWER: the oldest query at the distributor is answered: the answer dword, then CVAL. -/
def State.farmAnswer (s : State) (blk : Nat) : Option State :=
  let b := s.blk blk
  match b.fqs with
  | [] => none
  | f :: rest =>
    match f.ordinal.filter (fun _ => s.enginesRun blk) with
    | none => none
    | some n => some (s.setBlk blk { (b.storeC f.ans (leBytes 8 ((s.lch b.launch).answer n).toNat)).storeC (f.ans + 8) (leBytes 8 f.cval.toNat) with
        fqs := rest })
def execFarmAnswer (blk : Nat) (s : State) : Out := evOut s (s.farmAnswer blk)

end Sys2Proof.Machine
end

