-- ==== Sys2Proof/Machine/Shake.lean ====
section
/-! DEFINITION. SHAKE256 (R361, R383, R384, R388), which the spec names and does not give: written from FIPS 202 (log 20). -/

namespace Sys2Proof.Machine

/-- A 64-bit word rotated left. -/
def rotl64 (x n : Nat) : Nat := (x * 2 ^ n + x / 2 ^ (64 - n)) % 2 ^ 64

/-- One step of the round-constant register. -/
def lfsrStep (r : Nat) : Nat := if 128 ≤ r then (2 * r - 256) ^^^ 0x71 else 2 * r

/-- A round constant: bits 2^j − 1 from seven register states; the register after them. -/
def roundConst : Nat → Nat → Nat × Nat
  | 0, r => (0, r)
  | j + 1, r =>
    let (c, r') := roundConst j r
    ((if r' % 2 = 1 then c + 2 ^ (2 ^ j - 1) else c), lfsrStep r')

/-- The rotation of lane (x, y), by the walk of the ρ step. -/
def rhoGo : Nat → Nat → Nat → Nat → List (Nat × Nat)
  | 0, _, _, _ => []
  | n + 1, t, x, y => (5 * y + x, (t + 1) * (t + 2) / 2 % 64) :: rhoGo n (t + 1) y ((2 * x + 3 * y) % 5)

/-- The rotations, by lane number. -/
def rhoTab : List Nat := (List.range 25).map (fun i => ((rhoGo 24 0 1 0).lookup i).getD 0)

/-- θ, ρ, π, χ and ι on 25 lanes; rc is the round constant. -/
def keccakRound (a : List Nat) (rc : Nat) : List Nat :=
  let g := fun (l : List Nat) i => l.getD i 0
  let c := (List.range 5).map (fun x => g a x ^^^ g a (x + 5) ^^^ g a (x + 10) ^^^ g a (x + 15) ^^^ g a (x + 20))
  let d := (List.range 5).map (fun x => g c ((x + 4) % 5) ^^^ rotl64 (g c ((x + 1) % 5)) 1)
  let r := (List.range 25).map (fun i => rotl64 (g a i ^^^ g d (i % 5)) (g rhoTab i))
  let b := (List.range 25).map (fun i => let x := i % 5; let y := i / 5; g r (5 * x + (x + 3 * y) % 5))
  let e := (List.range 25).map (fun i => let x := i % 5; let y := i / 5
    g b i ^^^ ((2 ^ 64 - 1 - g b (5 * y + (x + 1) % 5)) &&& g b (5 * y + (x + 2) % 5)))
  match e with
  | [] => []
  | h :: t => (h ^^^ rc) :: t

/-- n rounds. -/
def keccakGo : Nat → Nat → List Nat → List Nat
  | 0, _, a => a
  | n + 1, r, a => let (c, r') := roundConst 7 r; keccakGo n r' (keccakRound a c)

/-- The permutation. -/
def keccakF (a : List Nat) : List Nat := keccakGo 24 1 a

/-- A message cut into blocks of 136 bytes as 17 words each, with SHAKE's padding. -/
def shakeBlocks (msg : List Byte) : List (List Nat) :=
  let n := msg.length / 136 + 1
  let pad := n * 136 - msg.length
  let tail : List Byte := if pad = 1 then [0x9F#8] else [0x1F#8] ++ List.replicate (pad - 2) 0#8 ++ [0x80#8]
  let all := msg ++ tail
  (List.range n).map (fun i => (List.range 17).map (fun j => ofLe ((all.drop (136 * i + 8 * j)).take 8)))

/-- The first n ≤ 136 bytes of SHAKE256. -/
def shake256 (msg : List Byte) (n : Nat) : List Byte :=
  let fin := (shakeBlocks msg).foldl (fun st blk =>
    keccakF (List.zipWith (fun x y => x ^^^ y) st (blk ++ List.replicate 8 0))) (List.replicate 25 0)
  ((fin.take 17).flatMap (leBytes 8)).take n

end Sys2Proof.Machine
end

