-- ==== Sys2Proof/Machine/LaunchEngine.lean ====
section
/-! DEFINITION. The launch engine: fetching and checking records, starting and completing launches, graph replays (09 R275 to R285, R294;
13 R358 to R361). -/

namespace Sys2Proof.Machine

/-! Reading memory as the launch engine (R284). -/

/-- What ends a fetch: an ERR of the record (R279), or a fault at an address (R284). -/
inductive FetchStop where
  | err (n : Nat)
  | fault (va : Nat)
  deriving DecidableEq, Repr

/-- An action of the launch engine. -/
abbrev Eng := ExceptT FetchStop (StateM State)

/-- Failing with an ERR when a check does not hold. -/
def Eng.need (ok : Bool) (err : Nat) : Eng Unit := if ok then pure () else throw (.err err)

/-- Reading bytes in runs that stay within a 256 KiB page; perr is the ERR of a poisoned granule. Fuel bounds the runs. -/
def Eng.readRuns (ctx perr : Nat) : Nat → Nat → Nat → Eng (List Byte)
  | 0, _, _ => pure []
  | f + 1, va, n => do
    if n = 0 then return []
    let k := min n (0x40000 - va % 0x40000)
    let s ← get
    match s.translate (engineMaster ctx) { r := true } va with
    | (.error _, _) => throw (.fault va)
    | (.ok x, s) =>
      set s
      if (s.homePoison x.rkey k).isSome then throw (.err perr)
      let rest ← Eng.readRuns ctx perr f (va + k) (n - k)
      return s.mem.read x.rkey k ++ rest

def Eng.read (ctx perr va n : Nat) : Eng (List Byte) := Eng.readRuns ctx perr (n / 0x40000 + 2) va n

/-- The dwords of a run of bytes. -/
def dwords (bs : List Byte) (n : Nat) : List Nat := (List.range n).map (fun i => ofLe ((bs.drop (8 * i)).take 8))

/-- Writing bytes as the launch engine. -/
def Eng.write (ctx va : Nat) (bs : List Byte) : Eng Unit := do
  match (← get).engineWrite ctx va bs with
  | .error a => throw (.fault a)
  | .ok s => set s

/-! The record (R277, R279, R360 step 1). -/

def recKind (ds : List Nat) : Nat := fld (ds.getD 0 0) 1 0

/-- Reserved fields and encodings of a record. -/
def recordReserved (ds : List Nat) : Bool :=
  let d := fun i => ds.getD i 0
  let k := recKind ds
  let high := fun i => fld (d i) 63 56 != 0
  fld (d 0) 63 40 != 0 || fld (d 0) 31 28 != 0 || fld (d 0) 23 21 != 0 || fld (d 0) 3 2 != 0 || 8 < fld (d 0) 27 24 || 4 < fld (d 0) 20 18
    || fld (d 0) 7 4 != 1 || k == 3 || high 1 || high 4 || high 6 || high 7 || high 9 || high 10 || high 12 || bitOf (d 2) 63
    || fld (d 3) 63 32 != 0 || fld (d 5) 63 32 != 0 || fld (d 11) 63 16 != 0 || d 13 != 0 || d 14 != 0 || d 15 != 0
    || (if k = 2 then fld (d 0) 39 32 != 0 || fld (d 0) 27 24 != 0 || fld (d 0) 20 18 != 0 || fld (d 0) 16 13 != 0
          || [1, 2, 3, 4, 5, 6].any (fun i => d i != 0)
        else [9, 10, 11, 12].any (fun i => d i != 0))

/-- Misaligned address fields of a record. -/
def recordMisaligned (ds : List Nat) : Bool :=
  let d := fun i => ds.getD i 0
  d 1 % 64 != 0 || d 6 % 8 != 0 || d 7 % 8 != 0 || d 9 % 128 != 0 || d 10 % 16 != 0 || d 12 % 64 != 0

/-- A grid or farm outside its bounds. -/
def recordShape (ds : List Nat) : Bool :=
  let d := fun i => ds.getD i 0
  let (x, y, z) := (fld (d 2) 20 0, fld (d 2) 41 21, fld (d 2) 62 42)
  let p := fld (d 3) 31 0
  let n := if recKind ds = 1 then p else x * y * z
  let g := fld (d 0) 20 18
  x == 0 || y == 0 || z == 0 || (if recKind ds = 1 then p == 0 else 2 ^ 32 ≤ n || p != 0) || (g != 0 && n % g != 0)

/-- The checks of the record itself. -/
def Eng.checkRecord (pmax : Nat) (ds : List Nat) : Eng Unit := do
  Eng.need (!recordReserved ds) 0x01
  Eng.need (!recordMisaligned ds) 0x08
  Eng.need (fld (ds.getD 0 0) 12 8 ≤ pmax) 0x04
  Eng.need (recKind ds = 2 || !recordShape ds) 0x06

/-! The kernel header and its declaration table (R358 to R361). -/

/-- Header fields that the first check refuses. -/
def headerReserved (h : List Nat) : Bool :=
  let d := fun i => h.getD i 0
  fld (d 0) 63 32 != 0x4C455946 || fld (d 0) 31 24 != 1 || fld (d 0) 23 16 != 1 || fld (d 0) 15 9 == 0 || 64 < fld (d 0) 15 9
    || fld (d 0) 2 0 != 0 || fld (d 2) 63 56 != 0 || 1000000 < fld (d 3) 63 32 || fld (d 3) 31 21 != 0
    || fld (d 4) 39 37 != 0 || fld (d 5) 63 48 != 0 || 80 < fld (d 5) 47 32 || fld (d 7) 63 32 % 4 != 0

/-- A declaration table's records: KIND, INDEX and payload. -/
def declRecords (bs : List Byte) (n : Nat) : List (List Nat) := (List.range n).map (fun i => dwords (bs.drop (64 * i)) 8)

def declTsr (r : List Nat) : Tsr :=
  let d := fun i => BitVec.ofNat 64 (r.getD i 0)
  { d0 := d 1, d1 := d 2, d2 := d 3, d3 := d 4, d4 := d 5, d5 := d 6 }

/-- Declared tiles and queues: kind 1 or 2, duplicates and TILES bits. -/
def declBad (rs : List (List Nat)) (tiles : Nat) : Bool :=
  let key := fun (r : List Nat) => fld (r.getD 0 0) 13 0
  rs.any (fun r =>
    let k := fld (r.getD 0 0) 7 0
    !(k == 1 || k == 2) || fld (r.getD 0 0) 63 14 != 0 || r.getD 7 0 != 0 || (k == 2 && 15 < fld (r.getD 0 0) 13 8)
      || (k == 1 && !bitOf tiles (fld (r.getD 0 0) 13 8)))
    || (rs.map key).eraseDups.length != rs.length

/-- A declared tile that breaks R32 or R34 or holds a reserved value. -/
def tileDeclBad (n : Nat) (t : Tsr) (l : Limits) : Bool :=
  !t.v || t.inst != 0 || fld t.d1.toNat 33 0 != 0 || bitOf t.d4.toNat 56 || fld t.d4.toNat 37 4 != 0 || fld t.d4.toNat 1 0 != 0
    || (t.fault l).isSome || (portDepth n t).isSome

/-- A declared queue that breaks R42 or holds a reserved value. -/
def queueDeclBad (r : List Nat) (tiles : List (Nat × Tsr)) (shared : Nat) : Bool :=
  let n := fld (r.getD 0 0) 13 8
  let d := r.getD 1 0
  fld d 62 43 != 0 || fld d 39 36 != 0 || fld d 23 20 != 0 || [2, 3, 4, 5, 6].any (fun i => r.getD i 0 != 0)
    || (qcwFault n (BitVec.ofNat 64 d) shared ((tiles.lookup (48 + n)).getD {}).tileBytes).isSome

/-- The hash of R361. -/
def deviceHash (header body decl : List Byte) : Nat :=
  ofLe (shake256 (leBytes 8 0x0000000900010001 ++ header.take 48 ++ header.drop 56 ++ body ++ decl) 8)

/-- Whether an entry is in the context's verified-entry table, used now; or entering it (R361). -/
def Context.verify (x : Context) (e : VAddr) : Context := { x with verified := (e :: x.verified.filter (fun y => y != e)).take 64 }

/-- The checks of the kernel header, body and declaration table of a record, and what they give. -/
def Eng.checkKernel (ctx : Nat) (ds : List Nat) : Eng Header := do
  let entry := ds.getD 1 0
  let hb ← Eng.read ctx 0x02 (wrapBits 64 ((entry : Int) - 64)) 64
  let h := dwords hb 8
  let d := fun i => h.getD i 0
  Eng.need (!headerReserved h) 0x02
  let decl := sx 32 (fld (d 5) 31 0)
  let hoff := sx 32 (fld (d 4) 31 0)
  let hv := bitOf (d 4) 32
  Eng.need (decl % 64 = 0 && (!hv || hoff % 4 = 0)) 0x08
  let shared := fld (d 2) 19 0
  let acc := fld (d 2) 39 20
  let lane := fld (d 2) 50 40
  Eng.need (shared ≤ 393216 && acc ≤ 262144 && lane ≤ 1024) 0x03
  let n := fld (d 5) 47 32
  let verified := (((← get).ctx ctx).verified).contains (BitVec.ofNat 56 entry)
  let body ← if verified then pure [] else Eng.read ctx 0x02 entry (fld (d 7) 63 32)
  let db ← Eng.read ctx 0x02 (wrapBits 64 ((entry : Int) + decl)) (64 * n)
  Eng.need (verified || deviceHash hb body db == d 6) 0x02
  modify (fun s => s.modCtx ctx (fun x => x.verify (BitVec.ofNat 56 entry)))
  let rs := declRecords db n
  Eng.need (!declBad rs (d 1)) 0x02
  let monc := fld (ds.getD 0 0) 27 24
  let tiles := (rs.filter (fun r => fld (r.getD 0 0) 7 0 == 1)).map (fun r => (fld (r.getD 0 0) 13 8, declTsr r))
  let qs := rs.filter (fun r => fld (r.getD 0 0) 7 0 == 2)
  Eng.need (!tiles.any (fun t => tileDeclBad t.1 t.2 ⟨shared, acc, lane, monc⟩) && !qs.any (fun r => queueDeclBad r tiles shared)) 0x03
  Eng.need (fld (d 0) 6 3 ≤ monc) 0x05
  Eng.need ((fld (d 0) 8 7 == 0) == (recKind ds == 0)) 0x06
  let ept := fld (d 3) 63 32
  return {
    sregs := fld (d 0) 15 9, farm := fld (d 0) 8 7, monn := fld (d 0) 6 3, tiles := BitVec.ofNat 64 (d 1), roles := fld (d 2) 55 51
    lane, acc, shared, ept := if ept = 0 then 1000 else ept, ten := fld (d 3) 20 16
    handler := if hv then some (BitVec.ofNat 56 (wrapBits 56 ((entry : Int) + hoff))) else none
    tileDecl := tiles, queueDecl := qs.map (fun r => (fld (r.getD 0 0) 13 8, BitVec.ofNat 64 (r.getD 1 0))) }

/-- A launch from its record and header. -/
def launchOf (ctx q lidx : Nat) (ds : List Nat) (hdr : Header) : Launch :=
  let d := fun i => ds.getD i 0
  { ctx, queue := q, lidx, hdr, trsess := fld (d 0) 39 32, monc := fld (d 0) 27 24, cgsize := fld (d 0) 20 18, barr := bitOf (d 0) 17
    l1f := bitOf (d 0) 16, det := bitOf (d 0) 15, heat := fld (d 0) 14 13, prio := fld (d 0) 12 8, kind := recKind ds
    entry := BitVec.ofNat 56 (d 1), x := fld (d 2) 20 0, y := fld (d 2) 41 21, z := fld (d 2) 62 42, pblk := fld (d 3) 31 0
    argptr := BitVec.ofNat 64 (d 4), argsize := BitVec.ofNat 64 (fld (d 5) 31 0), bbxBase := d 6, cwaddr := d 7
    cwval := BitVec.ofNat 64 (d 8), graph := d 9 }

/-! Graphs (R281, R282). -/

/-- Checking the member records of a graph, in order, and their kernels. -/
def Eng.members (ctx q lidx pmax graph : Nat) : Nat → Nat → Eng (List Launch)
  | 0, _ => pure []
  | n + 1, i => do
    let ds := dwords (← Eng.read ctx 0x07 (graph + 64 + 128 * i) 128) 16
    Eng.need (recKind ds != 2) 0x07
    Eng.checkRecord pmax ds
    let hdr ← Eng.checkKernel ctx ds
    let rest ← Eng.members ctx q lidx pmax graph n (i + 1)
    return launchOf ctx q lidx ds hdr :: rest

/-- A replay record: its graph and patch list checked, its members checked, its parameters copied and patched. -/
def Eng.replay (ctx q lidx pmax : Nat) (ds : List Nat) : Eng (Launch × List Launch) := do
  let d := fun i => ds.getD i 0
  let g := dwords (← Eng.read ctx 0x07 (d 9) 64) 8
  let count := fld (g.getD 0 0) 15 0
  let param := g.getD 1 0
  let psize := fld (g.getD 2 0) 31 0
  Eng.need (1 ≤ count && count ≤ 4096 && fld (g.getD 0 0) 63 17 = 0 && param % 64 = 0 && fld param 63 56 = 0
    && fld (g.getD 2 0) 63 32 = 0 && psize % 8 = 0 && psize ≤ 2 ^ 20 && [3, 4, 5, 6, 7].all (fun i => g.getD i 0 == 0)) 0x07
  let pcopy := d 12
  let n := if d 10 = 0 then 0 else fld (d 11) 15 0
  Eng.need (!(d 10 != 0 && pcopy = 0) && n ≤ 4096) 0x07
  let ps := dwords (← Eng.read ctx 0x07 (d 10) (16 * n)) (2 * n)
  Eng.need ((List.range n).all (fun i => ps.getD (2 * i) 0 % 8 == 0 && ps.getD (2 * i) 0 < psize)) 0x07
  let ms ← Eng.members ctx q lidx pmax (d 9) count 0
  let x := { launchOf ctx q lidx ds {} with conc := bitOf (g.getD 0 0) 16 }
  if pcopy = 0 then return (x, ms)
  let bs ← Eng.read ctx 0x07 param psize
  let bs := (List.range n).foldl (fun (bs : List Byte) i =>
    let o := ps.getD (2 * i) 0
    bs.take o ++ leBytes 8 (ps.getD (2 * i + 1) 0) ++ bs.drop (o + 8)) bs
  Eng.write ctx pcopy bs
  return (x, ms.map (fun m => if param ≤ m.argptr.toNat && m.argptr.toNat < param + psize
    then { m with argptr := BitVec.ofNat 64 (pcopy + (m.argptr.toNat - param)) } else m))

/-! RECORD_FETCH (R275, R279). -/

/-- Records of a queue fetched and not yet started. -/
def State.fetched (s : State) (ctx q : Nat) : Nat :=
  (s.launches.filter (fun e => e.2.ctx == ctx && e.2.queue == q && e.2.member.isNone && e.2.st == .fetched)).length

/-- Whether a quiesced checkpoint or a warm reset stops fetching and placement (R323, R387). -/
def State.quiet (s : State) : Bool := s.resetting || (match s.ckpt with
  | some k => k.running && !k.live
  | none => false)

/-- Whether the launch engine may fetch from a queue. -/
def State.mayFetch (s : State) (ctx q : Nat) : Bool :=
  let x := s.ctx ctx
  let y := x.queue q
  !s.quiet && x.en && x.state != 2 && x.state != 3 && y.open_ && !y.halt && y.held != 0 && s.fetched ctx q < 2

/-- A fetched record's launch, or launches. -/
def Eng.fetch (ctx q : Nat) : Eng Unit := do
  let s ← get
  let y := (s.ctx ctx).queue q
  let lidx := y.ridx.toNat
  let pmax := (s.ctx ctx).pmax.toNat
  let ds := dwords (← Eng.read ctx 0x01 (y.slot lidx) 128) 16
  Eng.checkRecord pmax ds
  let (x, ms) ← if recKind ds = 2 then Eng.replay ctx q lidx pmax ds
    else do
      let hdr ← Eng.checkKernel ctx ds
      pure (launchOf ctx q lidx ds hdr, [])
  modify (fun s =>
    let id := s.nextId
    let ids := rangeFrom (id + 1) ms.length
    let s : State := { s with nextId := id + 1 + ms.length }
    let s := s.setLch id { x with members := ids }
    let s := (ids.zip ms).foldl (fun (s : State) e => s.setLch e.1 { e.2 with member := some id }) s
    s.modQueue ctx q (fun y => { y with ridx := y.ridx + 1 }))

/-- RECORD_FETCH: the next record of a queue is fetched; or it fails and halts its queue, or a fault stops its context. -/
def State.recordFetch (s : State) (ctx q : Nat) : Option State :=
  if !s.mayFetch ctx q then none
  else some (match (Eng.fetch ctx q).run s with
    | (.ok _, s) => s
    | (.error (.err n), s) => s.haltQueue ctx q n
    | (.error (.fault va), s) => s.faultCtx ctx q va)
def execRecordFetch (ctx q : Nat) (s : State) : Out :=
  if 64 ≤ ctx || 16 ≤ q then .fault .noSuchUnit else evOut s (s.recordFetch ctx q)

/-! LAUNCH_START (R279, R281, R294). -/

/-- The launches of a launch's queue before it, in queue order. -/
def State.before (s : State) (l : Nat) : List (Nat × Launch) :=
  let x := s.lch l
  s.launches.filter (fun e => e.1 < l && e.2.ctx == x.ctx && e.2.queue == x.queue)

/-- Whether a fetched launch may start. -/
def State.mayStart (s : State) (l : Nat) : Bool :=
  let x := s.lch l
  x.st == .fetched && (Tab.get s.launches l).isSome
    && (s.before l).all (fun e => e.2.st != .fetched && (!x.barr || e.2.st == .completed || x.member == some e.1))
    && (x.kind != 2 || x.conc || s.launches.all (fun e =>
      l ≤ e.1 || e.2.kind != 2 || e.2.ctx != x.ctx || e.2.graph != x.graph || e.2.st == .completed))
    && s.ssms.length + x.monc ≤ 16

/-- LAUNCH_START: its claims take the lowest free monitors; its blocks become candidates. -/
def State.launchStart (s : State) (l : Nat) : Option State :=
  if !s.mayStart l then none
  else
    let x := s.lch l
    let mine := ((List.range 16).filter (fun m => !s.ssms.contains m)).take x.monc
    let (n, s) := s.fresh
    let x := { x with st := .started, startedAt := n, ssms := mine, claims := List.replicate x.monc {} }
    let x' := if x.det then x.openEpoch s else x
    let s := ({ s with ssms := mine.foldl addNum s.ssms } : State).setLch l x'
    some (s.record (s.sessionOf x) 0x01 1 0xFF 0 (x.who 0) [x.entry.toNat])
def execLaunchStart (l : Nat) (s : State) : Out := evOut s (s.launchStart l)

/-! LAUNCH_COMPLETE (R280, R281). -/

/-- The completion word of a launch, a release at .host; a fault leaves it unwritten and stops the context (R280). -/
def State.completionWord (s : State) (x : Launch) : State :=
  if x.cwaddr = 0 then s
  else match s.engineWrite x.ctx x.cwaddr (leBytes 8 x.cwval.toNat) with
    | .error _ => s.faultCtx x.ctx x.queue x.cwaddr
    | .ok s => s

/-- Whether everything a started launch must have done is done: its blocks retired, their accesses performed at .persist (R324), those ordered before
them at .host (R246), its deferred operations applied; or every member of a replay completed. -/
def State.mayComplete (s : State) (l : Nat) : Bool :=
  let x := s.lch l
  x.st == .started &&
    (if x.kind = 2 then x.members.all (fun m => (s.lch m).st == .completed)
     else x.made == x.total && (s.ofLaunch l).all (fun e => e.2.st == .retired && e.2.pend == [] && s.seenDone e.2 9)
      && !s.deferred.any (fun d => d.launch == l))

/-- LAUNCH_COMPLETE: claims and reservations released, completion words written, the trace told. -/
def State.launchComplete (s : State) (l : Nat) : Option State :=
  if !s.mayComplete l then none
  else
    let x := s.lch l
    let s := (s.enterReserved l).dropLaunch l
    let s := s.modLch l (fun x => { x with st := .completed })
    let s := if x.kind = 2 then
        let ms := x.members.map s.lch
        let s := (ms.filter (fun m => !m.terminated)).foldl State.completionWord s
        if ms.any (fun m => m.terminated) then s else s.completionWord x
      else if x.member.isSome then s
      else s.completionWord x
    some (s.record (s.sessionOf x) 0x02 1 0xFF 0 (x.who 0) [x.retired])
def execLaunchComplete (l : Nat) (s : State) : Out := evOut s (s.launchComplete l)

end Sys2Proof.Machine
end

