-- ==== Sys2Proof/Machine/Dispatcher.lean ====
section
/-! DEFINITION. The block dispatcher: candidates, placement, reservations, pre-emption, saves and restores (01 R17 to R20, R47; 07 R241; 09
R278, R286 to R290; 10 R304 to R306; 12 R350, R355). -/

namespace Sys2Proof.Machine

/-! Room (R278, R286). -/

def up1024 (n : Nat) : Nat := (n + 1023) / 1024 * 1024

/-- What a block needs of a core. -/
structure Room where
  hdr : Header
  l1f : Bool
  rows : Nat := 0
  deriving DecidableEq, Repr

/-- The blocks on a core but for those named. -/
def State.there (s : State) (out : List Nat) (core : Nat) : List (Nat × Block) := (s.onCore core).filter (fun e => !out.contains e.1)

/-- Slots and stores of a core for a block, the blocks named being gone; and no block of the other L1F value on it. -/
def State.coreFits (s : State) (out : List Nat) (r : Room) (core : Nat) : Bool :=
  let bs := s.there out core
  let sum := fun (f : Header → Nat) => (bs.map (fun e => f e.2.hdr)).foldl (· + ·) 0
  bs.length < 4
    && sum (fun h => up1024 h.shared) + up1024 r.hdr.shared ≤ 393216
    && sum (fun h => up1024 h.acc) + up1024 r.hdr.acc ≤ 262144
    && sum (fun h => h.lane) + r.hdr.lane ≤ 1024
    && s.wcoreBit core == s.secure.contains core

/-- Whether no block of the other L1F value is on a cluster. -/
def State.l1fOk (s : State) (out : List Nat) (l1f : Bool) (cl : Nat) : Bool :=
  (rangeFrom (cl * 4) 4).all (fun c => (s.there out c).all (fun e => (s.lch e.2.launch).l1f == l1f))

/-- The distinct cores of a cluster that a list of rooms fits on, lowest first; none when it does not fit. -/
def State.clusterFit (s : State) (out : List Nat) (cl : Nat) : List Room → List Nat → Option (List Nat)
  | [], used => some used
  | r :: rs, used =>
    match (rangeFrom (cl * 4) 4).find? (fun c => !used.contains c && s.coreFits out r c) with
    | none => none
    | some c => s.clusterFit out cl rs (used ++ [c])

/-- DEMAND and HEADROOM of a zone without the blocks named (R349). -/
def State.headroomWithout (s : State) (out : List Nat) (z : Nat) : Nat :=
  let y := s.zone z
  if y.state = 0 && !y.hold then y.alloc - (((s.onZone z).filter (fun e => !out.contains e.1)).map (fun e => e.2.dem)).foldl (· + ·) 0 else 0

/-- admits() for as many blocks of a launch (R350). -/
def State.zoneAdmits (s : State) (out : List Nat) (z n : Nat) (x : Launch) : Bool :=
  let y := s.zone z
  y.state == 0 && !y.hold && (!y.ownv || y.ownedBy x) && n * s.demOf x.heat ≤ s.headroomWithout out z

/-! Candidates (R287). -/

/-- A candidate: its launch, its blocks that are Saved (none: the launch's next Queued block or group), and its place in the list. -/
structure Cand where
  launch : Nat
  saved : List Nat
  first : Nat                    -- %blkid of its first block
  deriving DecidableEq, Repr

/-- Blocks of a launch's next Queued candidate. -/
def Launch.step (x : Launch) : Nat := if x.cgsize = 0 then 1 else x.cgsize

/-- The Saved candidates of a launch: blocks, or groups of which every block left is Saved. -/
def State.savedCands (s : State) (l : Nat) : List Cand :=
  let x := s.lch l
  let bs := (s.ofLaunch l).filter (fun e => e.2.st != .retired)
  let queued := x.made < x.total
  let free := fun (e : Nat × Block) => e.2.st == .saved && !e.2.restoring && !(e.2.heldBack && queued)
  if x.cgsize = 0 then (bs.filter free).map (fun e => ⟨l, [e.1], e.2.blkid⟩)
  else ((bs.map (fun e => e.2.blkid / x.cgsize)).eraseDups).filterMap (fun g =>
    let ms := bs.filter (fun e => e.2.blkid / x.cgsize == g)
    if ms.all free then some ⟨l, ms.map (fun e => e.1), g * x.cgsize⟩ else none)

/-- The candidates in list order: priority, start, Saved before Queued, %blkid. -/
def State.candidates (s : State) : List Cand :=
  let ls := sortBy (fun (a b : Nat × Launch) => b.2.prio < a.2.prio || (a.2.prio = b.2.prio && a.2.startedAt < b.2.startedAt))
    (s.launches.filter (fun e => e.2.st == .started && e.2.kind != 2))
  ls.flatMap (fun e => sortBy (fun (a b : Cand) => a.first < b.first) (s.savedCands e.1)
    ++ (if e.2.made < e.2.total then [⟨e.1, [], e.2.made⟩] else []))

/-- What a candidate's blocks need. -/
def State.roomsOf (s : State) (c : Cand) : List Room :=
  let x := s.lch c.launch
  if c.saved = [] then List.replicate x.step ⟨x.hdr, x.l1f, 0⟩ else c.saved.map (fun i => ⟨x.hdr, x.l1f, (s.blk i).rows⟩)

/-- The number that names a candidate in reservations: its first Saved block, or its launch. -/
def Cand.name (c : Cand) : Nat := c.saved.headD c.launch

/-- The cluster reserved for a candidate, and since when it is passed over. -/
def State.candCluster (s : State) (c : Cand) : Option Nat :=
  match c.saved with
  | i :: _ => (s.blk i).cluster
  | [] => (s.lch c.launch).cluster
def State.candPassed (s : State) (c : Cand) : Option Nat :=
  match c.saved with
  | i :: _ => (s.blk i).passedAt
  | [] => (s.lch c.launch).passed
def State.setCand (s : State) (c : Cand) (passed cluster : Option Nat) : State :=
  match c.saved with
  | i :: _ => s.modBlk i (fun b => { b with passedAt := passed, cluster })
  | [] => s.modLch c.launch (fun x => { x with passed, cluster })

/-! Choosing a place (R287). -/

/-- Free slots of a cluster. -/
def State.freeSlots (s : State) (cl : Nat) : Nat := 16 - (s.onCluster cl).length

/-- Free rows of a cluster without the blocks named. -/
def State.rowsWithout (s : State) (out : List Nat) (cl : Nat) : Nat :=
  128 - (((s.onCluster cl).filter (fun e => !out.contains e.1)).map (fun e => e.2.rows)).foldl (· + ·) 0

/-- The cores of a cluster on which a candidate fits, the blocks named being gone. -/
def State.fitsOn (s : State) (out : List Nat) (c : Cand) (cl : Nat) : Option (List Nat) :=
  let x := s.lch c.launch
  let rs := s.roomsOf c
  if s.zoneAdmits out (cl / 2) rs.length x && s.l1fOk out x.l1f cl && (rs.map (fun r => r.rows)).foldl (· + ·) 0 ≤ s.rowsWithout out cl
  then s.clusterFit out cl rs [] else none

/-- The clusters of the dies given, but for those reserved for candidates before this one. -/
def State.openClusters (s : State) (dies : List Nat) (earlier : List Cand) : List Nat :=
  let taken := earlier.filterMap s.candCluster
  (dies.flatMap (fun d => rangeFrom (d * 24) 24)).filter (fun cl => !taken.contains cl)

/-- The place of a candidate: the admissible zone with the largest headroom where it fits, within it the cluster with the fewest free slots,
the lowest number on a tie. -/
def State.placeFor (s : State) (dies : List Nat) (earlier : List Cand) (c : Cand) : Option (Nat × List Nat) :=
  let fits := (s.openClusters dies earlier).filterMap (fun cl => (s.fitsOn [] c cl).map (fun cores => (cl, cores)))
  (sortBy (fun (a b : Nat × List Nat) =>
    s.headroom (b.1 / 2) < s.headroom (a.1 / 2) || (s.headroom (b.1 / 2) = s.headroom (a.1 / 2) &&
      (a.1 / 2 < b.1 / 2 || (a.1 / 2 = b.1 / 2 && (s.freeSlots a.1 < s.freeSlots b.1 || (s.freeSlots a.1 = s.freeSlots b.1 && a.1 < b.1)))))) fits).head?

/-! Placing (R47, R278). -/

/-- The lowest free slot of a core. -/
def State.freeSlot (s : State) (core : Nat) : Nat :=
  ((List.range 4).find? (fun n => !(s.onCore core).any (fun e => e.2.slot == n))).getD 0

/-- The fusion of a cluster as a block is placed on it: an empty cluster takes the block's. -/
def State.fuse (s : State) (cl : Nat) (l1f : Bool) : State :=
  if (s.onCluster cl) != [] || s.fused.contains cl == l1f then s
  else (rangeFrom (cl * 4) 4).foldl State.l1Clear { s with fused := setNum s.fused cl l1f }

/-- A block before its first instruction (R47). -/
def newBlock (x : Launch) (l blkid : Nat) : Block :=
  let grid := x.kind = 0
  let (gx, gy, gz) := if grid then (blkid % x.x, blkid / x.x % x.y, blkid / (x.x * x.y)) else (0, 0, 0)
  let n := fun (v : Nat) => BitVec.ofNat 64 v
  let init := [0, x.argptr, x.argsize, n blkid, n gx, n gy, n gz]
  { launch := l, ctx := x.ctx, blkid, gx, gy, gz, st := .ready, hdr := x.hdr, pc := x.entry
    s := Vector.ofFn (fun i => init.getD i.val 0)
    tsr := Vector.ofFn (fun i => (x.hdr.tileDecl.lookup i.val).getD {})
    qcw := Vector.ofFn (fun i => ⟨(x.hdr.queueDecl.lookup i.val).getD 0, 0⟩)
    mode := n (x.hdr.ten * 2 ^ 8), eptPeriod := x.hdr.ept, stopReq := if x.stopNew then some false else none }

/-- Putting a block on a core: slot, demand, fusion, the acquire of its start or resume, a PLACE record. -/
def State.putOn (s : State) (blk core : Nat) (resume : Bool) : State :=
  let x := s.lch (s.blk blk).launch
  let s := s.fuse (clusterOf core) x.l1f
  let (n, s) := s.fresh
  let slot := s.freeSlot core
  let s := s.modBlk blk (fun b => { b with
    core, slot, dem := s.demOf x.heat, placedAt := n, readyAt := s.clock, passedAt := none, cluster := none, restoring := resume, heldBack := false })
  let s := s.acquire blk 7
  s.blkRecord (s.blk blk) 0x03 1 [zoneOf core, b2n resume]

/-- Placing a candidate on its cores: new blocks, or Saved ones whose restore starts. -/
def State.placeCand (s : State) (c : Cand) (cores : List Nat) : State :=
  let x := s.lch c.launch
  let s := s.setCand c none none
  if c.saved = [] then
    (((List.range cores.length).zip cores).foldl (fun (s : State) e =>
      let (id, s) := s.fresh
      (s.setBlk id { newBlock x c.launch (x.made + e.1) with st := .retired }).putOn id e.2 false
        |>.modBlk id (fun b => { b with st := .ready })) s).modLch c.launch (fun y => { y with made := y.made + cores.length })
  else (c.saved.zip cores).foldl (fun (s : State) e => s.putOn e.1 e.2 true) s

/-! Saves (R17 to R19, R288 to R290, R305, R306). -/

/-- A block and the members of its cluster group, those retired apart (R19). -/
def State.withGroup (s : State) (blk : Nat) : List Nat :=
  let b := s.blk blk
  let n := (s.lch b.launch).cgsize
  if n = 0 then [blk]
  else ((s.ofLaunch b.launch).filter (fun e => e.2.blkid / n == b.blkid / n && e.2.st != .retired)).map (fun e => e.1)

/-- Whether a block can be told to save: resident, not Saving, Retiring, frozen or being restored. -/
def Block.saveable (b : Block) : Bool :=
  match b.st with
  | .ready | .waiting _ => !b.restoring && !b.exitIssued
  | _ => false

/-- A pre-emption request accepted: the control lane stops; the records of a block in its handler are held (R39). -/
def Block.stopFor (b : Block) (reason : Nat) : Block :=
  { b with
    st := .saving, reason, detWait := false, cleatWait := none, defWait := none, walkWait := none, promoted := false
    held := if b.intrap then b.recs.length else 0 }

/-- The tile instructions of a block that is being saved stop (R302), once their records fit beside those held (log 74); a trap entry under
way comes first (R18). -/
def State.stopTiles (s : State) (blk : Nat) : State :=
  let b := s.blk blk
  if b.trapP.isSome || 8 < b.stopRecs.length then s else (s.landUnits blk).modBlk blk Block.halted

/-- Starting the save of one block; for pre-emption it takes a free frame now (R306). -/
def State.startSave (s : State) (blk reason : Nat) : State :=
  let b := s.blk blk
  if !b.saveable then s
  else if reason = cEVAC then (s.setBlk blk (b.stopFor reason)).stopTiles blk
  else
    let s := match (s.ctx b.ctx).freeFrame with
      | some f => (s.modCtx b.ctx (fun c => { c with frames := addNum c.frames f })).setBlk blk { b.stopFor reason with frame := some f }
      | none => s.setBlk blk (b.stopFor reason)
    ({ s with saves := s.saves ++ [(dieOf b.core, blk)] } : State).stopTiles blk

/-- Free frames of a context. -/
def State.freeFrames (s : State) (ctx : Nat) : Nat := (s.ctx ctx).saven - (s.ctx ctx).frames.length

/-- Whether a die has a pre-emptive save in progress (R290). -/
def State.saving (s : State) (die : Nat) : Bool := s.saves.any (fun e => e.1 == die)

/-- Whether a block waits where its own launch may take its place (R288). -/
def Block.yields (b : Block) : Bool :=
  match b.st with
  | .waiting (.bar sc) => 6 ≤ sc.toNat
  | .waiting .det => true
  | _ => false

/-- Groups of a launch's waiting blocks, every member waiting so, most recently placed first (log 30). -/
def State.yieldGroups (s : State) (l : Nat) : List (List Nat) :=
  let bs := sortBy (fun (a b : Nat × Block) => b.2.placedAt < a.2.placedAt) ((s.ofLaunch l).filter (fun e => e.2.yields))
  ((bs.map (fun e => s.withGroup e.1)).eraseDups).filter (fun g => g.all (fun i => (s.blk i).saveable && (s.blk i).yields))

/-- The blocks that are being saved. -/
def State.leaving (s : State) : List Nat := (s.blocks.filter (fun e => e.2.st == .saving)).map (fun e => e.1)

/-- Whether a candidate would fit somewhere with blocks gone. -/
def State.fitsWithout (s : State) (out : List Nat) (earlier : List Cand) (c : Cand) : Bool :=
  (s.openClusters [0, 1] earlier).any (fun cl => (s.fitsOn out c cl).isSome)

/-- The shortest leading run of groups whose removal, with that of the blocks being saved, makes room for a Queued candidate. -/
def State.yieldRun (s : State) (earlier : List Cand) (c : Cand) : Option (List (List Nat)) :=
  let gs := s.yieldGroups c.launch
  ((rangeFrom 1 gs.length).map (fun n => gs.take n)).find? (fun run => s.fitsWithout (s.leaving ++ run.flatten) earlier c)

/-- Saving for a Queued block of the same launch (R288): the first group of the run, while its die has no save in progress. -/
def State.saveOwn (s : State) (earlier : List Cand) (c : Cand) : Option State :=
  if c.saved != [] then none
  else match s.yieldRun earlier c with
    | some (g :: _) =>
      let die := dieOf (s.blk (g.headD 0)).core
      if s.saving die || s.freeFrames (s.lch c.launch).ctx < g.length then none
      else some (g.foldl (fun (s : State) i => (s.modBlk i (fun b => { b with heldBack := true })).startSave i cPREEMPT) s)
    | _ => none

/-- The victim sets for a candidate (R289): sets with their highest priority, latest placement and lowest core. -/
def State.victims (s : State) (earlier : List Cand) (c : Cand) : List (List Nat × Nat × Nat × Nat) :=
  let x := s.lch c.launch
  let gap := (s.ctx x.ctx).pregap.toNat
  let sets := ((s.blocks.filter (fun e => e.2.onCore)).map (fun e => s.withGroup e.1)).eraseDups
  sets.filterMap (fun g =>
    let bs := g.map s.blk
    let prio := fun (b : Block) => (s.lch b.launch).prio
    if bs.all (fun b => b.saveable && prio b + gap ≤ x.prio) && g.length ≤ s.freeFrames (bs.headD {}).ctx
      && s.fitsWithout g earlier c
    then some (g, (bs.map prio).foldl max 0, (bs.map (fun b => b.placedAt)).foldl max 0, (bs.map (fun b => b.core)).foldl min 192)
    else none)

/-- Pre-emption for a candidate (R289): the victim set of the lowest highest priority, then fewest blocks, latest placed, lowest core; it is
queued while the set's die has a save in progress (R290). -/
def State.preempt (s : State) (earlier : List Cand) (c : Cand) : Option State :=
  let vs := sortBy (fun (a b : List Nat × Nat × Nat × Nat) =>
    a.2.1 < b.2.1 || (a.2.1 = b.2.1 && (a.1.length < b.1.length || (a.1.length = b.1.length &&
      (b.2.2.1 < a.2.2.1 || (a.2.2.1 = b.2.2.1 && a.2.2.2 < b.2.2.2)))))) (s.victims earlier c)
  (vs.head?.filter (fun v => !s.saving (dieOf v.2.2.2))).map (fun v => v.1.foldl (fun (s : State) i => s.startSave i cPREEMPT) s)

/-- Saves for a candidate that fits nowhere: of its own launch's waiting blocks, or of victims; none while the saves in progress make room. -/
def State.makeRoom (s : State) (earlier : List Cand) (c : Cand) : Option State :=
  if s.fitsWithout s.leaving earlier c then none else (s.saveOwn earlier c).or (s.preempt earlier c)

/-- BLOCK_PLACE: the die's dispatcher works through the list: a candidate that fits on it is placed; one that fits nowhere is passed over,
and may have blocks saved for it. -/
def State.dispatch (s : State) (die : Nat) : List Cand → List Cand → Option State
  | [], _ => none
  | c :: rest, earlier =>
    match s.placeFor [die] earlier c with
    | some (_, cores) => some (s.placeCand c cores)
    | none =>
      if (s.placeFor [0, 1] earlier c).isSome then s.dispatch die rest (earlier ++ [c])
      else
        let s' := if (s.candPassed c).isNone then s.setCand c (some s.qtb) (s.candCluster c) else s
        match s'.makeRoom earlier c with
        | some s => some s
        | none =>
          match s'.dispatch die rest (earlier ++ [c]) with
          | some s => some s
          | none => if (s.candPassed c).isNone then some s' else none
def State.blockPlace (s : State) (die : Nat) : Option State := if s.quiet then none else s.dispatch die s.candidates []
def execBlockPlace (die : Nat) (s : State) : Out := if 2 ≤ die then .fault .noSuchUnit else evOut s (s.blockPlace die)

/-! CLUSTER_RESERVATION (R287). -/

/-- The fewest blocks of a core, in order, whose removal makes room for a room, each with its group; fuel bounds their number. -/
def State.coreRemovals (s : State) (r : Room) (core : Nat) : Option Nat :=
  let gone := fun (ns : List Nat) => (ns.flatMap s.withGroup).eraseDups
  let ids := (s.onCore core).map (fun e => e.1)
  let l1f := (s.onCore core).filter (fun e => (s.lch e.2.launch).l1f != r.l1f)
  let subs := ids.foldr (fun i (acc : List (List Nat)) => acc ++ acc.map (fun x => i :: x)) [[]]
  let ok := subs.filter (fun x => s.coreFits x r core && l1f.all (fun e => x.contains e.1))
  match ok with
  | [] => none
  | y :: ys => some (ys.foldl (fun m x => min m (gone x).length) (gone y).length)

/-- The blocks to be removed on a cluster for a candidate: the cores that need fewest. -/
def State.clusterRemovals (s : State) (c : Cand) (cl : Nat) : Option Nat :=
  let rs := s.roomsOf c
  match rs with
  | [] => none
  | r :: _ =>
    let ns := sortBy (fun (a b : Nat) => a < b) ((rangeFrom (cl * 4) 4).filterMap (fun core => s.coreRemovals r core))
    if ns.length < rs.length then none else some ((ns.take rs.length).foldl (· + ·) 0)

/-- CLUSTER_RESERVATION: a candidate passed over for 1 ms reserves the cluster that needs the fewest blocks removed. -/
def State.reserveCluster (s : State) (n : Nat) : Option State :=
  match s.candidates.find? (fun c => c.name == n) with
  | none => none
  | some c =>
    match s.candPassed c, s.candCluster c with
    | some t, none =>
      if s.qtb < t + 1000000 then none
      else
        let x := s.lch c.launch
        let ok := (List.range 48).filter (fun cl => let z := s.zone (cl / 2); z.state == 0 && (!z.ownv || z.ownedBy x))
        let best := sortBy (fun (a b : Nat × Nat) => a.2 < b.2 || (a.2 = b.2 && a.1 < b.1)) (ok.filterMap (fun cl => (s.clusterRemovals c cl).map (fun k => (cl, k))))
        best.head?.map (fun e => s.setCand c (some t) (some e.1))
    | _, _ => none
def execClusterReservation (blk : Nat) (s : State) : Out := evOut s (s.reserveCluster blk)

/-! SAVE_COMPLETE (R305, R306). -/

/-- Whether the steps of a save before its frame are done: its tile instructions stopped, its started commands complete, its queries answered,
every access performed at .persist; and every write that it may have seen in its core's L1 or in its die's copy of a replicated page alone is
performed at .dev, so that its later accesses stay ordered after a partner's wherever it resumes (R241). -/
def State.saveReady (s : State) (b : Block) : Bool :=
  b.st == .saving && b.trapP.isNone && b.flights.isEmpty && b.cmds.all (fun c => c.delivered) && b.fqs.isEmpty && b.pend.isEmpty
    && (s.passed b.core).isEmpty && s.halfWrites.isEmpty

/-- The frame written and the block's places released (R305 step 5 and 6), or its termination. -/
def State.saveFrame (s : State) (blk : Nat) : Option State :=
  let s := s.flushBbx blk
  let b := s.blk blk
  let core := b.core
  let done := fun (s : State) => { s with saves := s.saves.filter (fun e => e.2 != blk) }
  match b.frame.or (s.ctx b.ctx).freeFrame with
  | none => if b.reason = cEVAC then some ((done s).terminate blk 4 0) else none
  | some f =>
    let s := (s.modCtx b.ctx (fun c => { c with frames := addNum c.frames f })).modBlk blk (fun b => { b with frame := some f })
    match s.writeFrame blk f ⟨b.reason, 0, 1⟩ with
    | none => some ((done (s.modBlk blk (fun b => { b with frame := none }))).terminate blk 3 0)
    | some s =>
      let s := s.blkRecord b 0x04 1 [b.reason, f]
      some ((done (s.modBlk blk (fun b => { b with
        st := .saved, restoring := false, dem := 0, passedAt := none, recs := b.recs.map (fun f => f.unplaced.turned s.clock) }))).settleCore core)

/-- SAVE_COMPLETE: the last tile instructions stop, or the save ends. -/
def State.saveComplete (s : State) (blk : Nat) : Option State :=
  let b := s.blk blk
  if b.st == .saving && b.flights != [] then (if b.trapP.isSome || 8 < b.stopRecs.length then none else some (s.stopTiles blk))
  else if s.saveReady b then s.saveFrame blk else none
def execSaveComplete (blk : Nat) (s : State) : Out := evOut s (s.saveComplete blk)

/-! RESTORE_COMPLETE (R241, R304, R306). -/

/-- A block as its frame is loaded: past a BAR that released meanwhile (R17); it does not issue while a debug stop holds. -/
def Block.loaded (b : Block) : Block :=
  let b := match b.passed with
    | some a => b.barDone a
    | none => b
  { b with st := if b.stopped then .waiting .stop else .ready, restoring := true }

/-- RESTORE_COMPLETE: the frame is read back, or it terminates the block; the records replay, in a handler only those of its own
instructions (R39). -/
def State.restoreComplete (s : State) (blk : Nat) : Option State :=
  let b := s.blk blk
  if b.st != .saved || !b.restoring then none
  else match b.frame.bind (fun f => s.readFrame blk f) with
    | none => some (s.terminate blk 3 0)
    | some (m, s) =>
      match if s.frameBad b m then none else frameBlock b m with
      | none => some (s.terminate blk 8 0)
      | some b' =>
        let s := (s.setBlk blk b'.loaded).acquire blk 7
        let s := s.replay blk (if b'.intrap then b'.held else 0)
        some (if b'.intrap then s else s.modBlk blk Block.restartEpt)
def execRestoreComplete (blk : Nat) (s : State) : Out := evOut s (s.restoreComplete blk)

end Sys2Proof.Machine
end

