-- ==== Sys2Proof/Machine/Resets.lean ====
section
/-! DEFINITION. Errors, the warm reset and the clock (07 R258; 10 R317 to R319, R323 to R325; 13 R376; 14 R378 to R380). -/

namespace Sys2Proof.Machine

/-! The start of a warm reset (R323, R324). -/

/-- Whether a block prevents its context's survival: on its core but for a restore under way, or with a command, a reduction or an atomic
outstanding. -/
def Block.prevents (b : Block) : Bool :=
  (match b.st with
    | .retired | .saved => false
    | .ready | .waiting _ => !b.restoring
    | _ => true)
    || b.cmds.any (fun c => !c.delivered)
    || b.pend.any (fun p => p.pas != [] && (match p.kind with
      | .rmw _ _ _ _ _ _ => true
      | _ => false))

/-- Whether a context survives a warm reset that starts now (R324). -/
def State.survives (s : State) (ctx : Nat) : Bool :=
  !s.blocks.any (fun e => e.2.ctx == ctx && e.2.prevents)
    && !s.deferred.any (fun d => (s.lch d.launch).ctx == ctx)
    && !s.launches.any (fun e => e.2.ctx == ctx && e.2.st == .fetched)

/-- A running checkpoint aborted by a warm reset (R387). -/
def State.abortCkpt (s : State) : State :=
  match s.ckpt with
  | some k => if k.running then ({ s with ckpt := some { k with running := false, error := true } } : State).signal 4 else s
  | none => s

/-- A warm reset starts, with its cause; one under way goes on. -/
def State.warmStart (s : State) (cause : Nat) : State :=
  if s.resetting then s
  else ({ s with resetting := true, rstCause := BitVec.ofNat 8 cause, survivors := (List.range 64).filter s.survives } : State).abortCkpt

/-- RSTCTL_WARM: a write of RSTCTL.WARM, which a device whose bring-up has failed does not take (R381). -/
def execRstctlWarm (s : State) : Out := evOut s (some (s.warmStart 3))

/-! The end of a warm reset (R258, R325, R376). -/

/-- A free bit. -/
def State.freeBit (s : State) : Bool × State := (Config.freeBool s.free, { s with free := s.free + 1 })

/-- A sector not yet in the HBM array survives whole or is lost (R258); with it goes what poison struck its copy in L2. -/
def State.settleSector (s : State) (e : Nat × List Byte) : State :=
  let (keep, s) := s.freeBit
  if keep then s
  else { s with mem := s.mem.write (e.1 * 64) e.2, poison := if s.poisonL2.contains e.1 then delNum s.poison e.1 else s.poison }

/-- Writes issued and not performed at a surviving context's memory: each happens or is lost. -/
def State.settlePends (s : State) (blk : Nat) : State :=
  let b := s.blk blk
  let s := b.pend.foldl (fun (s : State) p =>
    match p.kind with
    | .wr bs =>
      let (keep, s) := s.freeBit
      if keep then p.pas.foldl (fun (s : State) k => s.homeWrite k bs) s else s
    | _ => s) s
  s.modBlk blk (fun b => { b with pend := [] })

/-- A block whose restore is abandoned before its first instruction: Saved as before, its frame unchanged (R355). -/
def Block.abandon (b : Block) : Block :=
  { b with st := .saved, restoring := false, dem := 0, recs := b.stopRecs, flights := [], promoted := false, passedAt := none, defWait := none, walkWait := none, cleatWait := none, detWait := false
           pend := [] }

/-- Abandoning the restore of a block, which its core then no longer holds (R355, R385). -/
def State.abandon (s : State) (blk : Nat) : State := (s.modBlk blk Block.abandon).settleCore (s.blk blk).core

/-- A surviving context: its restores abandoned, its Saved blocks candidates again. -/
def State.keepContext (s : State) (ctx : Nat) : State :=
  (s.blocks.filter (fun e => e.2.ctx == ctx)).foldl (fun (s : State) e =>
    let s := s.settlePends e.1
    if e.2.restoring then s.abandon e.1 else s) s

/-- What other devices and this one have told each other about a context's barriers and collectives is forgotten. -/
def State.forgetFar (s : State) (ctx : Nat) : State :=
  { s with
    remoteArr := s.remoteArr.filter (fun e => e.1 != ctx), told := delNum s.told ctx, farColls := s.farColls.filter (fun e => e.ctx != ctx) }

/-- A context that does not survive: every launch terminated, every queue closed, its registers and its queues' reset (R8) but for the discarded
count of their closing and the halt of a terminated launch, CTXTERM of reason 0x07 (R322, R325). -/
def State.loseContext (s : State) (ctx : Nat) : State :=
  let ls := s.launches.filter (fun e => e.2.ctx == ctx && e.2.st != .completed)
  let q := ((ls.find? (fun e => e.2.st == .started)).or ls.head?).map (fun e => e.2.queue)
  let s := ls.foldl (fun (s : State) e => (s.endLaunch e.1).haltQueue ctx e.2.queue 0x10) s
  let s := (List.range 16).foldl (fun (s : State) q => s.closeQueue ctx q) s
  (s.forgetFar ctx |>.modCtx ctx (fun x => {
    queues := x.queues.map (fun (q : LaunchQueue) => ({ disc := q.disc, err := q.err, halt := q.halt } : LaunchQueue)), term := BitVec.ofNat 64 (2 ^ 63 + 0xFFFF * 2 ^ 32 + 7 * 2 ^ 8 + q.getD 0) })).signal 3

/-- A link after the reset, its flit layer afresh. A sennit module keeps its error counts and RETRAIN, and retrains at full width where it was
narrower (R339, R340). A hawser link's registers take their reset values, none of which R344 has preserved (R8): it is down, and one that was up
trains again at full width with the far end it has (log 53). -/
def Link.reset (l : Link) (n : Nat) : Link :=
  if isHawser n then { half := 3, degn := hawserDegn, peer := l.peer, plink := l.plink, target := if l.up then some 0 else none }
  else { half := l.half, retrain := l.retrain, crcerr := l.crcerr, replay := l.replay, laneerr := l.laneerr
         target := if l.half = 0 then none else some 0 }

/-- A zone after the reset: its registers at their reset values, its sensors reading on; a purge or a re-prime check goes on with its valve, a
closed zone stays closed, and a leaking one, empty now, closes (R8, R349, R353, R354). -/
def Zone.warm (z : Zone) : Zone :=
  let y : Zone := { press := z.press, outlet := z.outlet, inlet := z.inlet, drydet := z.drydet, leakdet := z.leakdet, leaked := z.leaked, flow := z.flow }
  if z.state = 2 || z.state = 3 then
    { y with state := z.state, since := z.since, attempt := z.attempt, auto := z.auto, pos := z.pos, gated := z.gated }
  else if z.state = 4 || z.leaked then { y with state := 4, since := z.since, gated := z.gated }
  else y

/-- A session slot after the reset: kept with its context, else disabled (R376). -/
def State.keepTrace (s : State) (n : Nat) : State :=
  let t := s.slotOf n
  if !t.en then s.modSlot n (fun _ => {})
  else if s.survivors.contains t.ctx then (s.modSlot n (fun t => { t with done := true, closed := false, fault := false, drop := 0 })).trunc n 3
  else s.modSlot n (fun _ => {})

/-- The device as a warm reset leaves it, but for what its zones' readings then bring about. -/
def State.warmState (s : State) : State :=
  let s := (List.range 64).foldl (fun (s : State) c => if s.survivors.contains c then s.keepContext c else s.loseContext c) s
  let clean := s.poisonL2.filter (fun p => (Tab.get s.dirty p).isNone)
  let s := s.dirty.foldl State.settleSector { s with poison := s.poison.filter (fun p => !clean.contains p) }
  let s : State := { s with
    dirty := [], poisonL2 := [], l1 := [], tlbs := [], walks := (0, 0), icache := [], deferred := [], wq := [], fused := [], saves := [], rrNext := []
    links := Vector.ofFn (fun i => (s.link i.val).reset i.val)
    zones := s.zones.map Zone.warm, supply := 0, cdem := 0x20100804, tcrit := 0x460, tmax := 0x3C0, reprime := 2
    qtbOffset := 0, qtbSlew := 0, qtbRem := 0, qtbLast := [], qtbSrc := 0, slewMax := 500
    bps := Vector.replicate 8 {}, dbgctx := 0
    ctxs := s.ctxs.map (fun x => { x with invRun := none, codeDone := true, state := if x.state = 3 then 0 else x.state }) }
  let s := (List.range 192).foldl (fun (s : State) c => s.settleCore c) s
  let s := (List.range 32).foldl (fun (s : State) n => s.keepTrace n) s
  ({ s with resetting := false } : State).signal 2

/-! Errors (R317, R319, R379). -/

/-- A saturating 32-bit count. -/
def satWord (w : Word) : Word := if w = 0xFFFFFFFF then w else w + 1

/-- CORRECTED_ERROR. -/
def execCorrectedError (s : State) : Out := .next { s with ce := satWord s.ce }

/-- Logging an uncorrectable error: source, outcome, physical address. -/
def State.logError (s : State) (src out pa : Nat) : State :=
  ({ s with
    ue := satWord s.ue
    errLog := s.errLog.setIfInBounds s.errIdx.toNat
      (BitVec.ofNat 64 s.qtb, BitVec.ofNat 64 (2 ^ 63 + src * 2 ^ 59 + out * 2 ^ 56 + pa % 2 ^ 52))
    errIdx := s.errIdx + 1 } : State).signal 0

/-- ERRCTL_CLR: the counts, and V of every entry; a write during a warm reset is discarded (R323). -/
def State.clearErrors (s : State) : State :=
  { s with ce := 0, ue := 0, errLog := s.errLog.map (fun e => (e.1, BitVec.ofNat 64 (e.2.toNat % 2 ^ 63))) }
def execErrctlClr (s : State) : Out := evOut s (some s.clearErrors)

/-- The sector of this device's memory that a physical address names. -/
def State.sectorAt (s : State) (pa : Nat) : Option Nat := (s.keyOf pa).bind (fun k => if isOwnKey k then some (k / 64) else none)

/-- A data granule of a block's store poisoned, with its offset inside the block's allocation. -/
def State.poisonStore (s : State) (blk src lim off : Nat) (f : Block → Block) : Option State :=
  let b := s.blk blk
  if b.st == .retired || b.st == .saved || lim ≤ off then none else some ((s.setBlk blk (f b)).logError src 0 0)

/-- An MMAV restarted from pass 0, keeping its threshold (R319). -/
def Flight.restart (f : Flight) : Flight := { f with idx := {}, verd := f.verd.map (fun c => { c with els := [] }) }

/-- UNCORRECTABLE_ERROR: data is poisoned; a cache entry is discarded; an MMAV restarts; a block is terminated; the device takes a warm
reset. -/
def State.uncorrectable (s : State) : ErrSite → Option State
  | .hbm pa => (s.sectorAt pa).map (fun x =>
      let s := s.beforePoison [x]
      ({ s with poison := addNum s.poison x } : State).logError 1 0 (pa / 64 * 64))
  | .l2 pa => (s.sectorAt pa).map (fun x =>
      let s := s.beforePoison [x]
      ({ s with poison := addNum s.poison x, poisonL2 := addNum s.poisonL2 x } : State).logError 2 0 (pa / 64 * 64))
  | .l1 core pa => (s.keyOf pa).bind (fun k =>
      if 192 ≤ core || (s.l1Copy core (k / 64)).isNone then none
      else some (((s.beforePoison [k / 64]).l1Set core (k / 64) []).logError 3 0 (pa / 64 * 64)))
  | .beyond pa => (s.keyOf pa).bind (fun k =>
      if isOwnKey k then none
      else
        let s := s.beforePoison [k / 64]
        let s : State := { s with poison := addNum s.poison (k / 64) }
        some (if isHostKey k then s.logError 8 0 (pa / 64 * 64) else s))
  | .sharedStore blk off => s.poisonStore blk 4 (s.blk blk).hdr.shared off (fun b => { b with poisonSh := addNum b.poisonSh (off / 4) })
  | .accStore blk off => s.poisonStore blk 5 (s.blk blk).hdr.acc off (fun b => { b with poisonAcc := addNum b.poisonAcc (off / 4) })
  | .laneStore blk off => s.poisonStore blk 6 (if off % 1024 < (s.blk blk).hdr.lane then 131072 else 0) off
      (fun b => { b with poisonLane := addNum b.poisonLane (off / 4) })
  | .cacheEntry core =>
    if 192 ≤ core then none
    else
      let s := s.logError 0xF 1 0
      match s.icache.find? (fun e => e.core == core) with
      | some e => some { s with icache := s.icache.erase e }
      | none => match (s.tlbs.find? (fun t => t.core == some core)).or (s.tlbs.find? (fun t => t.core == none && t.die == dieOf core)) with
        | some t => some { s with tlbs := s.tlbs.erase t }
        | none => some s
  | .cleat blk =>
    let b := s.blk blk
    if b.flights.any (fun f => !f.fin && isMmav f.instr) then
      some ((s.setBlk blk { b with flights := b.flights.map (fun (f : Flight) => if !f.fin && isMmav f.instr then f.restart else f) }).logError 0xF 2 0)
    else none
  | .blockState blk => if (s.blk blk).st == .retired then none else some ((s.logError 0xF 3 0).terminate blk 9 0)
  | .deviceState => some ((s.logError 0xF 4 0).warmStart 1)
def execUncorrectableError (w : ErrSite) (s : State) : Out := evOut s (s.uncorrectable w)

/-! The clock (R378). -/

/-- The limits of R377: the package's power in W, a core rail's current in A. -/
def packageLimit : Nat := 2400
def railLimit : Nat := 1950

/-- POWER_LIMIT, with the package's power and the currents of VCORE0 and VCORE1: at a limit a step of 100 MHz down, to no less than 700; with all
of them 5 % below their limits a step up, to no more than the nominal 1,400. -/
def execPowerLimit (w : BitVec 16) (i : BitVec 16 × BitVec 16) (s : State) : Out :=
  let at_ := [(w.toNat, packageLimit), (i.1.toNat, railLimit), (i.2.toNat, railLimit)]
  .next { s with
    pkgPower := w
    clkMHz := if at_.any (fun e => e.2 ≤ e.1) then max 700 (s.clkMHz - 100)
      else if at_.all (fun e => e.1 * 20 ≤ e.2 * 19) then min 1400 (s.clkMHz + 100) else s.clkMHz }

end Sys2Proof.Machine
end

