-- ==== Sys2Proof/Machine/Coolant.lean ====
section
/-! DEFINITION. Coolant zones: their registers, the sensor events and the evacuation sequence (12 R349 to R355; 14 R382). -/

namespace Sys2Proof.Machine

/-! Registers (R349). -/

/-- The stored coolant configuration follows the registers (R382). -/
def State.storeCool (s : State) : State :=
  { s with mgmt := { s.mgmt with stored := some {
      supply := s.supply, cdem := s.cdem
      cthr := BitVec.ofNat 64 (s.tcrit.toNat * 2 ^ 32 + s.tmax.toNat * 2 ^ 16 + s.reprime.toNat * 2 ^ 8)
      zones := s.zones.toList.map (fun z => (z.ceil, z.floor, z.alloc)) } } }

/-- The sum of ALLOC over the zones. -/
def State.allocated (s : State) : Nat := (s.zones.toList.map (fun z => z.alloc)).foldl (· + ·) 0

/-- ZFAT0. -/
def Zone.fat0 (z : Zone) : Nat :=
  b2n z.ownv * 2 ^ 63 + z.ownctx * 2 ^ 56 + z.ownq * 2 ^ 48 + z.ownidx * 2 ^ 32 + z.ceil * 2 ^ 18 + z.floor * 2 ^ 9 + z.alloc

/-- A write of ZFAT0: discarded whole when it breaks FLOOR ≤ ALLOC ≤ CEIL ≤ 400 or the supply. -/
def State.writeFat (s : State) (z : Nat) (v : Nat) : Option State :=
  let y := s.zone z
  let (ceil, floor, alloc) := (fld v 26 18, fld v 17 9, fld v 8 0)
  if bitOf v 62 || fld v 55 52 != 0 || fld v 31 27 != 0 || !(floor ≤ alloc && alloc ≤ ceil && ceil ≤ 400)
    || s.supply < s.allocated - y.alloc + alloc then none
  else some (s.modZone z (fun y => { y with
      ownv := bitOf v 63, ownctx := fld v 61 56, ownq := fld v 51 48, ownidx := fld v 47 32, ceil, floor, alloc })).storeCool
def execZfatWrite (z : Nat) (v : Dword) (s : State) : Out :=
  if 24 ≤ z then .fault .noSuchUnit else evOut s (s.writeFat z v.toNat)

/-- A write of CSUPPLY: discarded when it is reserved or below the allocated sum. -/
def State.writeSupply (s : State) (v : Nat) : Option State :=
  if 4000 < v || v < s.allocated then none else some ({ s with supply := v } : State).storeCool
def execCsupplyWrite (v : Dword) (s : State) : Out := evOut s (s.writeSupply v.toNat)

/-- A write of ZVALVE: AUTO always; POS only with AUTO 0 in an open zone. -/
def State.writeValve (s : State) (z : Nat) (v : Nat) : Option State :=
  if fld v 63 32 != 0 || fld v 30 10 != 0 then none
  else some (s.modZone z (fun y => { y with
    auto := bitOf v 31, pos := if !bitOf v 31 && y.state == 0 then BitVec.ofNat 10 v else y.pos }))
def execZvalveWrite (z : Nat) (v : Dword) (s : State) : Out :=
  if 24 ≤ z then .fault .noSuchUnit else evOut s (s.writeValve z v.toNat)

/-- A write of CDEM, and what a write of CTHR stores. -/
def State.writeCdem (s : State) (v : Nat) : Option State :=
  if fld v 63 32 != 0 then none else some ({ s with cdem := BitVec.ofNat 64 v } : State).storeCool
def State.storeCthr (s : State) (v : Nat) : Option State :=
  if fld v 63 44 != 0 || fld v 31 28 != 0 || fld v 15 12 != 0 || fld v 7 0 != 0 || fld v 11 8 = 0 then none
  else some ({ s with tcrit := BitVec.ofNat 12 (fld v 43 32), tmax := BitVec.ofNat 12 (fld v 27 16)
                      reprime := BitVec.ofNat 4 (fld v 11 8) } : State).storeCool

/-- Blocks that keep a zone from being empty: resident, restoring or retiring; a frozen one only while the zone is open (R355). -/
def State.resid (s : State) (z : Nat) : Nat :=
  ((s.onZone z).filter (fun e => (s.zone z).state == 0 || e.2.st != .frozen)).length

/-- ZSTAT. -/
def State.zstat (s : State) (z : Nat) : Nat :=
  let y := s.zone z
  s.resid z * 2 ^ 16 + y.attempt * 2 ^ 12 + b2n y.leak * 2 ^ 11 + b2n y.dry * 2 ^ 10 + b2n y.flowlow * 2 ^ 9 + b2n y.overtemp * 2 ^ 8
    + b2n y.hold * 2 ^ 3 + y.state

/-! Valves (R349, R354). -/

/-- A valve's position: a purge opens it for 50 ms and closes it for 50 ms, eight times (R354 step 5). -/
def State.valve (s : State) (z : Nat) : BitVec 10 :=
  let y := s.zone z
  if y.state = 2 then (if (s.qtb - y.since) / 50000000 % 2 = 0 then 1023 else 0) else y.pos

/-- Hardware moves a valve as a zone's readings come: toward open while FLOW is below ALLOC, toward closed while it is above, by a free amount. It
does so under AUTO and through a re-prime check, and never for a leaking or closed zone (R349, R353, R354 step 6; log 78). -/
def State.trackFlow (s : State) (z : Nat) : State :=
  let y := s.zone z
  if y.leaked || y.state = 2 || 4 ≤ y.state || !(y.auto || y.state == 3) || y.flow.toNat = y.alloc then s
  else
    let up := decide (y.flow.toNat < y.alloc)
    let (n, s) := s.pick (if up then 1024 - y.pos.toNat else y.pos.toNat + 1)
    s.modZone z (fun y => { y with pos := if up then y.pos + BitVec.ofNat 10 n else y.pos - BitVec.ofNat 10 n })

/-! Evacuation (R354, R355). -/

/-- What the mark means for a block of the zone. -/
def State.evacuate (s : State) (blk : Nat) : State :=
  if (s.blk blk).restoring then s.abandon blk else s.startSave blk cEVAC

/-- The mark, at detection: no placement, and the requests to the zone's blocks. -/
def State.markZone (s : State) (z : Nat) : State :=
  let bs := s.onZone z
  let s := s.modZone z (fun y => { y with
    state := 1, tdet := BitVec.ofNat 64 s.qtb, attempt := 0, gated := false, since := s.qtb })
  bs.foldl (fun (s : State) e => s.evacuate e.1) s

/-- What a sensor event tells (R352): a ZONE record to each open session with a block in the zone, the host, the management controller. -/
def State.tellZone (s : State) (z ev : Nat) : State :=
  let slots := (List.range 32).filter (fun n =>
    let t := s.slotOf n
    t.en && (s.onZone z).any (fun e => let x := s.lch e.2.launch; x.ctx == t.ctx && x.trsess == t.id))
  let s := s.record slots 0x08 1 0xFF 0 0 [z, s.zstat z]
  ({ s with mgmt := { s.mgmt with zoneNotices := s.mgmt.zoneNotices ++ [(z, ev)] } } : State).signal 1

/-- A sensor event in an open zone: its effects, then the mark where it evacuates; elsewhere its bit only (R353). -/
def State.sensor (s : State) (z ev : Nat) (set : Zone → Zone) (hold : Zone → Zone) (evac : Bool) : State :=
  let opened := (s.zone z).state == 0
  let s := s.modZone z set
  if !opened then s
  else
    let s := (s.modZone z hold).tellZone z ev
    if evac then s.markZone z else s

/-- OVERTEMP: the outlet at TMAX holds admissions; at TCRIT it evacuates. -/
def State.overtempAt (s : State) (z : Nat) (outlet : BitVec 12) : Option State :=
  let hot := s.tmax.toInt ≤ outlet.toInt
  let crit := s.tcrit.toInt ≤ outlet.toInt
  if !hot && !crit then none
  else some (s.sensor z 8 (fun y => { y with outlet, overtemp := true }) (fun y => { y with holdT := y.holdT || hot }) crit)
def execOvertemp (z : Nat) (outlet : BitVec 12) (s : State) : Out :=
  if 24 ≤ z then .fault .noSuchUnit else evOf s (s.overtempAt z outlet)

/-- HOLD_RELEASE: the outlet 2 °C below TMAX, the flow at FLOOR again. -/
def State.holdRelease (s : State) (z : Nat) (outlet : BitVec 12) (flow : BitVec 9) : State :=
  s.modZone z (fun y => { y with
    outlet, flow, holdT := y.holdT && !(outlet.toInt < s.tmax.toInt - 32), holdF := y.holdF && !(y.floor ≤ flow.toNat) })
def execHoldRelease (z : Nat) (outlet : BitVec 12) (flow : BitVec 9) (s : State) : Out :=
  if 24 ≤ z then .fault .noSuchUnit else .next (s.holdRelease z outlet flow)

/-- FLOWLOW: the flow below FLOOR for 2 ms holds admissions; for 20 ms it evacuates. Ignored while purging or re-priming. -/
def State.flowlowAt (s : State) (z : Nat) (flow : BitVec 9) (ms : Nat) : Option State :=
  let y := s.zone z
  if y.state = 2 || y.state = 3 || y.floor ≤ flow.toNat || y.alloc = 0 || ms < 2 then none
  else some (s.sensor z 9 (fun y => { y with flow, flowlow := true }) (fun y => { y with holdF := true }) (20 ≤ ms))
def execFlowlow (z : Nat) (flow : BitVec 9) (ms : Nat) (s : State) : Out :=
  if 24 ≤ z then .fault .noSuchUnit else evOf s (s.flowlowAt z flow ms)

/-- DRY: evacuation at once. While purging or re-priming only the sensor's output shows. -/
def State.dryAt (s : State) (z : Nat) : Option State :=
  let y := s.zone z
  if y.state = 2 || y.state = 3 then some (s.modZone z (fun y => { y with drydet := true }))
  else some (s.sensor z 10 (fun y => { y with drydet := true, dry := true }) (fun y => y) true)
def execDry (z : Nat) (s : State) : Out := if 24 ≤ z then .fault .noSuchUnit else evOf s (s.dryAt z)

/-- LEAK, told in every state of the zone (log 33): the valve closes; an open zone is evacuated, and an empty one closes at once. -/
def State.leakAt (s : State) (z : Nat) : State :=
  let opened := (s.zone z).state == 0
  let s := s.sensor z 11 (fun y => { y with leakdet := true, leaked := true, leak := true, pos := 0 }) (fun y => y) true
  let s := if opened then s else s.tellZone z 11
  s.modZone z (fun y => if y.state = 2 || y.state = 3 then { y with state := 4, since := s.qtb } else y)
def execLeak (z : Nat) (s : State) : Out := if 24 ≤ z then .fault .noSuchUnit else .next (s.leakAt z)

/-- The conditions that a zone's readings meet (R353): LEAK, DRY, the outlet at TMAX and at TCRIT. -/
def State.conditions (s : State) (z : Nat) : List Bool :=
  let y := s.zone z
  [y.leakdet, y.drydet, decide (s.tmax.toInt ≤ y.outlet.toInt), decide (s.tcrit.toInt ≤ y.outlet.toInt)]

/-- The sensor events of a zone's readings, where a condition they meet is not among those met before; and its holds end as they say (R353; log 78). -/
def State.react (s : State) (z : Nat) (before : List Bool) : State :=
  let y := s.zone z
  let begins := fun i => (s.conditions z).getD i false && !before.getD i false
  let s := s.holdRelease z y.outlet y.flow
  let s := if begins 0 then s.leakAt z else s
  let s := if begins 1 then (s.dryAt z).getD s else s
  if begins 2 || begins 3 then (s.overtempAt z y.outlet).getD s else s

/-- A zone's readings change. -/
def State.sensed (s : State) (z : Nat) (flow : BitVec 9) (outlet inlet : BitVec 12) (press : BitVec 16) (dry leak : Bool) : State :=
  ((s.modZone z (fun (x : Zone) => { x with flow, outlet, inlet, press, drydet := dry, leakdet := leak })).react z (s.conditions z)).trackFlow z

/-- A write of CTHR: a zone whose outlet is at a threshold now has its event. -/
def State.writeCthr (s : State) (v : Nat) : Option State :=
  (s.storeCthr v).map (fun t => (List.range 24).foldl (fun (t : State) z => t.react z (s.conditions z)) t)

/-- Whether a block has stopped its tile instructions. -/
def Block.tilesStopped (b : Block) : Bool := b.st == .frozen || b.flights.all (fun f => f.fin)

/-- ZONE_LANE_GATE: step 3, once every block has stopped its tile instructions, or 150 µs after detection. -/
def State.gateZone (s : State) (z : Nat) : Option State :=
  let y := s.zone z
  if y.state = 1 && !y.gated && ((s.onZone z).all (fun e => e.2.tilesStopped) || y.tdet.toNat + 150000 ≤ s.qtb) then
    some (s.modZone z (fun y => { y with gated := true, tgate := BitVec.ofNat 64 s.qtb }))
  else none
def execZoneLaneGate (z : Nat) (s : State) : Out := if 24 ≤ z then .fault .noSuchUnit else evOut s (s.gateZone z)

/-- ZONE_EMPTY: step 4; the purge begins, or a leaking zone closes. -/
def State.zoneEmpty (s : State) (z : Nat) : Option State :=
  let y := s.zone z
  if y.state != 1 || !y.gated || s.resid z != 0 then none
  else some (s.modZone z (fun y =>
    if y.leaked then { y with tout := BitVec.ofNat 64 s.qtb, state := 4, since := s.qtb }
    else { y with tout := BitVec.ofNat 64 s.qtb, state := 2, since := s.qtb, pos := 1023 }))
def execZoneEmpty (z : Nat) (s : State) : Out := if 24 ≤ z then .fault .noSuchUnit else evOut s (s.zoneEmpty z)

/-- ZONE_EVAC_DEADLINE: step 4 not ended 10 ms after detection. -/
def State.evacDeadline (s : State) (z : Nat) : Option State :=
  let y := s.zone z
  if y.state = 1 && y.tdet.toNat + 10000000 ≤ s.qtb then some (s.warmStart 4) else none
def execZoneEvacDeadline (z : Nat) (s : State) : Out := if 24 ≤ z then .fault .noSuchUnit else evOut s (s.evacDeadline z)

/-- ZONE_PURGE_COMPLETE: after 800 ms, the re-prime check. -/
def State.purgeDone (s : State) (z : Nat) : Option State :=
  let y := s.zone z
  if y.state = 2 && y.since + 800000000 ≤ s.qtb then
    some (s.modZone z (fun y => { y with state := 3, since := s.qtb, attempt := (y.attempt + 1) % 16, pos := 0 }))
  else none
def execZonePurgeComplete (z : Nat) (s : State) : Out := if 24 ≤ z then .fault .noSuchUnit else evOf s (s.purgeDone z)

/-- ZONE_REPRIME_COMPLETE: after 200 ms, with the sensors at its end. A zone that returns has the events its outlet calls for. -/
def State.reprimeDone (s : State) (z : Nat) (flow : BitVec 9) (dry leak : Bool) : Option State :=
  let y := s.zone z
  if y.state != 3 || s.qtb < y.since + 200000000 then none
  else
    let s := s.modZone z (fun y => { y with flow, drydet := dry, leakdet := leak, since := s.qtb })
    if leak then some (s.leakAt z)
    else if !dry && max y.floor (y.alloc - 16) ≤ flow.toNat then
      some ((s.modZone z (fun y => { y with state := 0, gated := false })).react z [])
    else some (s.modZone z (fun y => if y.attempt < s.reprime.toNat then { y with state := 2, pos := 1023 } else { y with state := 4 }))
def execZoneReprimeComplete (z : Nat) (flow : BitVec 9) (dry leak : Bool) (s : State) : Out :=
  if 24 ≤ z then .fault .noSuchUnit else evOf s (s.reprimeDone z flow dry leak)

/-! The warm reset's end (R8, R349, R353, R354). -/

/-- WARM_RESET_COMPLETE: the reset state; then a zone that its readings find open has their events. -/
def State.warmEnd (s : State) : State := (List.range 24).foldl (fun (t : State) z => t.react z []) s.warmState
def execWarmResetComplete (s : State) : Out := .next (if s.resetting then s.warmEnd else s)

end Sys2Proof.Machine
end

