-- ==== Sys2Proof/Machine/LinkEvents.lean ====
section
/-! DEFINITION. The flit layer of the sennit and the hawser links: receiving, replaying, retraining, failing over; and what a delivered message
does (11 R336 to R344). -/

namespace Sys2Proof.Machine

/-! Acknowledgement and replay (R337). -/

/-- Dropping the flits a number acknowledges; a number outside the buffer is stale. -/
def LinkDir.acked (x : LinkDir) (a : Nat) : LinkDir :=
  match x.buf with
  | [] => x
  | f :: _ => let n := (a + 4096 - f.seq) % 4096; if n ≤ x.buf.length then { x with buf := x.buf.drop n } else x

/-- The flits from a number onward. -/
def LinkDir.fromSeq (x : LinkDir) (a : Nat) : List Flit :=
  match x.buf with
  | [] => []
  | f :: _ => let n := (a + 4096 - f.seq) % 4096; if n ≤ x.buf.length then x.buf.drop n else x.buf

/-- The flits of a direction its receiver has not accepted. -/
def LinkDir.unaccepted (x : LinkDir) : List Flit := (x.acked x.expect).buf

/-- A count that saturates. -/
def sat (n lim : Nat) : Nat := if n < lim then n + 1 else lim

/-- Resuming after a retrain: each direction resends from its oldest unacknowledged flit; the replay counts once (R339). -/
def Link.resume (l : Link) : Link :=
  let again := fun (x : LinkDir) => { x with wire := x.buf, nak := none }
  { l with
    target := none, d0 := again l.d0, d1 := again l.d1
    replay := if l.d0.buf = [] && l.d1.buf = [] then l.replay else sat l.replay 0xFFFFFFFF }

/-! A device that leaves the domain (R343). -/

/-- Whether an access is still on its way to a device: not yet sent, or its response not yet back. -/
def Pend.onWayTo (p : Pend) (j : Nat) : Bool := p.keys.any (fun k => isFarKey k && k / 2 ^ 45 == j + 1) && (p.sent || p.pas != [])

/-- A device to which no route remains: what is on its way to it completes with XLATE. -/
def State.leaveDomain (s : State) (j : Nat) : State :=
  let s : State := { s with routes := Tab.del s.routes j, farColls := s.farColls.filter (fun e => e.dev != j) }
  s.blocks.foldl (fun (s : State) e =>
    (e.2.pend.filter (fun p => p.onWayTo j)).foldl (fun (s : State) p =>
      if e.2.st == .retired then s.modBlk e.1 (fun b => b.dropPend p.id) else s.accessTrap e.1 { p with sent := false } (cXLATE, 0x30)) s) s

/-- Every device whose links are all down, none of them retraining, leaves. -/
def State.dropRoutes (s : State) : State :=
  (s.routes.filter (fun e => e.2.all (fun n => !(s.link n).live n && (s.link n).target.isNone))).foldl (fun (s : State) e => s.leaveDomain e.1) s

/-! Failing over (R339, R342). -/

/-- The link that takes over a failed one's traffic of a device: the other link of the device's route, or another module. -/
def State.fallback (s : State) (n dev : Nat) : Option Nat :=
  if isHawser n then ((Tab.get s.routes dev).getD []).find? (fun m => m != n && (s.link m).live m)
  else ([n % 16 ^^^ 8] ++ List.range 16).find? (fun m => (s.link m).live m)

/-- Resending the flits of one direction of a failed link elsewhere, in order, as far as they are taken; one of a device that has left the domain
is dropped. -/
def State.resend (s : State) (n : Nat) (d : Bool) : List Flit → State
  | [] => s
  | f :: fs =>
    let rest := fun (s : State) => s.modLink n (fun l => l.setDir d { l.dir d with buf := fs })
    match s.fallback n f.dev with
    | none => (rest s).resend n d fs
    | some m => match s.sendFlit m d f.dev f.msg f.way with
      | none => s
      | some s => (rest s).resend n d fs

/-- Moving what a failed link still holds. -/
def State.moveFlits (s : State) (n : Nat) : State := (s.resend n false (s.link n).d0.buf).resend n true (s.link n).d1.buf

/-- Moving what every failed link still holds. -/
def State.moveAll (s : State) : State :=
  ((List.range 28).filter (fun n => (s.link n).moving)).foldl (fun (s : State) n => s.moveFlits n) s

/-- A link goes down: accepted flits forgotten, the others moved, its numbers to go on from the first one not accepted; a device may leave; the
last sennit module takes a warm reset. -/
def State.linkDown (s : State) (n : Nat) : State :=
  let stop := fun (x : LinkDir) => { x with next := x.expect, buf := x.unaccepted, wire := [], nak := none }
  let s := s.modLink n (fun l => { l with half := 3, up := false, target := none, d0 := stop l.d0, d1 := stop l.d1 })
  let s := (s.moveFlits n).dropRoutes
  if (List.range 16).all (fun m => (s.link m).half == 3) then s.warmStart 5 else s

/-- The half that a set of failing lanes lies in: false the lower, true the upper (R339, R341). -/
def halfOf (n : Nat) (lanes : Nat) : Option Bool :=
  let k := if isHawser n then 2 else 32
  if lanes = 0 then none else if lanes < 2 ^ k then some false else if lanes % 2 ^ k = 0 then some true else none

/-- A localised failure of a half: the failures of the last 1 ms, and at DEGN a retrain onto the other half, or the link down. -/
def State.localised (s : State) (n : Nat) (h : Bool) : State :=
  let l := s.link n
  let fs := s.qtb :: (if h then l.fails1 else l.fails0).filter (fun t => s.qtb ≤ t + 1000000)
  if fs.length < l.degn then s.modLink n (fun l => if h then { l with fails1 := fs } else { l with fails0 := fs })
  else
    let s := s.modLink n (fun l => { l with fails0 := [], fails1 := [] })
    if l.half = 0 then s.modLink n (fun l => { l with target := some (if h then 1 else 2), retrain := sat l.retrain 0xFFFF })
    else s.linkDown n

/-! Delivery (R338, R344). -/

/-- The keys of an access that lie at the far end of a link's direction. -/
def Pend.across (p : Pend) (n : Nat) (d : Bool) : List Nat := p.pas.filter (fun k => isHawser n || portDie k == (if d then 0 else 1))

/-- Whether another device may access bytes of this one's memory: its masters count as non-secure (R320; log 81). -/
def State.farOk (s : State) (off n : Nat) : Bool :=
  let pa := s.devid.toNat * 2 ^ 45 + off
  off + n ≤ devMem && !s.regionSecure pa && !s.regionSecure (pa + n - 1)

/-- What another device's request answers when this device refuses it. -/
def State.farBad (s : State) (off n : Nat) (read : Bool) : Option (Nat × Nat) :=
  if devMem < off + n then some (cXLATE, 0x30)
  else if !s.farOk off n then some (cWORLD, 0)
  else if read then (s.homePoison off n).map (fun d => (cPOISON, d)) else none

/-- Whether a message can be taken now: a request has a place at its port (R332, R333), an answer and a forwarded message one in their link. -/
def State.takes (s : State) (n : Nat) (d : Bool) (f : Flit) : Bool :=
  let answer := (s.sendFlit n (!d) f.dev f.msg).isSome
  match f.msg with
  | .request blk id => match (s.blk blk).pendOf id with
    | some p => (p.across n d).all (fun k => !s.noPlace (s.blk blk) p k)
    | none => true
  | .farStore _ off _ _ | .farRmw _ off _ _ _ _ => answer && !s.queueFull off
  | .farLoad _ _ _ => answer
  | .transit dev slice _ => match s.routeFor dev slice with
    | some m => dev == s.devid.toNat || (s.sendFlit m false dev f.msg).isSome
    | none => true
  | _ => true

/-- A request of another device answered on its link (R338, R344). -/
def State.answerFar (s : State) (n dev way : Nat) (bs : List Byte) (bad : Option (Nat × Nat)) : State :=
  (s.sendFlit n false dev (.reply 0 0 bs bad) way).getD s

/-- Messages that another device sends of its own. -/
def Msg.isFar : Msg → Bool
  | .request _ _ | .reply _ _ _ _ | .idle => false
  | _ => true

/-- What a message of another device does here: its requests execute on this device's memory, and what it is not for goes on toward its
device (R320, R338, R342, R344). -/
def State.fromFar (s : State) (n from_ : Nat) : Msg → State
  | .arrive ctx dev mask => { s with remoteArr := s.remoteArr ++ [(ctx, dev, mask)] }
  | .collAt ctx blkid desc => { s with farColls := s.farColls ++ [⟨ctx, from_, blkid, desc, []⟩] }
  | .collBits ctx blkid eng bits =>
    let last := (List.range s.farColls.length).reverse.find? (fun i => match s.farColls[i]? with
      | some e => e.ctx == ctx && e.dev == from_ && e.blkid == blkid && (e.desc.kind == 8) == eng
      | none => false)
    match last with
    | some i => { s with farColls := s.farColls.modify i (fun e => { e with groups := e.groups ++ [bits] }) }
    | none => s
  | .farStore dev off bs bad =>
    match s.farBad off bs.length false with
    | some e => s.answerFar n dev (portSlice off) [] (some e)
    | none =>
      let s := if bad then s.beforePoison (sectorsOf off bs.length) else s
      let s := (s.queued off).homeWrite off bs
      (if bad then { s with poison := (sectorsOf off bs.length).foldl addNum s.poison } else s).answerFar n dev (portSlice off) [] none
  | .farRmw dev off op w x y =>
    match s.farBad off w true with
    | some e => s.answerFar n dev (portSlice off) [] (some e)
    | none => let (old, s) := (s.queued off).homeRmw off op w x y; s.answerFar n dev (portSlice off) (leBytes w old) none
  | .farLoad dev off w => match s.farBad off w true with
    | some e => s.answerFar n dev (portSlice off) [] (some e)
    | none => s.answerFar n dev (portSlice off) (s.mem.read off w) none
  | .transit dev slice bs =>
    if dev = s.devid.toNat then s
    else ((s.routeFor dev slice).bind (fun m => s.sendFlit m false dev (.transit dev slice bs) slice)).getD s
  | _ => s

/-- What a delivered message does: a request executes once at its home port, and its response is owed where it returns a value or crosses
to another device; a response brings the value, or why there is none, and completes the instruction that waits for it (log 93). -/
def State.deliverMsg (s : State) (n : Nat) (d : Bool) (dev : Nat) (m : Msg) : State :=
  match m with
  | .request blk id =>
    match (s.blk blk).pendOf id with
    | none => s
    | some p =>
      let s := (p.across n d).foldl (fun (s : State) k => s.portExec blk p k) s
      let owes := isHawser n || p.isRead || p.dest.isSome || (match p.kind with
        | .rmw _ _ _ _ _ ret => ret
        | _ => false)
      let s := s.modBlk blk (fun b => b.modPend id (fun p => { p with sent := owes, owes }))
      match (s.blk blk).pendOf id with
      | some p => (s.sendReply blk p).getD s
      | none => s
  | .reply blk id bs bad =>
    if isHawser n && !d then s
    else
      let s := s.modBlk blk (fun b => b.modPend id (fun p =>
        { p with
          sent := false, bad, got := p.got.map (fun _ => bs)
          done := if isHawser n && !p.isRead then max p.done 8 else p.done }))
      match (s.blk blk).pendOf id with
      | some p => if p.bad.isNone && p.port.isNone then s.popFor blk p else s
      | none => s
  | m => if isHawser n && d then s.fromFar n dev m else s

/-- FLIT_RECEIVE: the flit at the head of a wire, with whether its CRC holds and the lanes whose parity failed. Every numbered flit that arrives
is acknowledged at once, a copy already accepted too. -/
def State.flitReceive (s : State) (n : Nat) (d ok : Bool) (lanes : Dword) : Option State :=
  let l := s.link n
  let x := l.dir d
  match x.wire with
  | [] => none
  | f :: rest =>
    if !l.live n || l.target.isSome then none
    else
      let x := { x with wire := rest }
      let tell := fun (s : State) => (s.sendFlit n (!d) f.dev .idle).getD s
      let acks := fun (l : Link) => l.setDir (!d) ((l.dir (!d)).acked f.ack)
      if !ok then
        let lanes := if isHawser n then lanes.toNat % 16 else lanes.toNat
        let s := s.modLink n (fun l => { l.setDir d { x with nak := some x.expect } with
          crcerr := sat l.crcerr 0xFFFFFFFF, laneerr := l.laneerr ||| BitVec.ofNat 64 lanes })
        some (match halfOf n lanes with
          | some h => s.localised n h
          | none => s)
      else if f.msg = .idle then some (s.modLink n (fun l => acks (l.setDir d x))).moveAll
      else if f.seq != x.expect then some (tell (s.modLink n (fun l => l.setDir d x)))
      else if !s.takes n d f then none
      else
        let s := s.modLink n (fun l => acks (l.setDir d { x with expect := (x.expect + 1) % 4096 }))
        some (tell (s.deliverMsg n d f.dev f.msg)).moveAll
def execFlitReceive (n : Nat) (d ok : Bool) (lanes : Dword) (s : State) : Out :=
  if 28 ≤ n then .fault .noSuchUnit else evOut s (s.flitReceive n d ok lanes)

/-- NAK_RECEIVE: every flit from the named number onward is sent again, in order. -/
def State.nakReceive (s : State) (n : Nat) (d : Bool) : Option State :=
  let l := s.link n
  let x := l.dir d
  match x.nak with
  | none => none
  | some k =>
    if !l.live n || l.target.isSome then none
    else some (s.modLink n (fun l => { l.setDir d { x with nak := none, wire := x.wire ++ x.fromSeq k } with
      replay := sat l.replay 0xFFFFFFFF }))
def execNakReceive (n : Nat) (d : Bool) (s : State) : Out :=
  if 28 ≤ n then .fault .noSuchUnit else evOut s (s.nakReceive n d)

/-- RETRAIN_COMPLETE: the link runs on the other half. -/
def State.retrained (s : State) (n : Nat) : Option State :=
  match (s.link n).target with
  | some h => if h = 0 then none else some (s.modLink n (fun l => ({ l with half := h } : Link).resume)).moveAll
  | none => none
def execRetrainComplete (n : Nat) (s : State) : Out := if 28 ≤ n then .fault .noSuchUnit else evOut s (s.retrained n)

/-- REWIDEN asked for: the link stops sending and retrains at full width. -/
def State.startRewiden (s : State) (n : Nat) : State := s.modLink n (fun l => if l.target.isSome || l.half = 0 then l else { l with target := some 0 })

/-- LINK_REWIDEN: the retrain at full width ends; both halves pass or the link stays as it was, and a device whose links all stay down leaves. A link
that is down still waits for its flits to be resent elsewhere. -/
def State.rewiden (s : State) (n : Nat) (pass : Bool) : Option State :=
  if (s.link n).target != some 0 || (s.link n).moving then none
  else some (s.modLink n (fun l =>
    let l : Link := { l with retrain := sat l.retrain 0xFFFF }
    (if pass then { l with half := 0, up := isHawser n } else l).resume)).moveAll.dropRoutes
def execLinkRewiden (n : Nat) (pass : Bool) (s : State) : Out :=
  if 28 ≤ n then .fault .noSuchUnit else evOf s (s.rewiden n pass)

/-- LINK_COUNTER_CLEAR. -/
def State.clearLink (s : State) (n : Nat) : State := s.modLink n (fun l => { l with retrain := 0, crcerr := 0, replay := 0, laneerr := 0 })
def execLinkCounterClear (n : Nat) (s : State) : Out := if 28 ≤ n then .fault .noSuchUnit else evOut s (some (s.clearLink n))

end Sys2Proof.Machine
end

