-- ==== Sys2Proof/Machine/Contexts.lean ====
section
/-! DEFINITION. The registers of contexts and launch queues as they are written, and the context reset (09 R274, R275, R279, R283 to R285; 10
R306, R315; 13 R362). -/

namespace Sys2Proof.Machine

/-! Launch queues (R274, R283). -/

/-- Opening a queue: discarded while a record fetched from it has not started. -/
def State.openQueue (s : State) (ctx q : Nat) : Option State :=
  if ((s.ctx ctx).queue q).open_ || s.fetched ctx q != 0 then none
  else some (s.modQueue ctx q (fun y => { y with open_ := true, widx := 0, ridx := 0, disc := 0, err := 0, halt := false }))
def execLqOpen (ctx q : Nat) (s : State) : Out :=
  if 64 ≤ ctx || 16 ≤ q then .fault .noSuchUnit else evOut s (s.openQueue ctx q)

/-- Writing OPEN from 1 to 0. -/
def State.shutQueue (s : State) (ctx q : Nat) : Option State :=
  if ((s.ctx ctx).queue q).open_ then some (s.closeQueue ctx q) else none
def execLqClose (ctx q : Nat) (s : State) : Out :=
  if 64 ≤ ctx || 16 ≤ q then .fault .noSuchUnit else evOut s (s.shutQueue ctx q)

/-- LQ_DESTROY. -/
def execLqDestroy (ctx q : Nat) (s : State) : Out :=
  if 64 ≤ ctx || 16 ≤ q then .fault .noSuchUnit else evOut s (some (s.closeQueue ctx q))

/-- RESUME: an open, halted queue goes on; the failing record is skipped and counted, but for a terminated launch (R279). -/
def State.resumeQueue (s : State) (ctx q : Nat) : Option State :=
  let y := (s.ctx ctx).queue q
  if !y.open_ || !y.halt then none
  else if y.err = 0x10 then some (s.modQueue ctx q (fun y => { y with halt := false }))
  else some (s.modQueue ctx q (fun y => { y with halt := false, ridx := y.ridx + 1, disc := y.disc + 1 }))
def execLqResume (ctx q : Nat) (s : State) : Out :=
  if 64 ≤ ctx || 16 ≤ q then .fault .noSuchUnit else evOut s (s.resumeQueue ctx q)

/-- A write of LQWIDX: discarded when the queue would hold more than its ring, or leave fewer free places than are reserved (R153, R275). -/
def State.writeWidx (s : State) (ctx q : Nat) (v : Nat) : Option State :=
  let y := (s.ctx ctx).queue q
  let w := BitVec.ofNat 32 v
  if 2 ^ 32 ≤ v || y.size < (w - y.ridx).toNat + s.reserved ctx q then none else some (s.modQueue ctx q (fun y => { y with widx := w }))
def execLqwidxWrite (ctx q : Nat) (v : Dword) (s : State) : Out :=
  if 64 ≤ ctx || 16 ≤ q then .fault .noSuchUnit else evOut s (s.writeWidx ctx q v.toNat)

/-- A write of LQCTL: DESTROY alone, or OPEN and then RESUME (R274). A write that sets OPEN too early is discarded whole. -/
def State.writeLqctl (s : State) (ctx q : Nat) (v : Nat) : Option State :=
  let y := (s.ctx ctx).queue q
  if 8 ≤ v then none
  else if bitOf v 1 then some (s.closeQueue ctx q)
  else if bitOf v 0 && !y.open_ then
    (s.openQueue ctx q).map (fun s => if bitOf v 2 then (s.resumeQueue ctx q).getD s else s)
  else
    let s := if bitOf v 0 then s else (s.shutQueue ctx q).getD s
    some (if bitOf v 2 then (s.resumeQueue ctx q).getD s else s)

/-- Writes of LQBASE and LQCFG: only while the queue is closed. -/
def State.writeLqbase (s : State) (ctx q : Nat) (v : Nat) : Option State :=
  if ((s.ctx ctx).queue q).open_ || 2 ^ 56 ≤ v || v % 4096 != 0 then none
  else some (s.modQueue ctx q (fun y => { y with base := BitVec.ofNat 56 v }))
def State.writeLqcfg (s : State) (ctx q : Nat) (v : Nat) : Option State :=
  if ((s.ctx ctx).queue q).open_ || v < 4 || 16 < v then none
  else some (s.modQueue ctx q (fun y => { y with log2sz := BitVec.ofNat 5 v }))

/-! The context reset (R285). -/

/-- A started launch of the context ends: its first live block terminated, or, with none left, its Queued blocks dropped. A launch whose
blocks have all retired gives up its claims and completes (R285, R294). -/
def State.resetLaunch (s : State) (l : Nat) : State :=
  let x := s.lch l
  match (s.ofLaunch l).find? (fun e => e.2.st != .retired) with
  | some e => s.terminateAs false e.1 6 0
  | none => if x.kind = 2 || x.made == x.total then s.freeClaims l else (s.endLaunch l).haltQueue x.ctx x.queue 0x10

/-- A fetched launch that has not started is discarded. -/
def State.discardFetched (s : State) (l : Nat) : State := (s.dropLaunch l).modLch l (fun x => { x with st := .completed, terminated := true, made := x.total })

/-- CRST: queues closed, fetched records discarded and counted, blocks terminated, the trace told. -/
def State.contextReset (s : State) (ctx : Nat) : Option State :=
  if (s.ctx ctx).state = 3 then none
  else
    let slots := (List.range 32).filter (fun n => (s.slotOf n).en && (s.slotOf n).ctx == ctx)
    let s := slots.foldl (fun (s : State) n => s.trunc n 1) s
    let s := (List.range 16).foldl (fun (s : State) q =>
      let n := s.fetched ctx q
      (s.closeQueue ctx q).modQueue ctx q (fun y => { y with disc := y.disc + BitVec.ofNat 32 n })) s
    let ls := s.launches.filter (fun e => e.2.ctx == ctx)
    let s := (ls.filter (fun e => e.2.st == .started)).foldl (fun (s : State) e => s.resetLaunch e.1) s
    let s := (ls.filter (fun e => e.2.st == .fetched)).foldl (fun (s : State) e => s.discardFetched e.1) s
    some ((s.forgetFar ctx).modCtx ctx (fun x => { x with state := 3 }))
def execContextReset (ctx : Nat) (s : State) : Out := if 64 ≤ ctx then .fault .noSuchUnit else evOut s (s.contextReset ctx)

/-- CONTEXT_RESET_DONE: STATE reads 00 again. -/
def State.contextResetDone (s : State) (ctx : Nat) : Option State :=
  if (s.ctx ctx).state = 3 then some (s.modCtx ctx (fun x => { x with state := 0 })) else none
def execContextResetDone (ctx : Nat) (s : State) : Out := if 64 ≤ ctx then .fault .noSuchUnit else evOut s (s.contextResetDone ctx)

/-! CTXCTL (R274, R284). -/

/-- A write of CTXCTL: EN set again after being clear leaves the faulted state; CRST resets the context. -/
def State.writeCtxctl (s : State) (ctx : Nat) (v : Nat) : Option State :=
  if 2 ^ 32 ≤ v || fld v 30 21 != 0 || fld v 15 13 != 0 || fld v 7 1 != 0 || fld v 12 8 = 0 then none
  else
    let s := s.modCtx ctx (fun x => { x with
      en := bitOf v 31, pmax := BitVec.ofNat 5 (fld v 20 16), pregap := BitVec.ofNat 5 (fld v 12 8)
      state := if bitOf v 31 && !x.en && x.state = 2 then 0 else x.state })
    some (if bitOf v 0 then (s.contextReset ctx).getD s else s)
def execCtxEnable (ctx : Nat) (v : Dword) (s : State) : Out :=
  if 64 ≤ ctx then .fault .noSuchUnit else evOut s (s.writeCtxctl ctx v.toNat)

/-! Translation and code (R315, R362). -/

/-- Bytes of the range a SIZE names. -/
def invBytes (size : Nat) : Nat := if size = 0 then 2 ^ 18 else if size = 1 then 2 ^ 24 else if size = 2 then 2 ^ 30 else 2 ^ 56

/-- A write of CTXINV: the range, and with GO the cached translations of it discarded. -/
def State.writeCtxinv (s : State) (ctx : Nat) (v : Nat) : Option State :=
  let x := s.ctx ctx
  let size := fld v 61 60
  let va := fld v 55 18 * 2 ^ 18
  if fld v 59 56 != 0 || fld v 17 0 != 0 || va % invBytes size != 0 || (bitOf v 63 && !x.invDone) then none
  else
    let s := s.modCtx ctx (fun x => { x with
      invSize := BitVec.ofNat 2 size, invVa := BitVec.ofNat 56 va, invRun := if bitOf v 63 then some (size, va) else x.invRun })
    if !bitOf v 63 then some s
    else
      let hit := fun (t : Tlb) => t.ctx == ctx && t.vpn * 2 ^ levelShift t.level < va + invBytes size
        && va < (t.vpn + 1) * 2 ^ levelShift t.level
      some { s with tlbs := s.tlbs.filter (fun t => !hit t) }
def execTranslationInvalidate (ctx : Nat) (v : Dword) (s : State) : Out :=
  if 64 ≤ ctx then .fault .noSuchUnit else evOut s (s.writeCtxinv ctx (v.toNat ||| 2 ^ 63))

/-- Whether an access of a block is still to be performed at .dev: an operation that is deferred is, once it is applied (R333). -/
def State.underWay (s : State) (blk : Nat) (p : Pend) : Bool :=
  !p.isShared && (p.done < 7 || s.deferred.any (fun d => d.blk == blk && d.id == p.id))

/-- INVALIDATION_DONE: every access to the range is performed at .dev and the context's engine commands under way have completed. -/
def State.invalidationDone (s : State) (ctx : Nat) : Option State :=
  match (s.ctx ctx).invRun with
  | none => none
  | some (size, lo) =>
    let old := fun (b : Nat) (p : Pend) => s.underWay b p && p.addr < lo + invBytes size && lo < p.addr + p.size
    if s.blocks.any (fun e => e.2.ctx == ctx && (e.2.pend.any (old e.1) || e.2.cmds.any (fun c => !c.delivered))) then none
    else some (s.modCtx ctx (fun x => { x with invRun := none }))
def execInvalidationDone (ctx : Nat) (s : State) : Out := if 64 ≤ ctx then .fault .noSuchUnit else evOut s (s.invalidationDone ctx)

/-- FLUSH of CTXCODE: the context's verified entries and code caches discarded on every core. -/
def State.codeFlush (s : State) (ctx : Nat) : Option State :=
  if !(s.ctx ctx).codeDone then none
  else some (({ s with icache := s.icache.filter (fun e => e.ctx != ctx) } : State).modCtx ctx (fun x => { x with verified := [], codeDone := false }))
def execCodeFlush (ctx : Nat) (s : State) : Out := if 64 ≤ ctx then .fault .noSuchUnit else evOut s (s.codeFlush ctx)

/-- CODE_FLUSH_DONE. -/
def State.codeFlushDone (s : State) (ctx : Nat) : Option State :=
  if (s.ctx ctx).codeDone then none else some (s.modCtx ctx (fun x => { x with codeDone := true }))
def execCodeFlushDone (ctx : Nat) (s : State) : Out := if 64 ≤ ctx then .fault .noSuchUnit else evOut s (s.codeFlushDone ctx)

/-! The other registers of a context (R306). -/

/-- Writes of CTXPTB, CTXSAVEB and CTXSAVEN: only while EN is 0. -/
def State.writePtb (s : State) (ctx : Nat) (v : Nat) : Option State :=
  if (s.ctx ctx).en || 2 ^ 52 ≤ v || v % 2 ^ 16 != 0 then none else some (s.modCtx ctx (fun x => { x with ptb := v }))
def State.writeSaveb (s : State) (ctx : Nat) (v : Nat) : Option State :=
  if (s.ctx ctx).en || 2 ^ 56 ≤ v || v % 2 ^ 20 != 0 then none else some (s.modCtx ctx (fun x => { x with saveb := BitVec.ofNat 56 v }))
def State.writeSaven (s : State) (ctx : Nat) (v : Nat) : Option State :=
  if (s.ctx ctx).en || 2 ^ 16 ≤ v then none else some (s.modCtx ctx (fun x => { x with saven := v }))

/-- A write of CTXTERM: writing 1 to V clears it. -/
def State.writeTerm (s : State) (ctx : Nat) (v : Nat) : Option State :=
  if fld v 62 48 != 0 || fld v 7 4 != 0 then none
  else if bitOf v 63 then some (s.modCtx ctx (fun x => { x with term := BitVec.ofNat 64 (x.term.toNat % 2 ^ 63) })) else some s

end Sys2Proof.Machine
end

