-- ==== Sys2Proof/Machine/TraceEvents.lean ====
section
/-! DEFINITION. Trace sessions, debug registers and the quartz time base as the host and the management controller work them (04 R141, R150; 13
R368 to R370, R373, R376). -/

namespace Sys2Proof.Machine

/-! Sessions (R369, R370). -/

/-- TSCTL. -/
def TraceSlot.ctl (t : TraceSlot) : Nat :=
  b2n t.en * 2 ^ 63 + t.id * 2 ^ 48 + t.ctx * 2 ^ 40 + t.mode * 2 ^ 32 + t.sper * 2 ^ 16 + t.kinds

/-- A write of TSCTL. ID, CTX and MODE stand while EN is 1; EN from 0 to 1 clears the indices; EN to 0 with records held in the unit writes a
TRUNC of reason 5, and whether any are held is free. -/
def State.writeTsctl (s : State) (n v : Nat) : Option State :=
  let t := s.slotOf n
  let (id, ctx, mode) := (fld v 55 48, fld v 45 40, fld v 33 32)
  if fld v 62 56 != 0 || fld v 47 46 != 0 || fld v 39 34 != 0 || id = 0 || 1 < mode || bitOf v 0 || fld v 15 14 != 0
    || (t.en && !(id == t.id && ctx == t.ctx && mode == t.mode)) then none
  else
    let s := if t.en && !bitOf v 63 then
        let (held, s) := s.freeBit
        if held then s.trunc n 5 else s
      else s
    some (s.modSlot n (fun u =>
      let u := { u with en := bitOf v 63, id, ctx, mode, sper := fld v 31 16, kinds := fld v 15 0 }
      if !t.en && bitOf v 63 then { u with closed := false, widx := 0, ridx := 0, drop := 0, lost := 0, lastStamp := 0, counts := [] } else u))
def execTsctlWrite (n : Nat) (v : Dword) (s : State) : Out :=
  if 32 ≤ n then .fault .noSuchUnit else evOut s (s.writeTsctl n v.toNat)

/-- Writes of TSBASE and TSSIZE, only while EN is 0; of TSRIDX; of TSDROP, whose FAULT is cleared by writing 1. -/
def State.writeTsbase (s : State) (n v : Nat) : Option State :=
  if (s.slotOf n).en || 2 ^ 56 ≤ v || v % 4096 != 0 then none else some (s.modSlot n (fun t => { t with base := BitVec.ofNat 56 v }))
def State.writeTssize (s : State) (n v : Nat) : Option State :=
  if (s.slotOf n).en || v < 12 || 30 < v then none else some (s.modSlot n (fun t => { t with log2 := v }))
def State.writeTsridx (s : State) (n v : Nat) : Option State := some (s.modSlot n (fun t => { t with ridx := BitVec.ofNat 64 v }))
def State.writeTsdrop (s : State) (n v : Nat) : Option State :=
  some (if bitOf v 63 then s.modSlot n (fun t => { t with fault := false }) else s)

/-- TRACE_FLUSH: the counters of the session's blocks are flushed too (R150). -/
def State.traceFlush (s : State) (n : Nat) : State :=
  let t := s.slotOf n
  let ids := (s.blocks.filter (fun e => e.2.bbx != [] && (s.sessionOf (s.lch e.2.launch)).contains n)).map (fun e => e.1)
  let s := if t.en then ids.foldl State.flushBbx s else s
  s.modSlot n (fun t => { t with done := false })
def execTraceFlush (n : Nat) (s : State) : Out := if 32 ≤ n then .fault .noSuchUnit else evOut s (some (s.traceFlush n))

/-- TRACE_FLUSH_DONE. -/
def execTraceFlushDone (n : Nat) (s : State) : Out :=
  if 32 ≤ n then .fault .noSuchUnit else evOut s (some (s.modSlot n (fun t => { t with done := true })))

/-! Stops (R373). -/

/-- DBGSTOP: a stop is pending for every block of the debug context that is not stopped, those still Queued among them. -/
def State.stopAll (s : State) : State :=
  let s : State := { s with launches := s.launches.map (fun (e : Nat × Launch) =>
    (e.1, if e.2.ctx = s.dbgctx.toNat && e.2.st = .started then { e.2 with stopNew := true } else e.2)) }
  (s.blocks.filter (fun e => e.2.ctx == s.dbgctx.toNat && e.2.st != .retired && !e.2.stopped)).foldl (fun (s : State) e =>
    s.modBlk e.1 (fun b => { b with stopReq := some (b.stopReq == some true) })) s
def execDbgstop (s : State) : Out := evOut s (some s.stopAll)

/-- DBGREL: every stopped block of the debug context goes on; one that is saved, when it resumes. -/
def State.releaseAll (s : State) : State :=
  (s.blocks.filter (fun e => e.2.ctx == s.dbgctx.toNat && e.2.stopped)).foldl (fun (s : State) e =>
    s.modBlk e.1 (fun b => { b with stopped := false, st := if b.st = .waiting .stop then .ready else b.st })) s
def execDbgrel (s : State) : Out := evOut s (some s.releaseAll)

/-- BPCTL and BPARG. -/
def Breakpoint.ctl (b : Breakpoint) : Nat := b2n b.en * 2 ^ 63 + b.ctx * 2 ^ 8 + b.act * 2 ^ 4 + b.match_
def Breakpoint.arg (b : Breakpoint) : Nat := b2n b.any * 2 ^ 63 + b.wsize * 2 ^ 32 + b.ord

def State.modBp (s : State) (n : Nat) (f : Breakpoint → Breakpoint) : State := { s with bps := s.bps.setIfInBounds n (f (s.bp n)) }

/-- Writes of a breakpoint's registers. -/
def State.writeBpctl (s : State) (n v : Nat) : Option State :=
  if fld v 62 14 != 0 || fld v 7 6 != 0 || fld v 3 2 != 0 || fld v 5 4 = 3 then none
  else some (s.modBp n (fun b => { b with en := bitOf v 63, ctx := fld v 13 8, act := fld v 5 4, match_ := fld v 1 0 }))
def State.writeBpaddr (s : State) (n v : Nat) : Option State :=
  if 2 ^ 56 ≤ v then none else some (s.modBp n (fun b => { b with addr := BitVec.ofNat 56 v }))
def State.writeBparg (s : State) (n v : Nat) : Option State :=
  if fld v 62 36 != 0 || 9 < fld v 35 32 then none
  else some (s.modBp n (fun b => { b with any := bitOf v 63, wsize := fld v 35 32, ord := fld v 31 0 }))

/-! The quartz time base (R368). -/

/-- An offset as QTBSTAT holds it: signed, saturating. -/
def satOffset (x : Int) : Int := if x < -(2 ^ 31) then -(2 ^ 31) else if 2 ^ 31 - 1 < x then 2 ^ 31 - 1 else x

/-- QTB_OFFSET_MEASURE: the offset is removed by slewing; the rate is free within SLEWMAX. -/
def State.measure (s : State) (src : BitVec 2) (off : Int) : Option State :=
  if src = 0 || src = 3 then none
  else
    let lim := min s.slewMax 32767
    let rate : Int := ((if lim = 0 then 0 else (Config.freeInt s.free).natAbs % lim + 1 : Nat) : Int)
    let fix := if Config.qtbAhead then -off else off
    some { s with
      qtbSrc := src, qtbOffset := satOffset off, qtbLast := (off :: s.qtbLast).take 3
      qtbRem := fix * 1000000, qtbSlew := if fix = 0 then 0 else if fix < 0 then -rate else rate, free := s.free + 1 }
def execQtbOffsetMeasure (src : BitVec 2) (off : Int) (s : State) : Out := evOf s (s.measure src off)

/-- LOCK: the last three offsets within 100 ns. -/
def State.qtbLock (s : State) : Bool := s.qtbLast.length == 3 && s.qtbLast.all (fun x => x.natAbs ≤ 100)

/-- A step of the QTB, told to every open session. -/
def State.stepQtb (s : State) (ns : Nat) : State :=
  let q := s.qtb + ns
  let slots := (List.range 32).filter (fun n => (s.slotOf n).en)
  ({ s with qtb := q } : State).record slots 0x0C 1 0xFF 0 0 [s.qtb, q]

end Sys2Proof.Machine
end

