-- ==== Sys2Proof/Machine/Registers.lean ====
section
/-! DEFINITION. The device registers of BAR0: what a read gives and what a write does (00 R8, R9; 09 R274; 10 R306; 11 R340, R344, R346; 12
R349; 13 R362, R368, R369, R373; 14 R379, R385). A discarded write answers none. -/

namespace Sys2Proof.Machine

/-! Reads. -/

/-- Identity, reset, error logs and worlds (R379, R385). -/
def State.readIdentity (s : State) (o : Nat) : Nat :=
  if o = 0x000 then 0x4F564B09 * 2 ^ 32 + s.stepping.toNat * 2 ^ 24 + 2
  else if o = 0x008 then 0x0000000900010001
  else if o = 0x010 then s.devid.toNat
  else if o = 0x018 then s.rstCause.toNat * 2 ^ 8
  else if o = 0x020 then s.ce.toNat * 2 ^ 32 + s.ue.toNat
  else if o = 0x030 then s.errIdx.toNat
  else if o = 0x038 then s.pkgPower.toNat * 2 ^ 48 + s.clkMHz
  else if 0x100 ≤ o && o < 0x200 then
    let e := (s.errLog[(o - 0x100) / 16]?).getD (0, 0)
    (if o % 16 = 0 then e.1 else e.2).toNat
  else if 0x200 ≤ o && o < 0x218 then ((s.wcore[(o - 0x200) / 8]?).getD 0).toNat
  else if 0x280 ≤ o && o < 0x380 then
    let e := (s.wrgn[(o - 0x280) / 16]?).getD (0, 0)
    (if o % 16 = 0 then e.1 else e.2).toNat
  else 0

/-- Active lanes of a link. -/
def Link.lanes (l : Link) (n : Nat) : Nat :=
  let full := if isHawser n then 4 else 64
  if isHawser n && !l.up then 0 else if l.half = 0 then full else if l.half = 3 then 0 else full / 2

/-- A link's registers (R340, R344). -/
def State.readLink (s : State) (n o : Nat) : Nat :=
  let l := s.link n
  if o = 0x00 then
    if isHawser n then b2n l.up * (2 ^ 63 + l.peer % 64 * 2 ^ 56 + l.plink % 16 * 2 ^ 48) + l.retrain * 2 ^ 24 + l.lanes n
    else l.retrain * 2 ^ 24 + l.half * 2 ^ 8 + l.lanes n
  else if o = 0x08 then l.crcerr * 2 ^ 32 + l.replay
  else if o = 0x10 then l.degn * 2 ^ 8
  else if o = 0x18 then l.laneerr.toNat
  else 0

/-- A zone's registers (R349). -/
def State.readZone (s : State) (z o : Nat) : Nat :=
  let y := s.zone z
  if o = 0x00 then y.fat0
  else if o = 0x08 then s.demand z % 2 ^ 16 * 2 ^ 16 + s.headroom z % 2 ^ 16
  else if o = 0x10 then s.zstat z
  else if o = 0x18 then y.tdet.toNat
  else if o = 0x20 then y.tgate.toNat
  else if o = 0x28 then y.tout.toNat
  else if o = 0x30 then
    y.press.toNat * 2 ^ 48 + y.outlet.toNat * 2 ^ 36 + y.inlet.toNat * 2 ^ 24 + b2n y.drydet * 2 ^ 17 + b2n y.leakdet * 2 ^ 16 + y.flow.toNat
  else if o = 0x38 then b2n y.auto * 2 ^ 31 + (s.valve z).toNat
  else 0

/-- The package's coolant registers. -/
def State.readPackage (s : State) (o : Nat) : Nat :=
  if o = 0x800 then s.supply
  else if o = 0x808 then s.cdem.toNat
  else if o = 0x810 then s.tcrit.toNat * 2 ^ 32 + s.tmax.toNat * 2 ^ 16 + s.reprime.toNat * 2 ^ 8
  else 0

/-- A session slot's registers (R369). -/
def TraceSlot.read (t : TraceSlot) (o : Nat) : Nat :=
  if o = 0x00 then t.ctl
  else if o = 0x08 then t.base.toNat
  else if o = 0x10 then t.log2
  else if o = 0x18 then t.widx.toNat
  else if o = 0x20 then t.ridx.toNat
  else if o = 0x28 then b2n t.fault * 2 ^ 63 + t.drop % 2 ^ 63
  else if o = 0x30 then b2n t.done * 2
  else 0

/-- The trace unit's block: QTB, breakpoints, stops, sessions (R368, R369, R373). -/
def State.readTrace (s : State) (o : Nat) : Nat :=
  if o = 0x000 then s.qtb % 2 ^ 64
  else if o = 0x008 then
    wrapBits 32 s.qtbOffset * 2 ^ 32 + wrapBits 16 s.qtbSlew * 2 ^ 16 + b2n s.qtbLock * 2 ^ 2 + s.qtbSrc.toNat
  else if o = 0x010 then s.slewMax
  else if 0x200 ≤ o && o < 0x300 then
    let b := s.bp ((o - 0x200) / 0x20)
    if o % 0x20 = 0 then b.ctl else if o % 0x20 = 8 then b.addr.toNat else if o % 0x20 = 0x10 then b.arg else 0
  else if o = 0x310 then s.dbgctx.toNat
  else if 0x800 ≤ o then (s.slotOf ((o - 0x800) / 0x40)).read (o % 0x40)
  else 0

/-- CTXSTAT.STATE: a context neither faulted nor resetting is active while it has a launch that has not completed. -/
def State.ctxState (s : State) (c : Nat) : Nat :=
  let x := s.ctx c
  if x.state = 2 || x.state = 3 then x.state.toNat else b2n (s.launches.any (fun e => e.2.ctx == c && e.2.st != .completed))

/-- A launch queue's registers (R274). -/
def LaunchQueue.read (y : LaunchQueue) (o : Nat) : Nat :=
  if o = 0x00 then y.base.toNat
  else if o = 0x08 then y.log2sz.toNat
  else if o = 0x10 then y.widx.toNat
  else if o = 0x18 then y.ridx.toNat
  else if o = 0x20 then b2n y.open_
  else if o = 0x28 then y.disc.toNat * 2 ^ 32 + y.err.toNat * 2 ^ 8 + b2n y.halt
  else 0

/-- A context's registers (R274, R306, R362). -/
def State.readContext (s : State) (c o : Nat) : Nat :=
  let x := s.ctx c
  if o = 0x000 then b2n x.en * 2 ^ 31 + x.pmax.toNat * 2 ^ 16 + x.pregap.toNat * 2 ^ 8
  else if o = 0x008 then (if s.ctxState c = 2 then x.fq.toNat * 2 ^ 8 else 0) + s.ctxState c
  else if o = 0x010 then x.faddr.toNat
  else if o = 0x018 then x.ptb
  else if o = 0x020 then x.saveb.toNat
  else if o = 0x028 then x.saven
  else if o = 0x030 then x.term.toNat
  else if o = 0x038 then b2n x.invDone * 2 ^ 62 + x.invSize.toNat * 2 ^ 60 + x.invVa.toNat
  else if o = 0x040 then b2n x.codeDone * 2
  else if 0x100 ≤ o && o < 0x500 then (x.queue ((o - 0x100) / 0x40)).read (o % 0x40)
  else 0

/-- A dword of BAR0 (R346). -/
def State.regRead (s : State) (o : Nat) : Nat :=
  if o % 8 != 0 then 0
  else if o < 0x400 then s.readIdentity o
  else if 0x40000 ≤ o && o < 0x40200 then s.readLink ((o - 0x40000) / 0x20) (o % 0x20)
  else if 0x50000 ≤ o && o < 0x50180 then s.readLink (16 + (o - 0x50000) / 0x20) (o % 0x20)
  else if 0x60000 ≤ o && o < 0x60600 then s.readZone ((o - 0x60000) / 0x40) (o % 0x40)
  else if 0x60600 ≤ o && o < 0x61000 then s.readPackage (o - 0x60000)
  else if 0x70000 ≤ o && o < 0x71000 then s.readTrace (o - 0x70000)
  else if 0x100000 ≤ o && o < 0x140000 then s.readContext ((o - 0x100000) / 0x1000) (o % 0x1000)
  else 0

/-! Writes by the host and the side band. -/

/-- RSTCTL and ERRCTL. -/
def State.writeIdentity (s : State) (o v : Nat) : Option State :=
  if o = 0x018 then
    if fld v 63 16 != 0 || fld v 7 1 != 0 then none else some (if bitOf v 0 then s.warmStart 3 else s)
  else if o = 0x028 then
    if fld v 63 1 != 0 then none else some (if bitOf v 0 then s.clearErrors else s)
  else none

/-- A link's control and lane registers. -/
def State.writeLink (s : State) (n o v : Nat) : Option State :=
  if o = 0x10 then
    if fld v 63 12 != 0 || fld v 7 2 != 0 || fld v 11 8 = 0 then none
    else
      let s := s.modLink n (fun l => { l with degn := fld v 11 8 })
      let s := if bitOf v 0 then s.clearLink n else s
      some (if bitOf v 1 then s.startRewiden n else s)
  else if o = 0x18 then
    if isHawser n && fld v 63 4 != 0 then none
    else some (s.modLink n (fun l => { l with laneerr := l.laneerr &&& ~~~(BitVec.ofNat 64 v) }))
  else none

/-- ZSTAT: a 1 clears a sensor bit. The read-only fields of the value written, STATE among them, are ignored (R8), a reserved code of STATE too: it
is no reserved value of a writable field, which R9 discards (log 79). -/
def State.writeZstat (s : State) (z v : Nat) : Option State :=
  if fld v 63 24 != 0 || fld v 7 4 != 0 then none
  else some (s.modZone z (fun y => { y with
    leak := y.leak && !bitOf v 11, dry := y.dry && !bitOf v 10, flowlow := y.flowlow && !bitOf v 9, overtemp := y.overtemp && !bitOf v 8 }))

def State.writeZone (s : State) (z o v : Nat) : Option State :=
  if o = 0x00 then s.writeFat z v else if o = 0x10 then s.writeZstat z v else if o = 0x38 then s.writeValve z v else none

def State.writePackage (s : State) (o v : Nat) : Option State :=
  if o = 0x800 then s.writeSupply v else if o = 0x808 then s.writeCdem v else if o = 0x810 then s.writeCthr v else none

def State.writeSlot (s : State) (n o v : Nat) : Option State :=
  if o = 0x00 then s.writeTsctl n v
  else if o = 0x08 then s.writeTsbase n v
  else if o = 0x10 then s.writeTssize n v
  else if o = 0x20 then s.writeTsridx n v
  else if o = 0x28 then s.writeTsdrop n v
  else if o = 0x30 then if 4 ≤ v then none else some (if bitOf v 0 then s.traceFlush n else s)
  else none

def State.writeTrace (s : State) (o v : Nat) : Option State :=
  if 0x200 ≤ o && o < 0x300 then
    let n := (o - 0x200) / 0x20
    if o % 0x20 = 0 then s.writeBpctl n v else if o % 0x20 = 8 then s.writeBpaddr n v else if o % 0x20 = 0x10 then s.writeBparg n v else none
  else if o = 0x300 then if v % 2 ^ 63 != 0 then none else some (if bitOf v 63 then s.stopAll else s)
  else if o = 0x308 then if v % 2 ^ 63 != 0 then none else some (if bitOf v 63 then s.releaseAll else s)
  else if o = 0x310 then if 64 ≤ v then none else some { s with dbgctx := BitVec.ofNat 6 v }
  else if 0x800 ≤ o then s.writeSlot ((o - 0x800) / 0x40) (o % 0x40) v
  else none

def State.writeQueue (s : State) (c q o v : Nat) : Option State :=
  if o = 0x00 then s.writeLqbase c q v
  else if o = 0x08 then s.writeLqcfg c q v
  else if o = 0x10 then s.writeWidx c q v
  else if o = 0x20 then s.writeLqctl c q v
  else none

def State.writeContext (s : State) (c o v : Nat) : Option State :=
  if o = 0x000 then s.writeCtxctl c v
  else if o = 0x018 then s.writePtb c v
  else if o = 0x020 then s.writeSaveb c v
  else if o = 0x028 then s.writeSaven c v
  else if o = 0x030 then s.writeTerm c v
  else if o = 0x038 then s.writeCtxinv c v
  else if o = 0x040 then if 4 ≤ v then none else if bitOf v 0 then s.codeFlush c else some s
  else if 0x100 ≤ o && o < 0x500 then s.writeQueue c ((o - 0x100) / 0x40) (o % 0x40) v
  else none

/-- A write of a dword of BAR0; registers that hold only read-only fields, those secure firmware alone writes, and offsets outside the blocks
take none. -/
def State.regWrite (s : State) (o v : Nat) : Option State :=
  if s.resetting || o % 8 != 0 then none
  else if o < 0x400 then s.writeIdentity o v
  else if 0x40000 ≤ o && o < 0x40200 then s.writeLink ((o - 0x40000) / 0x20) (o % 0x20) v
  else if 0x50000 ≤ o && o < 0x50180 then s.writeLink (16 + (o - 0x50000) / 0x20) (o % 0x20) v
  else if 0x60000 ≤ o && o < 0x60600 then s.writeZone ((o - 0x60000) / 0x40) (o % 0x40) v
  else if 0x60600 ≤ o && o < 0x61000 then s.writePackage (o - 0x60000) v
  else if 0x70000 ≤ o && o < 0x71000 then s.writeTrace (o - 0x70000) v
  else if 0x100000 ≤ o && o < 0x140000 then s.writeContext ((o - 0x100000) / 0x1000) (o % 0x1000) v
  else none

/-- REGISTER_WRITE: a write through the host port, which must be up. -/
def execRegisterWrite (off : Nat) (v : Dword) (s : State) : Out :=
  evOf s (if s.hostUp then s.regWrite off v.toNat else none)

/-! WORLD_REGISTER_WRITE (R385). -/

/-- A write of WCORE or WRGN by secure firmware. A core's bit takes effect once the core holds no block. -/
def State.worldWrite (s : State) (o v : Nat) : Option State :=
  if s.resetting || o % 8 != 0 then none
  else if 0x200 ≤ o && o < 0x218 then
    let s : State := { s with wcore := s.wcore.setIfInBounds ((o - 0x200) / 8) (BitVec.ofNat 64 v) }
    some ((List.range 192).foldl (fun (s : State) c => s.settleCore c) s)
  else if 0x280 ≤ o && o < 0x380 then
    let n := (o - 0x280) / 16
    let e := (s.wrgn[n]?).getD (0, 0)
    if o % 16 = 0 then
      if fld v 61 52 != 0 || fld v 17 0 != 0 then none
      else some { s with wrgn := s.wrgn.setIfInBounds n (BitVec.ofNat 64 v, e.2) }
    else if fld v 63 52 != 0 || fld v 17 0 != 0 then none
    else some { s with wrgn := s.wrgn.setIfInBounds n (e.1, BitVec.ofNat 64 v) }
  else none
def execWorldRegisterWrite (off : Nat) (v : Dword) (s : State) : Out := evOf s (s.worldWrite off v.toNat)

end Sys2Proof.Machine
end

