-- ==== Sys2Proof/Machine/HostMemory.lean ====
section
/-! DEFINITION. Accesses through BAR2 and the host port's link; accesses reaching their points of performance; evictions; encodings of no
instruction (03 R86; 07 R236, R238, R239, R256; 11 R334, R345). -/

namespace Sys2Proof.Machine

/-! Host accesses to device memory (R256, R345). They wait while the host port is down or HBM rests in a warm reset. -/

def State.hostReaches (s : State) : Bool := s.hostUp && !s.resetting

/-- A request answered as an Unsupported Request: it does nothing (R345). -/
def State.unsupported (s : State) : State := { s with hostRead := [], hostPoison := false, hostUnsupported := true }

/-- A completed request's data, and whether it is sent as poisoned (R345). -/
def State.completed (s : State) (bs : List Byte) (bad : Bool) : State := { s with hostRead := bs, hostPoison := bad, hostUnsupported := false }

/-- Whether the write queues of the lines of [k, k + n) have room, and their entries taken (R332). -/
def State.linesFree (s : State) (k n : Nat) : Bool := (sectorsOf k n).all (fun p => !s.queueFull (p * 64))
def State.queueLines (s : State) (k n : Nat) : State := (sectorsOf k n).foldl (fun (s : State) p => s.queued (p * 64)) s

/-- HOST_MEMORY_READ: up to 4,096 bytes at the home ports, marked poisoned when a granule is; none above the device's memory or in a secure
region, since the host is a non-secure master (R320; log 81). -/
def State.hostMemRead (s : State) (off n : Nat) : Option State :=
  if !s.hostReaches then none
  else if 4096 < n || !s.farOk off n then some s.unsupported
  else some (s.completed (s.mem.read off n) (n != 0 && (s.homePoison off n).isSome))
def execHostMemoryRead (off n : Nat) (s : State) : Out := evOf s (s.hostMemRead off n)

/-- HOST_MEMORY_WRITE: up to 512 bytes, at the named offset only, one copy of a replicated page (R238). Poisoned data leaves its sectors poisoned
(R317, R345). -/
def State.hostMemWrite (s : State) (off : Nat) (bs : List Byte) (ep : Bool) : Option State :=
  if !s.hostReaches then none
  else if 512 < bs.length || !s.farOk off bs.length then some s.unsupported
  else if !s.linesFree off bs.length then none
  else
    let s := if ep then s.beforePoison (sectorsOf off bs.length) else s
    let s := (s.queueLines off bs.length).homeWrite off bs
    some { s with poison := if ep then (sectorsOf off bs.length).foldl addNum s.poison else s.poison, hostUnsupported := false }
def execHostMemoryWrite (off : Nat) (bs : List Byte) (ep : Bool) (s : State) : Out := evOf s (s.hostMemWrite off bs ep)

/-- A PCIe AtomicOp as a read-modify-write. -/
def rmwOf : AtomicOp → RmwOp
  | .fetchAdd => .add
  | .swap => .swap
  | .cas => .cas

/-- HOST_ATOMICOP: completed at the home port; its completion carries the old value. -/
def State.hostAtomic (s : State) (off : Nat) (op : AtomicOp) (w : Bool) (x y : Dword) : Option State :=
  let n := if w then 4 else 8
  if !s.hostReaches then none
  else if !s.farOk off n || off % n != 0 then some s.unsupported
  else if s.queueFull off then none
  else
    let bad := (s.homePoison off n).isSome
    let (old, s) := (s.queued off).homeRmw off (rmwOf op) n x y
    some (s.completed (leBytes n old) bad)
def execHostAtomicop (off : Nat) (op : AtomicOp) (w : Bool) (x y : Dword) (s : State) : Out := evOf s (s.hostAtomic off op w x y)

/-- Accesses through BAR0 of a size or alignment of their own: but for aligned ones of 8 bytes, a reserved offset's (R346). -/
def State.barRead (s : State) (off n : Nat) : State :=
  if !s.hostUp then s
  else if s.resetting then s.completed (List.replicate n 0xFF) false
  else s.completed (if n = 8 && off % 8 = 0 then leBytes 8 (s.regRead off) else List.replicate n 0) false
def State.barWrite (s : State) (off : Nat) (bs : List Byte) : State :=
  if s.hostUp && bs.length = 8 then (s.regWrite off (ofLe bs)).getD s else s

/-- HOST_PORT_LINK_CHANGE: the port trains only where the bring-up has reached its step (R381). -/
def execHostPortLinkChange (up : Bool) (s : State) : Out := .next { s with hostUp := up && s.mgmt.step == 0 }

/-! Performance and evictions (R236, R239, R334). -/

/-- ACCESS_PERFORMED: the i-th pending access of a block at a scope. -/
def State.accessPerformed (s : State) (blk i : Nat) (sc : BitVec 4) : Option State :=
  ((s.blk blk).pend[i]?).bind (fun p => s.performAt blk p sc.toNat)
def execAccessPerformed (blk i : Nat) (sc : BitVec 4) (s : State) : Out := evOut s (s.accessPerformed blk i sc)

/-- L1_EVICTION: a sector's copy leaves the L1 of a core. -/
def execL1Eviction (core sector : Nat) (s : State) : Out :=
  if 192 ≤ core then .fault .noSuchUnit else evOut s (some (s.l1Drop core sector))

/-- L2_EVICTION: the dirty sectors of a line, number line at 256 bytes, reach the HBM array. -/
def execL2Eviction (line : Nat) (s : State) : Out := evOut s (some (s.persist (line * 256) 256))

/-! UNALLOCATED_ENCODING (R85, R86). -/

/-- The block that fetched an encoding of no instruction takes ILLEGAL with its DETAIL. -/
def execUnallocatedEncoding (detail : BitVec 16) (s : State) : Out :=
  evOut s (some (s.takeTrap s.cur { cause := cILLEGAL, detail := detail.toNat }))

end Sys2Proof.Machine
end

