-- ==== Sys2Proof/Machine/Management.lean ====
section
/-! DEFINITION. The management controller: the side-band commands, checkpoints, attestation and the cold reset (11 R342; 13 R368; 14 R381 to
R388). -/

namespace Sys2Proof.Machine

/-! Responses (R386): status 0 done, 1 invalid operand, 2 busy, 3 refused. -/

def State.respond (s : State) (status : Nat) (data : Dword := 0) (bytes : List Byte := []) : State :=
  { s with mgmt := { s.mgmt with lastStatus := status, lastData := data, lastBytes := bytes } }

/-- A command: without VAUX no port answers; in the recovery state only those let through are. -/
def State.command (s : State) (inRecovery : Bool) (f : State → State) : Out :=
  .next (if s.mgmt.step = 1 then s else if s.mgmt.recovery && !inRecovery then s.respond 3 else f s)

/-- REGRD: a dword as a host read gives it; in the recovery state PARTID and CMID only. -/
def execRegrd (off : Nat) (s : State) : Out :=
  s.command (off == 0x000 || off == 0x008) (fun s =>
    s.respond 0 (BitVec.ofNat 64 (if s.resetting then 2 ^ 64 - 1 else s.regRead off)))

/-- REGWR: a write as the host's. -/
def execRegwr (off : Nat) (v : Dword) (s : State) : Out := s.command false (fun s => ((s.regWrite off v.toNat).getD s).respond 0)

/-- WARMRST. -/
def execWarmrst (s : State) : Out := s.command false (fun s => (s.warmStart 2).respond 0)

/-! Checkpoints (R387). -/

/-- What a quiesced checkpoint means for a resident block: a restore is abandoned (log 32), any other block that is not frozen is saved. -/
def State.quiesce (s : State) (blk : Nat) : State :=
  if (s.blk blk).restoring then s.abandon blk else s.startSave blk cPREEMPT

/-- The start of a checkpoint; a quiesced one leaves no block resident but frozen ones. -/
def State.startCkpt (s : State) (live : Bool) (dst len : Nat) : State :=
  let s : State := { s with ckpt := some { live, dst, len } }
  if live then s
  else (s.blocks.filter (fun e => e.2.onCore)).foldl (fun (s : State) e => s.quiesce e.1) s

/-- CKPT: busy while one runs; refused in a warm reset; an area too short for the memory is an invalid operand. -/
def execCkpt (live : Bool) (dst len : Nat) (s : State) : Out :=
  s.command false (fun s =>
    if s.ckpt.any (fun k => k.running) then s.respond 2
    else if s.resetting then s.respond 2
    else if len < devMem || dst % 64 != 0 || 2 ^ 51 ≤ dst + devMem then s.respond 1
    else (s.startCkpt live dst len).respond 0)

/-- Where a checkpoint's copy stands: whole sectors of the device's memory. -/
def Ckpt.at_ (k : Ckpt) : Nat := min (k.pos / 64 * 64) devMem

/-- Device memory from lo up to hi copied to the host's, poison with it. -/
def State.copyOut (s : State) (dst lo hi : Nat) : State :=
  let k := hostBase + dst
  { s with
    mem := s.mem.below (k + lo) ++ ((s.mem.from_ lo).below hi).map (fun c => (c.1 + k, c.2)) ++ s.mem.from_ (k + hi)
    poison := s.poison.filter (fun p => p < (k + lo) / 64) ++ (s.poison.filter (fun p => lo / 64 ≤ p && p < hi / 64)).map (fun p => p + k / 64)
      ++ s.poison.filter (fun p => (k + hi) / 64 ≤ p) }

/-- Whether the copy of a running checkpoint can go on: the host port up, and a quiesced one with nothing under way. -/
def State.copying (s : State) (k : Ckpt) : Bool := k.running && s.hostUp && (k.live || s.ckptQuiet)

/-- The next n sectors copied, in ascending offset, all read at one instant. -/
def State.ckptCopy (s : State) (n : Nat) : Option State :=
  match s.ckpt with
  | none => none
  | some k =>
    let hi := min (k.at_ + 64 * n) devMem
    if s.copying k then some { s.copyOut k.dst k.at_ hi with ckpt := some { k with pos := hi } } else none

/-- CHECKPOINT_COMPLETE: what is left is copied, and the copy has ended; placement resumes. -/
def State.ckptDone (s : State) : Option State :=
  match s.ckpt with
  | none => none
  | some k =>
    if s.copying k then some (({ s.copyOut k.dst k.at_ devMem with ckpt := some { k with running := false, pos := devMem } } : State).signal 4)
    else none
def execCheckpointComplete (s : State) : Out := evOut s s.ckptDone

/-- CKSTAT: state, error and bytes copied, in an order the model chooses: running in bit 63, error in bit 62, bytes below. -/
def execCkstat (s : State) : Out :=
  s.command false (fun s =>
    let k := s.ckpt.getD { live := false, dst := 0, len := 0, running := false }
    s.respond 0 (BitVec.ofNat 64 (b2n k.running * 2 ^ 63 + b2n k.error * 2 ^ 62 + k.pos % 2 ^ 62)))

/-! Time, identity and routes. -/

/-- QSTEP: a step of zero is invalid. -/
def execQstep (ns : Nat) (s : State) : Out := s.command false (fun s => if ns = 0 then s.respond 1 else (s.stepQtb ns).respond 0)

/-- SLEWMAX: 1 to 65,535 ppm; a slew under way keeps within it. -/
def execSlewmax (ppm : Nat) (s : State) : Out :=
  s.command false (fun s => if ppm = 0 || 65535 < ppm then s.respond 1 else
      ({ s with slewMax := ppm, qtbSlew := max (-(ppm : Int)) (min ppm s.qtbSlew) } : State).respond 0)

/-- DEVID: busy while any context is enabled. -/
def execDevid (n : Nat) (s : State) : Out :=
  s.command false (fun s =>
    if 64 ≤ n then s.respond 1
    else if s.ctxs.toList.any (fun x => x.en) then s.respond 2
    else ({ s with devid := BitVec.ofNat 6 n } : State).respond 0)

/-- ROUTE: one or two of the hawser links, 0 to 11, toward another device. -/
def execRoute (dev : Nat) (links : List Nat) (s : State) : Out :=
  s.command false (fun s =>
    if 64 ≤ dev || links.isEmpty || 2 < links.length || links.any (fun n => 12 ≤ n) || links.eraseDups.length != links.length
    then s.respond 1
    else ({ s with routes := Tab.put s.routes dev (links.map (fun n => n + 16)) } : State).respond 0)

/-! Firmware images (R383, R384). -/

def imgClass (img : List Byte) : Nat := ((img.getD 0 0).toNat)
def imgSvn (img : List Byte) : Nat := ((img.getD 1 0).toNat)
/-- A run of an image's bytes. -/
def imgPart (img : List Byte) (off n : Nat) : List Byte := (img.drop off).take n
def imgBody (img : List Byte) : List Byte := img.drop 8192

/-- Whether an image is accepted for a class under the key of the stage before; for class 1 the key [] stands for the one the ROM's digest
names. -/
def imgOk (key : List Byte) (svn cls : Nat) (img : List Byte) : Bool :=
  8192 ≤ img.length && imgClass img == cls && ofLe (imgPart img 2 2) == 0 && ofLe (imgPart img 4 4) == (imgBody img).length
    && (imgPart img 8 56).all (fun b => b == 0) && (imgPart img 0x150D 2803).all (fun b => b == 0)
    && (cls == 1 || (imgPart img 0x80 1952).all (fun b => b == 0))
    && Config.mldsaVerify key (imgPart img 0 0x820) (imgPart img 0x820 3309)
    && shake256 (imgBody img) 64 == imgPart img 0x40 64 && svn ≤ imgSvn img

/-- FWUPD: an image of a class 1 to 3 is staged until the next cold reset. -/
def execFwupd (img : List Byte) (s : State) : Out :=
  s.command true (fun s =>
    let c := imgClass img
    if img.length < 8192 || c = 0 || 3 < c then s.respond 1
    else
      let rest := s.mgmt.staged.filter (fun x => imgClass x != c)
      ({ s with mgmt := { s.mgmt with staged := rest ++ [img] } } : State).respond 0)

/-- A command to raise a class's fused SVN: signed, and to no more than the running image's; a fuse is never lowered (R384; log 35). -/
def State.raiseSvn (s : State) (cls svn : Nat) (sig : List Byte) : State :=
  match s.mgmt.images[cls - 1]? with
  | some img =>
    if s.mgmt.step != 0 || cls = 0 || 3 < cls || imgSvn img < svn || svn ≤ s.mgmt.svn.getD (cls - 1) 0 || !Config.svnSigned cls svn sig then s
    else { s with mgmt := { s.mgmt with svn := s.mgmt.svn.set (cls - 1) svn } }
  | none => s

/-! Attestation (R388). -/

/-- The content a measurement hashes; the fused versions are those of the last cold reset, since index 5 alone changes between two. -/
def State.measured (s : State) (i : Nat) : List Byte :=
  if i = 1 then Config.rom
  else if i = 2 || i = 3 || i = 4 then
    let img := s.mgmt.images.getD (i - 2) []
    img ++ [BitVec.ofNat 8 (imgSvn img)]
  else if i = 5 then
    s.wcore.toList.flatMap (fun w => leBytes 8 w.toNat) ++ s.wrgn.toList.flatMap (fun e => leBytes 8 e.1.toNat ++ leBytes 8 e.2.toNat)
  else if i = 6 then leBytes 8 0x0000000900010001 ++ s.mgmt.svnBoot.map (fun v => BitVec.ofNat 8 v)
  else []

/-- A measurement, 64 bytes of SHAKE256. -/
def State.measurement (s : State) (i : Nat) : List Byte := shake256 (s.measured i) 64

/-- The answer to an SPDM request: a measurement, 1 to 6, with its signature; bytes of the chain of slot 0; or what SPDM says (log 20). -/
def State.spdm (s : State) : SpdmAsk → Option (List Byte)
  | .measurement i => if i = 0 || 6 < i then none else some (s.measurement i ++ Config.mldsaSign (s.measurement i))
  | .certificate slot off n => if slot = 0 then some ((Config.certChain.drop off).take n) else none
  | .other bs => some (Config.spdmAnswer bs)

/-- SPDM_REQUEST, through the host port while it is up, or the side band. -/
def execSpdmRequest (r : SpdmReq) (s : State) : Out :=
  if r.host && !s.hostUp then .next s
  else s.command false (fun s => match s.spdm r.ask with
    | none => s.respond 1
    | some bs => s.respond 0 0 bs)

/-! COLD_RESET (R381, R382). -/

/-- The images a cold reset finds in the store: a staged image stands in its class's place. -/
def storedImage (r : BringUp) (staged : List (List Byte)) (cls : Nat) : List Byte :=
  ((staged.find? (fun x => imgClass x == cls)).or (r.images.find? (fun x => imgClass x == cls))).getD []

/-- The first of steps 1 to 4 and 6 that fails, 0 for none. -/
def failedStep (r : BringUp) (m : Mgmt) : Nat :=
  let img := storedImage r m.staged
  let svn := fun (c : Nat) => m.svn.getD (c - 1) 0
  let key := imgPart (img 1) 0x80 1952
  if !r.vaux then 1
  else if !imgOk [] (svn 1) 1 (img 1) then 2
  else if !(imgOk key (svn 2) 2 (img 2) && imgOk key (svn 3) 3 (img 3)) then 3
  else if r.world.isNone then 4
  else if !r.railsOk then 6
  else 0

/-- The test flow of a zone's re-prime check, from its CEIL, FLOOR and ALLOC (R382). -/
def testFlow (e : Nat × Nat × Nat) : Nat := max (max e.2.2 e.2.1) 100

/-- The zones to check in groups of ascending order, each as large as SUPPLY carries (R382); one that it does not carry is alone (log 82). -/
def checkGroups (supply : Nat) (flow : Nat → Nat) : List Nat → List Nat → List (List Nat)
  | [], g => if g = [] then [] else [g]
  | z :: zs, g =>
    if g = [] || ((g ++ [z]).map flow).foldl (· + ·) 0 ≤ supply then checkGroups supply flow zs (g ++ [z])
    else g :: checkGroups supply flow zs [z]

/-- The groups of a bring-up: a zone whose LEAKDET reads 1 is closed without a check. -/
def bringGroups (r : BringUp) (c : CoolCfg) : List (List Nat) :=
  checkGroups c.supply (fun z => testFlow (c.zones.getD z (400, 0, 0))) ((List.range 24).filter (fun z => !r.leakZones.contains z)) []

/-- FLOW, DRYDET and LEAKDET of a zone as the check of its group ends; none where it was not checked, or its group not to the end. -/
def zoneReading (r : BringUp) (c : CoolCfg) (z : Nat) : Option (BitVec 9 × Bool × Bool) :=
  ((bringGroups r c).findIdx? (fun g => g.contains z)).bind (fun i => (r.checks[i]?).bind (fun rs => rs[z]?))

/-- Whether a zone passes its re-prime check, with the test flow in ALLOC's place (R354 step 6, R382). -/
def zonePasses (r : BringUp) (c : CoolCfg) (z : Nat) : Bool :=
  let e := c.zones.getD z (400, 0, 0)
  match zoneReading r c z with
  | some (flow, dry, leak) => !dry && !leak && max e.2.1 (testFlow e - 16) ≤ flow.toNat
  | none => false

/-- The zones after step 5: their configuration loaded, closed where the check fails or a leak shows. -/
def coldZones (r : BringUp) (c : CoolCfg) : Vector Zone 24 :=
  Vector.ofFn (fun i =>
    let e := c.zones.getD i.val (400, 0, 0)
    let (flow, dry, leak) := (zoneReading r c i.val).getD (0, false, r.leakZones.contains i.val)
    { ceil := e.1, floor := e.2.1, alloc := e.2.2, state := if zonePasses r c i.val then 0 else 4, flow, drydet := dry, leakdet := leak })

/-- The links after steps 7 and 8. -/
def coldLinks (r : BringUp) : Vector Link 28 :=
  Vector.ofFn (fun i =>
    if i.val < 16 then { half := (r.modules.lookup i.val).getD 0 }
    else match r.links.lookup (i.val - 16) with
      | some e => { degn := hawserDegn, up := true, peer := e.1, plink := e.2 }
      | none => { degn := hawserDegn, half := 3 })

/-- The stored coolant configuration, or the one of a device whose store holds none (R382). -/
def Mgmt.cool (m : Mgmt) : CoolCfg :=
  m.stored.getD { supply := 4000, cdem := 0x20100804, cthr := 0x046003C00200, zones := List.replicate 24 (400, 0, 0) }

/-- The device after a cold reset. A failed step leaves the later ones unrun, in the recovery state; one that leaves every sennit module down is
followed by a warm reset (R339). -/
def State.coldReset (s : State) (r : BringUp) : State :=
  let m : Mgmt := { svn := s.mgmt.svn, svnBoot := s.mgmt.svn, stored := s.mgmt.stored }
  let base : State := { State.reset with
    agenda := s.agenda, free := s.free, nextId := s.nextId, stepping := s.stepping, refuses := s.refuses
    mem := s.mem.from_ devMem, poison := s.poison.filter (fun p => devMem / 64 ≤ p), hostUp := false, mgmt := m }
  let c := m.cool
  let worlds := (r.world.getD []).foldl (fun (s : State) w => (s.worldWrite w.1 w.2.toNat).getD s) base
  let cooled : State := { worlds with
    supply := c.supply, cdem := c.cdem, zones := coldZones r c
    tcrit := BitVec.ofNat 12 (dfld c.cthr 43 32), tmax := BitVec.ofNat 12 (dfld c.cthr 27 16), reprime := BitVec.ofNat 4 (dfld c.cthr 11 8) }
  let n := failedStep r s.mgmt
  let staged := s.mgmt.staged
  if n != 0 then
    let t := if n = 6 then cooled else base
    { t with mgmt := { m with recovery := n != 1, step := n, staged } }
  else
    let t : State := { cooled with
      links := coldLinks r, hostUp := r.hostTrains
      mgmt := { m with images := [1, 2, 3].map (storedImage r staged), nextKey := imgPart (storedImage r staged 1) 0x80 1952 } }
    if (List.range 16).all (fun m => (t.link m).half == 3) then t.warmStart 5 else t
def execColdReset (r : BringUp) (s : State) : Out := .next (s.coldReset r)

end Sys2Proof.Machine
end

