-- ==== Sys2Proof/Machine/Dispatch.lean ====
section
/-! DEFINITION. The dispatcher: one arm per constructor of Instr, each a call of that instruction's meaning. -/

namespace Sys2Proof.Machine

/-- What an instruction, an engine command or an event of the device does. -/
def exec (i : Instr) (s : State) : Host.Outcome State Fault Refusal :=
  match i with
  | .add f d a b => Sys2Proof.Machine.execAdd f d a b s
  | .sub f d a b => Sys2Proof.Machine.execSub f d a b s
  | .mul f d a b => Sys2Proof.Machine.execMul f d a b s
  | .mulh f d a b => Sys2Proof.Machine.execMulh f d a b s
  | .mulhn f d a b => Sys2Proof.Machine.execMulhn f d a b s
  | .div f d a b => Sys2Proof.Machine.execDiv f d a b s
  | .divn f d a b => Sys2Proof.Machine.execDivn f d a b s
  | .rem f d a b => Sys2Proof.Machine.execRem f d a b s
  | .remn f d a b => Sys2Proof.Machine.execRemn f d a b s
  | .and_ f d a b => Sys2Proof.Machine.execAnd f d a b s
  | .or_ f d a b => Sys2Proof.Machine.execOr f d a b s
  | .xor_ f d a b => Sys2Proof.Machine.execXor f d a b s
  | .andn f d a b => Sys2Proof.Machine.execAndn f d a b s
  | .shl f d a b => Sys2Proof.Machine.execShl f d a b s
  | .shr f d a b => Sys2Proof.Machine.execShr f d a b s
  | .sra f d a b => Sys2Proof.Machine.execSra f d a b s
  | .rotr f d a b => Sys2Proof.Machine.execRotr f d a b s
  | .min_ f d a b => Sys2Proof.Machine.execMin f d a b s
  | .max_ f d a b => Sys2Proof.Machine.execMax f d a b s
  | .minn f d a b => Sys2Proof.Machine.execMinn f d a b s
  | .maxn f d a b => Sys2Proof.Machine.execMaxn f d a b s
  | .addI f imm d a => Sys2Proof.Machine.execAddI f imm d a s
  | .andI f imm d a => Sys2Proof.Machine.execAndI f imm d a s
  | .orI f imm d a => Sys2Proof.Machine.execOrI f imm d a s
  | .xorI f imm d a => Sys2Proof.Machine.execXorI f imm d a s
  | .shlI f n d a => Sys2Proof.Machine.execShlI f n d a s
  | .shrI f n d a => Sys2Proof.Machine.execShrI f n d a s
  | .sraI f n d a => Sys2Proof.Machine.execSraI f n d a s
  | .rotrI f n d a => Sys2Proof.Machine.execRotrI f n d a s
  | .clz f d a => Sys2Proof.Machine.execClz f d a s
  | .ctz f d a => Sys2Proof.Machine.execCtz f d a s
  | .popc f d a => Sys2Proof.Machine.execPopc f d a s
  | .sext f d a b => Sys2Proof.Machine.execSext f d a b s
  | .zext f d a b => Sys2Proof.Machine.execZext f d a b s
  | .mov f d a => Sys2Proof.Machine.execMov f d a s
  | .cmp f cc d a b => Sys2Proof.Machine.execCmp f cc d a b s
  | .sel f n k d a b => Sys2Proof.Machine.execSel f n k d a b s
  | .li f h d => Sys2Proof.Machine.execLi f h d s
  | .fadd f p d a b => Sys2Proof.Machine.execFadd f p d a b s
  | .fsub f p d a b => Sys2Proof.Machine.execFsub f p d a b s
  | .fmul f p d a b => Sys2Proof.Machine.execFmul f p d a b s
  | .fdiv f p d a b => Sys2Proof.Machine.execFdiv f p d a b s
  | .fmin f p d a b => Sys2Proof.Machine.execFmin f p d a b s
  | .fmax f p d a b => Sys2Proof.Machine.execFmax f p d a b s
  | .fcmp f p cc d a b => Sys2Proof.Machine.execFcmp f p cc d a b s
  | .fcvt f dt st d a => Sys2Proof.Machine.execFcvt f dt st d a s
  | .fclass f p d a => Sys2Proof.Machine.execFclass f p d a s
  | .br f off n k => Sys2Proof.Machine.execBr f off n k s
  | .brz f off a => Sys2Proof.Machine.execBrz f off a s
  | .bnz f off a => Sys2Proof.Machine.execBnz f off a s
  | .jmp f off => Sys2Proof.Machine.execJmp f off s
  | .call f off => Sys2Proof.Machine.execCall f off s
  | .jr f d a => Sys2Proof.Machine.execJr f d a s
  | .ret f => Sys2Proof.Machine.execRet f s
  | .loopn cnt len a => Sys2Proof.Machine.execLoopn cnt len a s
  | .endlp => Sys2Proof.Machine.execEndlp s
  | .brkl n k => Sys2Proof.Machine.execBrkl n k s
  | .ld f imm sz d a => Sys2Proof.Machine.execLd f imm sz d a s
  | .st f imm sz d a => Sys2Proof.Machine.execSt f imm sz d a s
  | .lds f imm sz d a => Sys2Proof.Machine.execLds f imm sz d a s
  | .sts f imm sz d a => Sys2Proof.Machine.execSts f imm sz d a s
  | .amoAdd f w d a b => Sys2Proof.Machine.execAmoAdd f w d a b s
  | .amoAnd f w d a b => Sys2Proof.Machine.execAmoAnd f w d a b s
  | .amoOr f w d a b => Sys2Proof.Machine.execAmoOr f w d a b s
  | .amoXor f w d a b => Sys2Proof.Machine.execAmoXor f w d a b s
  | .amoMin f w d a b => Sys2Proof.Machine.execAmoMin f w d a b s
  | .amoMax f w d a b => Sys2Proof.Machine.execAmoMax f w d a b s
  | .amoMinn f w d a b => Sys2Proof.Machine.execAmoMinn f w d a b s
  | .amoMaxn f w d a b => Sys2Proof.Machine.execAmoMaxn f w d a b s
  | .amoSwap f w d a b => Sys2Proof.Machine.execAmoSwap f w d a b s
  | .cas f w d a b => Sys2Proof.Machine.execCas f w d a b s
  | .fenceCt f sc => Sys2Proof.Machine.execFenceCt f sc s
  | .fenceTc f sc => Sys2Proof.Machine.execFenceTc f sc s
  | .fenceTt f sc => Sys2Proof.Machine.execFenceTt f sc s
  | .fenceAll f sc => Sys2Proof.Machine.execFenceAll f sc s
  | .tdrain f => Sys2Proof.Machine.execTdrain f s
  | .bar f sc a => Sys2Proof.Machine.execBar f sc a s
  | .waitaEq f d a b => Sys2Proof.Machine.execWaitaEq f d a b s
  | .waitaNe f d a b => Sys2Proof.Machine.execWaitaNe f d a b s
  | .waitaGen f d a b => Sys2Proof.Machine.execWaitaGen f d a b s
  | .slpt f a => Sys2Proof.Machine.execSlpt f a s
  | .rdtime f d => Sys2Proof.Machine.execRdtime f d s
  | .yield_ f => Sys2Proof.Machine.execYield f s
  | .exit f => Sys2Proof.Machine.execExit f s
  | .nop f => Sys2Proof.Machine.execNop f s
  | .rdsr f b d => Sys2Proof.Machine.execRdsr f b d s
  | .wrsr f b a => Sys2Proof.Machine.execWrsr f b a s
  | .eret f => Sys2Proof.Machine.execEret f s
  | .trap f imm => Sys2Proof.Machine.execTrap f imm s
  | .bbx f imm => Sys2Proof.Machine.execBbx f imm s
  | .qcfg f b a => Sys2Proof.Machine.execQcfg f b a s
  | .qtry f b d => Sys2Proof.Machine.execQtry f b d s
  | .launch f d a b => Sys2Proof.Machine.execLaunch f d a b s
  | .heatq f d a b => Sys2Proof.Machine.execHeatq f d a b s
  | .tshape f d a b => Sys2Proof.Machine.execTshape f d a b s
  | .tbind f d a => Sys2Proof.Machine.execTbind f d a s
  | .tbound f p d a => Sys2Proof.Machine.execTbound f p d a s
  | .tmon f d a => Sys2Proof.Machine.execTmon f d a s
  | .tverd f d a b => Sys2Proof.Machine.execTverd f d a b s
  | .tfree f d => Sys2Proof.Machine.execTfree f d s
  | .trdsh f d a b => Sys2Proof.Machine.execTrdsh f d a b s
  | .tld f imm op d a => Sys2Proof.Machine.execTld f imm op d a s
  | .tst f imm op d a => Sys2Proof.Machine.execTst f imm op d a s
  | .tstr f imm op d a => Sys2Proof.Machine.execTstr f imm op d a s
  | .tldg f d a b => Sys2Proof.Machine.execTldg f d a b s
  | .tstg f d a b => Sys2Proof.Machine.execTstg f d a b s
  | .tcopy f d a => Sys2Proof.Machine.execTcopy f d a s
  | .tfill f d a => Sys2Proof.Machine.execTfill f d a s
  | .tiota f d a b => Sys2Proof.Machine.execTiota f d a b s
  | .ttrans f d a => Sys2Proof.Machine.execTtrans f d a s
  | .tcvt f d a => Sys2Proof.Machine.execTcvt f d a s
  | .tbfly f ch h d a => Sys2Proof.Machine.execTbfly f ch h d a s
  | .tcmpr f d a b => Sys2Proof.Machine.execTcmpr f d a b s
  | .texpd f d a b => Sys2Proof.Machine.execTexpd f d a b s
  | .tbcast f r d a => Sys2Proof.Machine.execTbcast f r d a s
  | .tsend f d a => Sys2Proof.Machine.execTsend f d a s
  | .trecv f d a => Sys2Proof.Machine.execTrecv f d a s
  | .tldl f b a => Sys2Proof.Machine.execTldl f b a s
  | .tstl f b d => Sys2Proof.Machine.execTstl f b d s
  | .tadd f d a b => Sys2Proof.Machine.execTadd f d a b s
  | .tsub f d a b => Sys2Proof.Machine.execTsub f d a b s
  | .tmul f d a b => Sys2Proof.Machine.execTmul f d a b s
  | .tdiv f d a b => Sys2Proof.Machine.execTdiv f d a b s
  | .tmin f d a b => Sys2Proof.Machine.execTmin f d a b s
  | .tmax f d a b => Sys2Proof.Machine.execTmax f d a b s
  | .tscale f d a b => Sys2Proof.Machine.execTscale f d a b s
  | .tfma f d a b => Sys2Proof.Machine.execTfma f d a b s
  | .tclamp f d a b => Sys2Proof.Machine.execTclamp f d a b s
  | .tsel f d a b => Sys2Proof.Machine.execTsel f d a b s
  | .tsqrt f d a => Sys2Proof.Machine.execTsqrt f d a s
  | .trsq f d a => Sys2Proof.Machine.execTrsq f d a s
  | .trcp f d a => Sys2Proof.Machine.execTrcp f d a s
  | .texp2 f d a => Sys2Proof.Machine.execTexp2 f d a s
  | .tlog2 f d a => Sys2Proof.Machine.execTlog2 f d a s
  | .tabs f d a => Sys2Proof.Machine.execTabs f d a s
  | .tneg f d a => Sys2Proof.Machine.execTneg f d a s
  | .tcmp f cc d a b => Sys2Proof.Machine.execTcmp f cc d a b s
  | .tand f d a b => Sys2Proof.Machine.execTand f d a b s
  | .tor f d a b => Sys2Proof.Machine.execTor f d a b s
  | .txor f d a b => Sys2Proof.Machine.execTxor f d a b s
  | .tnot f d a => Sys2Proof.Machine.execTnot f d a s
  | .tshl f d a b => Sys2Proof.Machine.execTshl f d a b s
  | .tshr f d a b => Sys2Proof.Machine.execTshr f d a b s
  | .tsra f d a b => Sys2Proof.Machine.execTsra f d a b s
  | .tclz f d a => Sys2Proof.Machine.execTclz f d a s
  | .tctz f d a => Sys2Proof.Machine.execTctz f d a s
  | .tpopc f d a => Sys2Proof.Machine.execTpopc f d a s
  | .tred f r o d a b => Sys2Proof.Machine.execTred f r o d a b s
  | .tscan f r o d a => Sys2Proof.Machine.execTscan f r o d a s
  | .targmx f r d a => Sys2Proof.Machine.execTargmx f r d a s
  | .tchkf f d a => Sys2Proof.Machine.execTchkf f d a s
  | .tany f d a => Sys2Proof.Machine.execTany f d a s
  | .tall f d a => Sys2Proof.Machine.execTall f d a s
  | .matt f d a => Sys2Proof.Machine.execMatt f d a s
  | .mattW f d a => Sys2Proof.Machine.execMattW f d a s
  | .mdet f => Sys2Proof.Machine.execMdet f s
  | .mma f d a b => Sys2Proof.Machine.execMma f d a b s
  | .mmas f d a b => Sys2Proof.Machine.execMmas f d a b s
  | .mmav f d a b => Sys2Proof.Machine.execMmav f d a b s
  | .azero f d => Sys2Proof.Machine.execAzero f d s
  | .ttopk f d a b => Sys2Proof.Machine.execTtopk f d a b s
  | .thrup f d a => Sys2Proof.Machine.execThrup f d a s
  | .tmap f d a b => Sys2Proof.Machine.execTmap f d a b s
  | .tmapr f d a b => Sys2Proof.Machine.execTmapr f d a b s
  | .tcred f d a b => Sys2Proof.Machine.execTcred f d a b s
  | .tcbc f d a b => Sys2Proof.Machine.execTcbc f d a b s
  | .tcag f d a b => Sys2Proof.Machine.execTcag f d a b s
  | .monset f b a => Sys2Proof.Machine.execMonset f b a s
  | .monref f b a => Sys2Proof.Machine.execMonref f b a s
  | .monrd f d a b => Sys2Proof.Machine.execMonrd f d a b s
  | .monclr f a => Sys2Proof.Machine.execMonclr f a s
  | .ladd c b a d => Sys2Proof.Machine.execLadd c b a d s
  | .lsub c b a d => Sys2Proof.Machine.execLsub c b a d s
  | .lmul c b a d => Sys2Proof.Machine.execLmul c b a d s
  | .lfma c b a d => Sys2Proof.Machine.execLfma c b a d s
  | .ldiv c b a d => Sys2Proof.Machine.execLdiv c b a d s
  | .land c b a d => Sys2Proof.Machine.execLand c b a d s
  | .lor c b a d => Sys2Proof.Machine.execLor c b a d s
  | .lxor c b a d => Sys2Proof.Machine.execLxor c b a d s
  | .lshl c b a d => Sys2Proof.Machine.execLshl c b a d s
  | .lshr c b a d => Sys2Proof.Machine.execLshr c b a d s
  | .lsra c b a d => Sys2Proof.Machine.execLsra c b a d s
  | .lcmp c b a d => Sys2Proof.Machine.execLcmp c b a d s
  | .lsel c b a d => Sys2Proof.Machine.execLsel c b a d s
  | .lmin c b a d => Sys2Proof.Machine.execLmin c b a d s
  | .lmax c b a d => Sys2Proof.Machine.execLmax c b a d s
  | .lcvt c b a d => Sys2Proof.Machine.execLcvt c b a d s
  | .lclz c a d => Sys2Proof.Machine.execLclz c a d s
  | .lpopc c a d => Sys2Proof.Machine.execLpopc c a d s
  | .lexp2 c a d => Sys2Proof.Machine.execLexp2 c a d s
  | .llog2 c a d => Sys2Proof.Machine.execLlog2 c a d s
  | .lrsq c a d => Sys2Proof.Machine.execLrsq c a d s
  | .lli ii h d => Sys2Proof.Machine.execLli ii h d s
  | .lmov c a d => Sys2Proof.Machine.execLmov c a d s
  | .lld ii a d => Sys2Proof.Machine.execLld ii a d s
  | .lst ii a d => Sys2Proof.Machine.execLst ii a d s
  | .lldt c b a d => Sys2Proof.Machine.execLldt c b a d s
  | .lstt c b a d => Sys2Proof.Machine.execLstt c b a d s
  | .lbr off a => Sys2Proof.Machine.execLbr off a s
  | .lj off => Sys2Proof.Machine.execLj off s
  | .lcall off => Sys2Proof.Machine.execLcall off s
  | .lret => Sys2Proof.Machine.execLret s
  | .lend => Sys2Proof.Machine.execLend s
  | .cpy6 blk ii => Sys2Proof.Machine.execCpy6 blk ii s
  | .gth blk ii => Sys2Proof.Machine.execGth blk ii s
  | .col blk ii => Sys2Proof.Machine.execCol blk ii s
  | .fq blk => Sys2Proof.Machine.execFq blk s
  | .engineCommandStart blk e => Sys2Proof.Machine.execEngineCommandStart blk e s
  | .engineCommandComplete blk ii => Sys2Proof.Machine.execEngineCommandComplete blk ii s
  | .completionElementDeliver blk e => Sys2Proof.Machine.execCompletionElementDeliver blk e s
  | .farmAnswer blk => Sys2Proof.Machine.execFarmAnswer blk s
  | .portWake blk => Sys2Proof.Machine.execPortWake blk s
  | .channelPortWake blk => Sys2Proof.Machine.execChannelPortWake blk s
  | .waitaWake blk => Sys2Proof.Machine.execWaitaWake blk s
  | .slptWake blk => Sys2Proof.Machine.execSlptWake blk s
  | .barrierRelease l sc => Sys2Proof.Machine.execBarrierRelease l sc s
  | .detHoldRelease blk => Sys2Proof.Machine.execDetHoldRelease blk s
  | .deferredOpApply ii => Sys2Proof.Machine.execDeferredOpApply ii s
  | .mattGrant blk => Sys2Proof.Machine.execMattGrant blk s
  | .cleatPlaceGrant blk => Sys2Proof.Machine.execCleatPlaceGrant blk s
  | .unitCommit blk ii => Sys2Proof.Machine.execUnitCommit blk ii s
  | .planeBoundary blk => Sys2Proof.Machine.execPlaneBoundary blk s
  | .elementProgressExpiry blk => Sys2Proof.Machine.execElementProgressExpiry blk s
  | .slotPromotion core slot => Sys2Proof.Machine.execSlotPromotion core slot s
  | .trapEntry blk => Sys2Proof.Machine.execTrapEntry blk s
  | .drainComplete blk => Sys2Proof.Machine.execDrainComplete blk s
  | .debugStop blk => Sys2Proof.Machine.execDebugStop blk s
  | .frozenRelease blk => Sys2Proof.Machine.execFrozenRelease blk s
  | .recordFetch ctx q => Sys2Proof.Machine.execRecordFetch ctx q s
  | .launchStart l => Sys2Proof.Machine.execLaunchStart l s
  | .launchComplete l => Sys2Proof.Machine.execLaunchComplete l s
  | .blockPlace die => Sys2Proof.Machine.execBlockPlace die s
  | .clusterReservation blk => Sys2Proof.Machine.execClusterReservation blk s
  | .saveComplete blk => Sys2Proof.Machine.execSaveComplete blk s
  | .restoreComplete blk => Sys2Proof.Machine.execRestoreComplete blk s
  | .lqOpen ctx q => Sys2Proof.Machine.execLqOpen ctx q s
  | .lqClose ctx q => Sys2Proof.Machine.execLqClose ctx q s
  | .lqDestroy ctx q => Sys2Proof.Machine.execLqDestroy ctx q s
  | .lqResume ctx q => Sys2Proof.Machine.execLqResume ctx q s
  | .lqwidxWrite ctx q v => Sys2Proof.Machine.execLqwidxWrite ctx q v s
  | .ctxEnable ctx v => Sys2Proof.Machine.execCtxEnable ctx v s
  | .contextReset ctx => Sys2Proof.Machine.execContextReset ctx s
  | .translationInvalidate ctx v => Sys2Proof.Machine.execTranslationInvalidate ctx v s
  | .invalidationDone ctx => Sys2Proof.Machine.execInvalidationDone ctx s
  | .codeFlush ctx => Sys2Proof.Machine.execCodeFlush ctx s
  | .codeFlushDone ctx => Sys2Proof.Machine.execCodeFlushDone ctx s
  | .registerWrite off v => Sys2Proof.Machine.execRegisterWrite off v s
  | .hostMemoryRead off n => Sys2Proof.Machine.execHostMemoryRead off n s
  | .hostMemoryWrite off bs ep => Sys2Proof.Machine.execHostMemoryWrite off bs ep s
  | .hostAtomicop off op w x y => Sys2Proof.Machine.execHostAtomicop off op w x y s
  | .flitReceive link dir ok lanes => Sys2Proof.Machine.execFlitReceive link dir ok lanes s
  | .nakReceive link dir => Sys2Proof.Machine.execNakReceive link dir s
  | .retrainComplete link => Sys2Proof.Machine.execRetrainComplete link s
  | .linkRewiden link pass => Sys2Proof.Machine.execLinkRewiden link pass s
  | .linkCounterClear link => Sys2Proof.Machine.execLinkCounterClear link s
  | .correctedError => Sys2Proof.Machine.execCorrectedError s
  | .uncorrectableError w => Sys2Proof.Machine.execUncorrectableError w s
  | .errctlClr => Sys2Proof.Machine.execErrctlClr s
  | .rstctlWarm => Sys2Proof.Machine.execRstctlWarm s
  | .warmResetComplete => Sys2Proof.Machine.execWarmResetComplete s
  | .coldReset r => Sys2Proof.Machine.execColdReset r s
  | .powerLimit w amps => Sys2Proof.Machine.execPowerLimit w amps s
  | .zfatWrite z v => Sys2Proof.Machine.execZfatWrite z v s
  | .csupplyWrite v => Sys2Proof.Machine.execCsupplyWrite v s
  | .zvalveWrite z v => Sys2Proof.Machine.execZvalveWrite z v s
  | .overtemp z outlet => Sys2Proof.Machine.execOvertemp z outlet s
  | .holdRelease z outlet flow => Sys2Proof.Machine.execHoldRelease z outlet flow s
  | .flowlow z flow ms => Sys2Proof.Machine.execFlowlow z flow ms s
  | .dry z => Sys2Proof.Machine.execDry z s
  | .leak z => Sys2Proof.Machine.execLeak z s
  | .zoneLaneGate z => Sys2Proof.Machine.execZoneLaneGate z s
  | .zoneEmpty z => Sys2Proof.Machine.execZoneEmpty z s
  | .zoneEvacDeadline z => Sys2Proof.Machine.execZoneEvacDeadline z s
  | .zonePurgeComplete z => Sys2Proof.Machine.execZonePurgeComplete z s
  | .zoneReprimeComplete z flow dryDet leakDet => Sys2Proof.Machine.execZoneReprimeComplete z flow dryDet leakDet s
  | .tsctlWrite n v => Sys2Proof.Machine.execTsctlWrite n v s
  | .traceFlush n => Sys2Proof.Machine.execTraceFlush n s
  | .traceFlushDone n => Sys2Proof.Machine.execTraceFlushDone n s
  | .dbgstop => Sys2Proof.Machine.execDbgstop s
  | .dbgrel => Sys2Proof.Machine.execDbgrel s
  | .worldRegisterWrite off v => Sys2Proof.Machine.execWorldRegisterWrite off v s
  | .qtbOffsetMeasure src off => Sys2Proof.Machine.execQtbOffsetMeasure src off s
  | .regrd off => Sys2Proof.Machine.execRegrd off s
  | .regwr off v => Sys2Proof.Machine.execRegwr off v s
  | .warmrst => Sys2Proof.Machine.execWarmrst s
  | .ckpt live dst len => Sys2Proof.Machine.execCkpt live dst len s
  | .checkpointComplete => Sys2Proof.Machine.execCheckpointComplete s
  | .ckstat => Sys2Proof.Machine.execCkstat s
  | .qstep ns => Sys2Proof.Machine.execQstep ns s
  | .slewmax ppm => Sys2Proof.Machine.execSlewmax ppm s
  | .devid n => Sys2Proof.Machine.execDevid n s
  | .route dev links => Sys2Proof.Machine.execRoute dev links s
  | .fwupd img => Sys2Proof.Machine.execFwupd img s
  | .spdmRequest r => Sys2Proof.Machine.execSpdmRequest r s
  | .unallocatedEncoding detail => Sys2Proof.Machine.execUnallocatedEncoding detail s
  | .accessPerformed blk ii sc => Sys2Proof.Machine.execAccessPerformed blk ii sc s
  | .l1Eviction core sector => Sys2Proof.Machine.execL1Eviction core sector s
  | .l2Eviction line => Sys2Proof.Machine.execL2Eviction line s
  | .contextResetDone ctx => Sys2Proof.Machine.execContextResetDone ctx s
  | .hostPortLinkChange up => Sys2Proof.Machine.execHostPortLinkChange up s

end Sys2Proof.Machine
end

