-- ==== Sys2Proof/Machine/Sched.lean ====
section
/-! DEFINITION. Turns: what one step of the device is. The agenda names what happens next where the spec leaves the order or the outside world
open; with an empty agenda the device does the first thing it can (log 1). -/

namespace Sys2Proof.Machine

/-- Why a Ready block is to be saved rather than issue: its zone is marked, or a quiesced checkpoint runs; so a block whose drain trapped is saved
as well (R354, R387). -/
def State.mustLeave (s : State) (blk : Nat) : Option Nat :=
  let b := s.blk blk
  if !b.saveable then none
  else if (s.zone (zoneOf b.core)).state = 1 then some cEVAC
  else if s.ckpt.any (fun k => k.running && !k.live) then some cPREEMPT else none

/-- Whether an instruction that did not stall is yet to issue: it awaits what it has noted, a port or the deterministic hold, and is tried again. An
atomic that another die or device is to answer has issued (log 24). -/
def Block.unissued (b : Block) (noted : Bool) : Bool :=
  match b.st with
  | .waiting (.port _) | .waiting (.chan _ _) | .waiting .det => true
  | _ => noted && !b.laneHeld

/-- What trying a block's next instruction came to. -/
inductive Tried where
  | stalls
  | noted (s : State)
  | issued (o : Out)

/-- An instruction one of whose walks found no slot has not issued: its block notes the walk it awaits (R314). -/
def State.walkNoted (s : State) (blk : Nat) (r : Tried) : Tried :=
  let note := fun (t : State) => match t.starved with
    | some va => some (s.modBlk blk (fun b => { b with walkWait := some va }))
    | none => none
  match r with
  | .noted t => .noted ((note t).getD t)
  | .issued (.next t) => match note t with
    | some s => .noted s
    | none => r
  | r => r

/-- Trying a block's next instruction: where it issues, a breakpoint on it triggers (R373). -/
def State.try_ (s : State) (blk : Nat) : Tried :=
  s.walkNoted blk <|
  match s.issueOf blk with
  | .held => .stalls
  | .done t => .issued (.next (t.issued blk))
  | .illegal d t => .issued (match execUnallocatedEncoding d t with
    | .next t => .next (t.issued blk)
    | o => o)
  | .run i t => match exec i t with
    | .next u =>
      let b := t.blk blk
      let v : State := { u with blocked := none }
      if u.blocked == some false then .stalls
      else if (v.blk blk).unissued u.blocked.isSome then .noted v
      else .issued (.next ((v.breakPc blk b.ctx b.pc.toNat b.ordinal).issued blk))
    | o => .issued o

/-- The same of a block under restore: its restore ends with the first instruction that issues, and only then (R355). -/
def State.attempt (s : State) (blk : Nat) : Tried :=
  match (s.begun blk).try_ blk with
  | .issued o => .issued o
  | r => if (s.blk blk).restoring then s.try_ blk else r

/-- The Ready slots of a core tried in order: the first instruction that does not stall issues (R291). The flag says whether anything has come
about. -/
def issueFirst (did : Bool) : List Nat → State → Bool × Out
  | [], s => (did, .next s)
  | blk :: rest, s =>
    match s.mustLeave blk with
    | some why => (true, .next (s.startSave blk why))
    | none => match s.attempt blk with
      | .stalls => issueFirst did rest s
      | .noted t => issueFirst true rest t
      | .issued o => (true, o)

/-- A core selects a slot and issues its next instruction. -/
def coreIssue (c : Nat) (s : State) : Bool × Out := if s.asleep then (false, .next s) else issueFirst false (s.order c) s
def coreTurn (c : Nat) (s : State) : Out := if 192 ≤ c then .fault .noSuchUnit else (coreIssue c s).2

/-- Whether a lane-function unit of a tile instruction goes on. -/
def State.laneReady (s : State) (blk id : Nat) : Bool :=
  let b := s.blk blk
  !s.asleep && b.working && !(s.zone (zoneOf b.core)).gated && b.trapP.all (fun t => id < t.age)
    && b.flights.any (fun f => f.id == id && !f.fin && (f.lane.map (fun x => x.els != [])) == some true)

/-- A lane group issues one lane-function instruction (R219). -/
def laneTurn (blk id : Nat) (s : State) : Out :=
  if !s.laneReady blk id then .next s
  else match (s.begun blk).issueLane blk id with
    | .held => .next s
    | .done s => .next s
    | .run i s => exec i s
    | .illegal d s => execUnallocatedEncoding d s

/-- Time passes; the QTB counts it with the slew in force, until the measured offset is removed (R368), and the element-progress timers that run
advance with it (R22); the clock of the cores counts its own periods (R378). -/
def State.tick (s : State) (ns : Nat) : State :=
  let d := s.qtbSlew * (ns : Int)
  let ends := s.qtbRem.natAbs ≤ d.natAbs
  let d := if ends then (if s.qtbSlew = 0 then 0 else s.qtbRem) else d
  let t := ((ns * 1000000 + s.qtbFrac : Nat) : Int) + d
  { s with
    clock := s.clock + ns * s.clkMHz, qtb := s.qtb + (t / 1000000).toNat, qtbFrac := (t % 1000000).toNat, qtbRem := s.qtbRem - d
    qtbSlew := if ends then 0 else s.qtbSlew
    blocks := s.blocks.map (fun (e : Nat × Block) => (e.1, if e.2.timerRuns then { e.2 with eptNs := e.2.eptNs + ns } else e.2)) }

/-- The rows of the opcode table that are events: they have no words. -/
def isEvent (i : Instr) : Bool := encode i == []

/-- A turn one of whose walks found no slot does not come about (R314): time and whatever else is left stand as they did; a block that waits on an
address notes the walk its re-read awaits. -/
def orWalk (t : Turn) (s : State) (o : Out) : Out :=
  match o with
  | .next u => match u.starved with
    | none => o
    | some va => .next (match t with
      | .ev (.waitaWake blk) => { s with starved := none }.modBlk blk (fun b => { b with walkWait := some va })
      | _ => { s with starved := none })
  | o => o

/-- One turn. -/
def runTurn (t : Turn) (s : State) : Out :=
  match t with
  | .core c => coreTurn c s
  | .lane blk id => laneTurn blk id s
  | .ev i => if isEvent i then exec i s else .next s
  | .tick ns => .next (s.tick ns)
  | .wire n dev m => .next (if isHawser n && m.isFar then (s.sendFlit n true dev m).getD s else s)
  | .dropTlb n => .next { s with tlbs := s.tlbs.eraseIdx n }
  | .dropCode n => .next { s with icache := s.icache.eraseIdx n }
  | .hostMem pa bs => .next (if pa + bs.length ≤ 2 ^ 51 then s.homeWrite (hostBase + pa) bs else s)
  | .sensors z flow outlet inlet press dry leak => .next (s.sensed z flow outlet inlet press dry leak)
  | .refusal page on => .next { s with refuses := setNum s.refuses page on }
  | .copy n => .next (if s.asleep then s else (s.ckptCopy n).getD s)
  | .drain line => .next (if s.asleep then s else s.drainLine line)
  | .walks die n => .next { s with walks := if die = 0 then (min n 256, s.walks.2) else (s.walks.1, min n 256) }
  | .barRead off n => .next (s.barRead off n)
  | .barWrite off bs => .next (s.barWrite off bs)
  | .raiseSvn cls svn sig => .next (s.raiseSvn cls svn sig)

/-! With an empty agenda. -/

/-- The first that applies of n numbered things. -/
def firstOf (n : Nat) (f : Nat → Option State) : Option State := (List.range n).findSome? f

/-- The first pending access of a block that moves toward its last scope. -/
def State.autoAccess (s : State) (blk : Nat) : Option State :=
  firstOf (s.blk blk).pend.length (fun i =>
    match s.accessPerformed blk i 11 with
    | some s' => if (s'.blk blk).pend == (s.blk blk).pend then none else some s'
    | none => none)

/-- The first thing that can happen to a block, but for lane-function instructions. -/
def State.autoBlock (s : State) (blk : Nat) : Option State :=
  let b := s.blk blk
  (s.trapEntry blk).orElse (fun _ => s.autoAccess blk)
    |>.orElse (fun _ => firstOf b.flights.length (s.unitCommit blk))
    |>.orElse (fun _ => s.mattGrant blk)
    |>.orElse (fun _ => s.cleatPlaceGrant blk)
    |>.orElse (fun _ => firstOf b.cmds.length (s.cpy6 blk))
    |>.orElse (fun _ => firstOf b.cmds.length (s.gth blk))
    |>.orElse (fun _ => firstOf b.cmds.length (s.col blk))
    |>.orElse (fun _ => firstOf b.cmds.length (s.commandComplete blk))
    |>.orElse (fun _ => firstOf 3 (s.elementDeliver blk))
    |>.orElse (fun _ => firstOf 3 (s.commandStart blk))
    |>.orElse (fun _ => s.farmQuery blk)
    |>.orElse (fun _ => s.farmAnswer blk)
    |>.orElse (fun _ => s.portWake blk)
    |>.orElse (fun _ => s.channelPortWake blk)
    |>.orElse (fun _ => s.waitaWake blk)
    |>.orElse (fun _ => s.slptWake blk)
    |>.orElse (fun _ => s.detHoldRelease blk)
    |>.orElse (fun _ => s.expire blk)
    |>.orElse (fun _ => s.drainComplete blk)
    |>.orElse (fun _ => s.saveComplete blk)
    |>.orElse (fun _ => s.restoreComplete blk)
    |>.orElse (fun _ => s.debugStop blk)

/-- The first thing a launch, a queue, a link, a zone or the dispatchers can do. -/
def State.autoDevice (s : State) : Option State :=
  let ls := s.launches.map (fun e => e.1)
  let qs := (List.range 64).filter (fun c => (s.ctx c).en)
  (firstOf s.deferred.length s.deferredOpApply)
    |>.orElse (fun _ => ls.findSome? (fun l => [8, 7, 6, 5].findSome? (fun sc => s.barrierRelease l (BitVec.ofNat 4 sc))))
    |>.orElse (fun _ => firstOf 28 (fun n => (s.flitReceive n false true 0).or (s.flitReceive n true true 0)))
    |>.orElse (fun _ => firstOf 28 (fun n => (s.nakReceive n false).or ((s.nakReceive n true).or (s.retrained n))))
    |>.orElse (fun _ => ls.findSome? s.launchComplete)
    |>.orElse (fun _ => ls.findSome? s.launchStart)
    |>.orElse (fun _ => firstOf 2 s.blockPlace)
    |>.orElse (fun _ => qs.findSome? (fun c => firstOf 16 (s.recordFetch c)))
    |>.orElse (fun _ => (s.candidates.map Cand.name).findSome? s.reserveCluster)
    |>.orElse (fun _ => firstOf 64 (fun c => (s.invalidationDone c).or ((s.codeFlushDone c).or (s.contextResetDone c))))
    |>.orElse (fun _ => firstOf 32 (fun n => if (s.slotOf n).done then none else some (s.modSlot n (fun t => { t with done := true }))))
    |>.orElse (fun _ => s.blocks.findSome? (fun e => if e.2.onCore then s.slotPromotion e.2.core e.2.slot else none))
    |>.orElse (fun _ => firstOf 24 (fun z => (s.gateZone z).or ((s.zoneEmpty z).or (s.evacDeadline z))))
    |>.orElse (fun _ => s.wq.head?.map s.drainLine)
    |>.orElse (fun _ => s.ckptDone)

/-- What goes on by itself through a warm reset: the zones' sequence, and the reset's own end. -/
def State.autoAlways (s : State) : Option State :=
  (if s.resetting then some s.warmEnd else none).orElse (fun _ => firstOf 24 s.purgeDone)

/-- A lane-function unit that can go on: its block and instruction. -/
def State.autoLane (s : State) : Option (Nat × Nat) :=
  s.blocks.findSome? (fun e => (e.2.flights.find? (fun f => s.laneReady e.1 f.id)).map (fun f => (e.1, f.id)))

/-- What the cores do: the first that has something to issue, those whose first slot issued longest ago before the others. -/
def State.autoCores (s : State) : Option Out :=
  let cs := (s.blocks.map (fun e => e.2.core)).eraseDups.filterMap (fun c => (s.order c).head?.map (fun b => (c, (s.blk b).lastIssue)))
  (sortBy (fun (a b : Nat × Nat) => a.2 < b.2) cs).findSome? (fun e => match coreIssue e.1 s with
    | (true, o) => some o
    | (false, _) => none)

/-- The device left to itself: the first thing that applies, else an instruction of a core with a nanosecond, else a nanosecond. Walks under way
end first. -/
def autoTurn (s : State) : Out :=
  if s.walks != (0, 0) then .next s.unslotted
  else
  let events := if s.asleep then s.autoAlways
    else (s.blocks.findSome? (fun e => s.autoBlock e.1)).orElse (fun _ => s.autoDevice) |>.orElse (fun _ => s.autoAlways)
  match events with
  | some s => .next s
  | none =>
    if s.asleep then .next (s.tick 1)
    else match s.autoLane with
      | some (blk, id) => laneTurn blk id s
      | none => (s.tick 1).autoCores.getD (.next (s.tick 1))

/-! Placing one instruction to be fetched. -/

/-- Where the tables and the code of a placed instruction lie, as offsets of device memory and, for the code, as its virtual address. -/
def placeRoot : Nat := 0x10000
def placeTable : Nat := 0x20000
def placeCode : Nat := 0x40000

/-- The kernel of a placed instruction: every register and engine, a store of each kind, and a handler beside the code. -/
def placeHdr : Header :=
  { farm := 0, monn := 0, roles := 0x1F, lane := 64, acc := 4096, shared := 4096, ept := 1000, handler := some 0x40100 }

/-- The launch of a placed instruction: one block. -/
def placeLaunch : Launch :=
  { kind := 0, x := 1, y := 1, z := 1, entry := BitVec.ofNat 56 placeCode, hdr := placeHdr, st := .started, made := 1 }

/-- The block of a placed instruction: Ready on core 0, next to issue. -/
def placeBlock (slot : Nat) : Block := { newBlock placeLaunch 0 0 with core := 0, slot, promoted := true }

/-- The state with an instruction in memory at the placed block's pc, mapped for context 0, and core 0 to issue next: its bytes, first word
first, with zeros up to the longest instruction. -/
def State.placeBytes (s : State) (bs : List Byte) : State :=
  let base := s.devid.toNat * 2 ^ 45
  let others := (Tab.del s.blocks 0).map (fun (e : Nat × Block) => (e.1, if e.2.core = 0 then { e.2 with promoted := false } else e.2))
  let s : State := { s with blocks := others }
  let put := fun (m : Mem) (a : Nat) (bs : List Byte) => m.write a bs
  let mem := put (put (put s.mem placeRoot (leBytes 8 (base + placeTable + 1))) placeTable (leBytes 8 (base + 0x23F))) placeCode bs
  let s : State := { s with
    agenda := [.core 0], mem, resetting := false, mgmt := { s.mgmt with step := 0 }, ckpt := s.ckpt.filter (fun k => k.live)
    poison := [placeRoot, placeTable, placeCode].foldl (fun (l : List Nat) a => delNum l (a / 64)) s.poison
    tlbs := s.tlbs.filter (fun t => t.ctx != 0), icache := s.icache.filter (fun e => e.ctx != 0), wrgn := Vector.replicate 16 (0, 0)
    launches := Tab.put s.launches 0 placeLaunch, blocks := Tab.put s.blocks 0 (placeBlock (s.freeSlot 0)) }
  (s.modCtx 0 (fun x => { x with ptb := base + placeRoot })).modZone 0 (fun z => { z with state := if z.state = 1 then 0 else z.state })

end Sys2Proof.Machine
end

