-- ==== Sys2Proof/Machine/Step.lean ====
section
/-! DEFINITION. One step of the device, and placing an instruction where the next step fetches it (log 1). -/

namespace Sys2Proof.Machine

/-- One step: the next turn of the agenda, or what the device does by itself. -/
def step (s : State) : Host.Outcome State Fault Refusal :=
  match s.agenda with
  | [] => autoTurn s
  | t :: rest => orWalk t { s with agenda := rest } (runTurn t { s with agenda := rest })

/-- The state with an instruction, its bits numbered as the opcode table numbers them, placed where the next step fetches. -/
def State.withFetchWord (s : State) (_nbits w : Nat) : State := s.placeBytes (leBytes 12 w)

end Sys2Proof.Machine
end

