-- ==== Sys2Proof/Safety.lean ====
section
/-! DEFINITION. The terms claims are stated in: sound states, an instruction that goes ahead, registers that can be read. -/

namespace Sys2Proof.Machine

/-- Memory keeps its canonical form (log 3). -/
def State.MemOk (s : State) : Prop := s.mem.wf = true

/-- A step that neither faults nor refuses. -/
def Steps (s s' : State) : Prop := step s = .next s'

/-- An instruction in this form takes effect (R81): it is not predicated by a condition register, or that register is settled and
k[PSEL] XOR PNEG is 1. -/
def State.Goes (s : State) (f : Form) : Prop :=
  f.mods.pmode = 1 → s.me.busyK f.mods.psel.toNat = false ∧ s.me.cond f.mods.psel.toNat ≠ f.mods.pneg

/-- An instruction in this form is predicated off (R81). -/
def State.Skips (s : State) (f : Form) : Prop :=
  f.mods.pmode = 1 ∧ s.me.busyK f.mods.psel.toNat = false ∧ s.me.cond f.mods.psel.toNat = f.mods.pneg

/-- A stored scalar register, not a queue port, that no instruction or access still owes a value (R24, R26). -/
def State.Ready (s : State) (r : R6) : Prop := isPort r = false ∧ s.me.busy r = false

/-- The block with its pc past an instruction in this form. -/
def Block.past (b : Block) (f : Form) : Block := { b with pc := b.pc + BitVec.ofNat 56 f.bytes }

end Sys2Proof.Machine
end

