-- ==== Sys2Proof/Certificates/Slice0/Obligations.lean ====
section
/-! DEFINITION. The statements for the provers, and the words they are stated in. A rule table gives, per instruction, what the spec says it
computes; a statement says that executing the instruction does that and nothing else. -/

open Sys2Proof Sys2Proof.Machine

namespace Sys2Proof.Claims

/-! ## Scalar results -/

/-- What an instruction with a scalar result does: its form, its destination, the scalar registers it reads in order, the condition registers
it reads, and its result from the values read. -/
structure ScalarRule where
  form : Form
  dst : R6
  srcs : List R6
  conds : List Nat := []
  value : List Dword → Dword

/-- An exact result reduced modulo 2^64, or clamped to the range of i64 with .sat (R110). -/
def fit (sat : Bool) (x : Int) : Dword := BitVec.ofInt 64 (if sat then max (-2 ^ 63) (min (2 ^ 63 - 1) x) else x)

/-- A rule of two sources, and one of a single source. -/
def two (f : Form) (d a b : R6) (g : Dword → Dword → Dword) : Option ScalarRule :=
  some { form := f, dst := d, srcs := [a, b], value := fun vs => g (vs.getD 0 0) (vs.getD 1 0) }
def one (f : Form) (d a : R6) (g : Dword → Dword) : Option ScalarRule :=
  some { form := f, dst := d, srcs := [a], value := fun vs => g (vs.getD 0 0) }

/-- The immediate of R112: the sign-extended 12 bits, or the sign-extended literal of the 96-bit form. -/
def imm64 (f : Form) (imm : BitVec 12) : Dword :=
  match f with
  | .w96 _ l => BitVec.ofInt 64 l.toInt
  | _ => BitVec.ofInt 64 imm.toInt

/-- Bits 8, 16 or 32 that SEXT and ZEXT extend from (R113). -/
def extBits (b : R6) : Nat := if b = 0 then 8 else if b = 1 then 16 else 32

/-- R110 to R115, word for word: k gives the condition registers. -/
def intRule (k : Nat → Bool) : Instr → Option ScalarRule
  | .add f d a b => two f d a b (fun x y => fit f.mods.sat (x.toInt + y.toInt))
  | .sub f d a b => two f d a b (fun x y => fit f.mods.sat (x.toInt - y.toInt))
  | .mul f d a b => two f d a b (fun x y => fit f.mods.sat (x.toInt * y.toInt))
  | .mulh f d a b => two f d a b (fun x y => (x.signExtend 128 * y.signExtend 128).extractLsb' 64 64)
  | .mulhn f d a b => two f d a b (fun x y => (x.zeroExtend 128 * y.zeroExtend 128).extractLsb' 64 64)
  | .div f d a b => two f d a b (fun x y => if y = 0 then BitVec.allOnes 64 else BitVec.ofInt 64 (x.toInt.tdiv y.toInt))
  | .divn f d a b => two f d a b (fun x y => if y = 0 then BitVec.allOnes 64 else BitVec.ofNat 64 (x.toNat / y.toNat))
  | .rem f d a b => two f d a b (fun x y => if y = 0 then x else BitVec.ofInt 64 (x.toInt - y.toInt * x.toInt.tdiv y.toInt))
  | .remn f d a b => two f d a b (fun x y => if y = 0 then x else BitVec.ofNat 64 (x.toNat - y.toNat * (x.toNat / y.toNat)))
  | .and_ f d a b => two f d a b (fun x y => x &&& y)
  | .or_ f d a b => two f d a b (fun x y => x ||| y)
  | .xor_ f d a b => two f d a b (fun x y => x ^^^ y)
  | .andn f d a b => two f d a b (fun x y => x &&& ~~~y)
  | .shl f d a b => two f d a b (fun x y => BitVec.ofNat 64 (x.toNat * 2 ^ (y.toNat % 64)))
  | .shr f d a b => two f d a b (fun x y => BitVec.ofNat 64 (x.toNat / 2 ^ (y.toNat % 64)))
  | .sra f d a b => two f d a b (fun x y => BitVec.ofInt 64 (x.toInt / 2 ^ (y.toNat % 64)))
  | .rotr f d a b => two f d a b (fun x y => x >>> (y.toNat % 64) ||| x <<< (64 - y.toNat % 64))
  | .min_ f d a b => two f d a b (fun x y => if x.toInt ≤ y.toInt then x else y)
  | .max_ f d a b => two f d a b (fun x y => if x.toInt ≤ y.toInt then y else x)
  | .minn f d a b => two f d a b (fun x y => if x.toNat ≤ y.toNat then x else y)
  | .maxn f d a b => two f d a b (fun x y => if x.toNat ≤ y.toNat then y else x)
  | .addI f imm d a => one f d a (fun x => x + imm64 f imm)
  | .andI f imm d a => one f d a (fun x => x &&& imm64 f imm)
  | .orI f imm d a => one f d a (fun x => x ||| imm64 f imm)
  | .xorI f imm d a => one f d a (fun x => x ^^^ imm64 f imm)
  | .shlI f n d a => one f d a (fun x => BitVec.ofNat 64 (x.toNat * 2 ^ n.toNat))
  | .shrI f n d a => one f d a (fun x => BitVec.ofNat 64 (x.toNat / 2 ^ n.toNat))
  | .sraI f n d a => one f d a (fun x => BitVec.ofInt 64 (x.toInt / 2 ^ n.toNat))
  | .rotrI f n d a => one f d a (fun x => x >>> n.toNat ||| x <<< (64 - n.toNat))
  | .clz f d a => one f d a (fun x => BitVec.ofNat 64 (if x = 0 then 64 else 63 - Nat.log2 x.toNat))
  | .ctz f d a => one f d a (fun x => BitVec.ofNat 64 (((List.range 64).find? (fun i => x.getLsbD i)).getD 64))
  | .popc f d a => one f d a (fun x => BitVec.ofNat 64 ((List.range 64).countP (fun i => x.getLsbD i)))
  | .sext f d a b => one f d a (fun x => (x.truncate (extBits b)).signExtend 64)
  | .zext f d a b => one f d a (fun x => (x.truncate (extBits b)).zeroExtend 64)
  | .mov f d a => one f d a (fun x => x)
  | .sel f n j d a b =>
    some { form := f, dst := d, srcs := [a, b], conds := [j.toNat]
           value := fun vs => if (k j.toNat ^^ n) = true then vs.getD 0 0 else vs.getD 1 0 }
  | .li f h d =>
    if h = 0 then some { form := f, dst := d, srcs := [], value := fun _ => f.lit.signExtend 64 }
    else if h = 1 then some { form := f, dst := d, srcs := [], value := fun _ => f.lit.zeroExtend 64 }
    else if h = 2 then some { form := f, dst := d, srcs := [d], value := fun vs => f.lit.zeroExtend 64 <<< 32 ||| vs.getD 0 0 &&& 0xFFFFFFFF }
    else none
  | _ => none

/-- What a scalar source gives when it can be read (R24, R26 to R28): a register its value; a push port the free places of its queue; a pop
port its oldest dword. -/
def srcValue (s : State) (r : R6) : Option Dword :=
  if isPort r then
    let q := s.me.qcwOf (queueOf r)
    if !q.v || !bitOf s.me.hdr.roles (roleOf (queueOf r)) then none
    else if popPort r then (if q.count = 0 then none else some (s.me.queueDword (queueOf r) 0))
    else if s.me.busy r then none else some (BitVec.ofNat 64 (q.depth - q.count))
  else if s.me.busy r then none else some (s.me.reg r)

/-- The block after the pops of an instruction's sources (R107). -/
def pops (b : Block) (rs : List R6) : Block :=
  rs.foldl (fun b r => if popPort r then b.setQcw (queueOf r) ((b.qcwOf (queueOf r)).popped 1) else b) b

/-! ## Values of the machine that an instruction reads -/

/-- One bit. -/
def bit (b : Bool) : BitVec 1 := BitVec.ofBool b

/-- The special registers (R44 to R46), field by field from bit 63 down. -/
def specialReg (s : State) (n : Nat) : Dword :=
  let b := s.me
  let x := s.lch b.launch
  let nest := if b.intrap then b.inest else b.nest
  match n with
  | 0x00 => 0#48 ++ BitVec.ofNat 2 b.slot ++ BitVec.ofNat 2 (if x.cgsize = 0 then 0 else b.blkid % x.cgsize) ++ bit (x.cgsize != 0) ++ bit x.det
      ++ bit (s.fused.contains (b.core / 4)) ++ bit (s.secure.contains b.core) ++ bit (b.rows != 0) ++ bit (!b.recs.isEmpty) ++ bit b.intrap
      ++ bit b.resumed ++ 0#4
  | 0x01 => b.mode
  | 0x02 => b.fflags
  | 0x03 => b.nfin
  | 0x04 => b.bflag
  | 0x05 => b.mgrant
  | 0x06 => match b.recs with
    | [] => 0
    | f :: _ => 1#1 ++ 0#1 ++ BitVec.ofNat 6 f.tile ++ 0#24 ++ BitVec.ofNat 8 f.idx.step ++ 0#3 ++ BitVec.ofNat 5 f.idx.plane
        ++ BitVec.ofNat 8 f.idx.row ++ BitVec.ofNat 8 f.idx.col
  | 0x07 => b.fmask
  | 0x08 => b.tcause
  | 0x09 => b.tpc
  | 0x0A => b.ttile
  | 0x0B => b.telem
  | 0x0C => b.taddr
  | 0x0D => b.tport
  | 0x0E => BitVec.ofNat 32 (b.eptNs / 1000) ++ BitVec.ofNat 32 b.eptPeriod
  | 0x0F => x.epoch ++ 0#30 ++ bit b.detWait ++ bit x.det
  | 0x10 => BitVec.ofNat 64 b.blkid
  | 0x11 => BitVec.ofNat 64 (b.core / 4)
  | 0x12 => BitVec.ofNat 64 b.core
  | 0x13 => BitVec.ofNat 64 (b.core / 96)
  | 0x14 => s.devid.zeroExtend 64
  | 0x1B => b.thr
  | 0x1C => BitVec.ofNat 64 (b.core / 8)
  | 0x1D => BitVec.ofNat 64 s.qtb
  | n => BitVec.ofNat 64 ((nest[n - 0x15]?.map (fun l => l.index)).getD 0)

/-- What HEATQ answers for a zone (R154): which heat classes it admits now, and its headroom. -/
def heatAnswer (s : State) (z : Nat) : Dword :=
  if 24 ≤ z then 0
  else if (s.zone z).state ≠ 0 then 1#1 ++ 1#1 ++ 0#62
  else 1#1 ++ 0#1 ++ 0#42 ++ bit (s.admits z 3 (s.lch s.me.launch)) ++ bit (s.admits z 2 (s.lch s.me.launch)) ++ bit (s.admits z 1 (s.lch s.me.launch))
    ++ bit (s.admits z 0 (s.lch s.me.launch)) ++ BitVec.ofNat 16 (s.headroom z)

/-- RDTIME, RDSR, QTRY, HEATQ (R143, R146, R152, R154). -/
def readRule (s : State) : Instr → Option ScalarRule
  | .rdtime f d => some { form := f, dst := d, srcs := [], value := fun _ => BitVec.ofNat 64 s.qtb }
  | .rdsr f n d => if n.toNat < 0x1E then some { form := f, dst := d, srcs := [], value := fun _ => specialReg s n.toNat } else none
  | .qtry f q d =>
    if q.toNat < 16 then
      some { form := f, dst := d, srcs := [], value := fun _ => bit (s.me.qcwOf q.toNat).v ++ (s.me.qcwOf q.toNat).d1.extractLsb' 0 63 }
    else none
  | .heatq f d a b => some { form := f, dst := d, srcs := if b = 1 then [] else [a]
                             value := fun vs => heatAnswer s (if b = 1 then s.me.core / 8 else (vs.getD 0 0).toNat % 32) }
  | _ => none

/-! ## Conditions -/

/-- The condition of CMP (R114). -/
def cmpCond (cc : R6) (x y : Dword) : Option Bool :=
  match cc.toNat with
  | 0 => some (x = y)
  | 1 => some (x ≠ y)
  | 2 => some (x.toInt < y.toInt)
  | 3 => some (y.toInt ≤ x.toInt)
  | 4 => some (x.toNat < y.toNat)
  | 5 => some (y.toNat ≤ x.toNat)
  | _ => none

/-! ## Floating point of the control lane -/

/-- mode() (R56): the override of the 64-bit form, else %mode.RM. -/
def modeNow (b : Block) (f : Form) : RMode :=
  RMode.ofCode (if 4 ≤ f.mods.rnd.toNat then f.mods.rnd.toNat - 4 else (b.mode.extractLsb' 0 2).toNat)

/-- An operand of a precision (R116): all 64 bits, or the low 32. -/
def fpOperand (p : Bool) (v : Dword) : Nat := if p then v.toNat else (v.extractLsb' 0 32).toNat

/-- The abandoned-result encodings (R70). -/
def isAbandoned (p : Bool) (bits : Nat) : Bool := bits == (if p then 0x7FF0000000000AB0 else 0x7F800AB0)

/-- A binary operation of R117: form, precision, D, A, B, and the exact operation with the flags it raises itself. -/
structure FpRule where
  form : Form
  p : Bool
  dst : R6
  a : R6
  b : R6
  op : RMode → FVal → FVal → FVal × Nat

/-- R117. -/
def fpRule : Instr → Option FpRule
  | .fadd f p d a b => some ⟨f, p, d, a, b, addVal⟩
  | .fsub f p d a b => some ⟨f, p, d, a, b, fun m x y => addVal m x y.negate⟩
  | .fmul f p d a b => some ⟨f, p, d, a, b, fun _ => mulVal⟩
  | .fdiv f p d a b => some ⟨f, p, d, a, b, fun _ => divVal⟩
  | .fmin f p d a b => some ⟨f, p, d, a, b, fun _ => minMaxVal false⟩
  | .fmax f p d a b => some ⟨f, p, d, a, b, fun _ => minMaxVal true⟩
  | _ => none

/-- The result bits and the flags of a rule on two operands (R57, R117). -/
def FpRule.result (x : FpRule) (b : Block) (va vb : Dword) : Nat × Nat :=
  let fm := if x.p then fp64 else fp32
  deliverFp fm (modeNow b x.form) false (x.op (modeNow b x.form) (fm.value (fpOperand x.p va)) (fm.value (fpOperand x.p vb)))

/-- The lowest-numbered enabled flag that R58 names: NV, DZ, OF, UF, NX. -/
def trapFlag (b : Block) (fl : Nat) : Option Nat :=
  [4, 3, 2, 1, 0].find? (fun i => Nat.testBit fl i && b.mode.getLsbD (8 + i))

/-- FCMP's condition and whether it raises NV (R118). -/
def fcmpCond (cc : BitVec 3) (x y : FVal) : Option (Bool × Bool) :=
  let nan := x.isNan || y.isNan
  let sig := x.isSig || y.isSig
  match cc.toNat with
  | 0 => some (!nan && ordVal x y == .eq, sig)
  | 1 => some (!nan && ordVal x y == .lt, nan)
  | 2 => some (!nan && ordVal x y != .gt, nan)
  | 3 => some (nan, sig)
  | _ => none

/-- FCLASS's mask from the bits of an operand (R120): e exponent bits, m fraction bits. -/
def classMask (p : Bool) (v : Dword) : Dword :=
  let e := if p then 11 else 8
  let m := if p then 52 else 23
  let x := fpOperand p v
  let neg := Nat.testBit x (e + m)
  let ex := x / 2 ^ m % 2 ^ e
  let fr := x % 2 ^ m
  let one := fun (n : Nat) => (1 : Dword) <<< n
  if ex = 2 ^ e - 1 then
    if fr = 0 then (if neg then one 0 else one 7)
    else if Nat.testBit fr (m - 1) then one 9
    else one 8 ||| (if isAbandoned p x then one 10 else 0)
  else if ex = 0 then
    if fr = 0 then (if neg then one 3 else one 4) else (if neg then one 2 else one 5)
  else if neg then one 1 else one 6

/-- FCVT's delivery to the register (R119): an iW result sign-extended, every other zero-extended. -/
def cvtDeliver (dt : R6) (bits : Nat) : Dword :=
  match dt.toNat with
  | 5 => (BitVec.ofNat 8 bits).signExtend 64
  | 6 => (BitVec.ofNat 16 bits).signExtend 64
  | 7 => (BitVec.ofNat 32 bits).signExtend 64
  | _ => BitVec.ofNat 64 bits

/-- The ABN of a type that has one (R70). -/
def abnBits (code : Nat) : Option Nat :=
  match code with
  | 0x12 => some 0x7C2B
  | 0x13 => some 0x7F8B
  | 0x14 => some 0x7F800AB0
  | 0x15 => some 0x7FF0000000000AB0
  | _ => none

/-- An instruction that does nothing yet: the state as it was, its core told to try another slot (R24, R291). -/
def stalled (s : State) : State := { s with blocked := some false }

/-! ## Queue ports -/

/-- A block with a dword appended to queue q (R27, R41). -/
def pushed (b : Block) (q : Nat) (v : Dword) : Block :=
  let c := b.qcwOf q
  ({ b with shared := b.shared.write (c.base + 8 * c.tail) (leBytes 8 v.toNat), poisonSh := cleanWords b.poisonSh (c.base + 8 * c.tail) 8 }).setQcw q
    { c with d1 := BitVec.ofNat 64 ((c.count + 1) * 2 ^ 26 + c.head * 2 ^ 13 + (c.tail + 1) % c.depth) }

/-! ## Control flow -/

/-- The target of a branch: its address plus 4 × the sign-extended offset (R121, R122). -/
def target {n : Nat} (b : Block) (off : BitVec n) : VAddr := b.pc + BitVec.ofInt 56 (4 * off.toInt)

/-- The conditional branches (R121): form, offset, the register read, the condition registers read, whether it branches. -/
structure BranchRule where
  form : Form
  off : BitVec 18
  srcs : List R6
  conds : List Nat
  taken : List Dword → Bool

def branchRule (k : Nat → Bool) : Instr → Option BranchRule
  | .br f off n j => some ⟨f, off, [], [j.toNat], fun _ => k j.toNat ^^ n⟩
  | .brz f off a => some ⟨f, off, [a], [], fun vs => vs.getD 0 0 = 0⟩
  | .bnz f off a => some ⟨f, off, [a], [], fun vs => vs.getD 0 0 ≠ 0⟩
  | _ => none

/-- The unconditional transfers (R122). -/
def isTransfer : Instr → Option Form
  | .jmp f _ | .call f _ | .jr f _ _ | .ret f => some f
  | _ => none

/-- ILLEGAL with a DETAIL, taken at the instruction (R400). -/
def illegal (s : State) (detail : Nat) : Host.Outcome State Fault Refusal := .next (s.takeTrap s.cur { cause := 1, detail })

/-! ## Memory -/

/-- The address of an M-format operand (R87): the register plus the immediate times the access size, or plus the literal. -/
def addressM (f : Form) (imm : BitVec 9) (n : Nat) (base : Dword) : Nat :=
  match f with
  | .w96 _ l => (base + BitVec.ofInt 64 l.toInt).toNat
  | _ => (base + BitVec.ofInt 64 (imm.toInt * n)).toNat

/-- Bytes that a size code names (R87, R129). -/
def szBytes (sz : BitVec 3) : Nat := 2 ^ (sz.toNat % 4)

/-- A loaded number as SZ extends it: codes 0 to 3 by sign, 4 to 6 by zeros (R129). -/
def extended (sz : BitVec 3) (v : Nat) : Dword :=
  match sz.toNat with
  | 0 => (BitVec.ofNat 8 v).signExtend 64
  | 1 => (BitVec.ofNat 16 v).signExtend 64
  | 2 => (BitVec.ofNat 32 v).signExtend 64
  | 4 => (BitVec.ofNat 8 v).zeroExtend 64
  | 5 => (BitVec.ofNat 16 v).zeroExtend 64
  | 6 => (BitVec.ofNat 32 v).zeroExtend 64
  | _ => BitVec.ofNat 64 v

/-- %taddr for an address in a space (R45). -/
def taddrOf (spc : BitVec 2) (a : Nat) : Dword := spc ++ 0#6 ++ BitVec.ofNat 56 a

/-- The state with an access added to the present block's pending ones, under the next name. -/
def issued (s : State) (p : Pend) : State :=
  let s' := s.setMe { s.me with pend := s.me.pend ++ [{ p with id := s.nextId, seq := s.nextId, pc := s.me.pc, keys := p.pas }], defWait := none }
  { s' with nextId := s.nextId + 1 }

/-- A global access of the control lane (R129, R132, R133): its form, its register sources (the address first), the register field that must be
free to be written, the register it will write,
its address and width from the values read, what it needs of its page, and the access it becomes on the keys and page attribute of its
translation. -/
structure AccessRule where
  form : Form
  srcs : List R6
  field : Option R6
  dst : Option R6
  addr : List Dword → Nat
  bytes : Nat
  need : Need
  pend : List Dword → Xl → Pend

/-- R132, R133: the operation of an atomic. -/
def atomicRule (f : Form) (op : RmwOp) (w : Bool) (d a b : R6) (c : Option R6) (ret : Bool) : AccessRule :=
  let n := if w then 4 else 8
  { form := f, srcs := [a, b] ++ c.toList, field := some d, dst := if ret then some d else none, addr := fun vs => (vs.getD 0 0).toNat, bytes := n
    need := { r := true, w := true, atomic := true }
    pend := fun vs x => { id := 0, agent := .c, kind := .rmw op n (vs.getD 1 0) (if c.isSome then vs.getD 2 0 else 0) d ret
                          addr := (vs.getD 0 0).toNat, pas := x.keys, cacheable := x.c
                          ord := if f = .w32 then 0 else f.mods.ord.toNat, scope := if f = .w32 then 7 else f.mods.scope.toNat } }

/-- LD, ST, AMO and CAS. -/
def accessRule : Instr → Option AccessRule
  | .ld f imm sz d a => some
    { form := f, srcs := [a], field := some d, dst := some d, addr := fun vs => addressM f imm (szBytes sz) (vs.getD 0 0), bytes := szBytes sz, need := { r := true }
      pend := fun vs x => { id := 0, agent := .c, kind := .rd sz d, addr := addressM f imm (szBytes sz) (vs.getD 0 0), pas := [x.rkey], cacheable := x.c
                            ord := f.mods.ord.toNat, scope := f.mods.scope.toNat } }
  | .st f imm sz d a => some
    { form := f, srcs := [a, d], field := none, dst := none, addr := fun vs => addressM f imm (szBytes sz) (vs.getD 0 0), bytes := szBytes sz, need := { w := true }
      pend := fun vs x => { id := 0, agent := .c, kind := .wr (leBytes (szBytes sz) (vs.getD 1 0).toNat)
                            addr := addressM f imm (szBytes sz) (vs.getD 0 0), pas := x.keys, cacheable := x.c
                            ord := f.mods.ord.toNat, scope := f.mods.scope.toNat } }
  | .amoAdd f w d a b => some (atomicRule f .add w d a b none (d != 0))
  | .amoAnd f w d a b => some (atomicRule f .and w d a b none (d != 0))
  | .amoOr f w d a b => some (atomicRule f .or w d a b none (d != 0))
  | .amoXor f w d a b => some (atomicRule f .xor w d a b none (d != 0))
  | .amoMin f w d a b => some (atomicRule f .min w d a b none (d != 0))
  | .amoMax f w d a b => some (atomicRule f .max w d a b none (d != 0))
  | .amoMinn f w d a b => some (atomicRule f .minn w d a b none (d != 0))
  | .amoMaxn f w d a b => some (atomicRule f .maxn w d a b none (d != 0))
  | .amoSwap f w d a b => some (atomicRule f .swap w d a b none (d != 0))
  | .cas f w d a b => some (atomicRule f .cas w d a b (some f.mods.c) true)
  | _ => none

/-- Whether nothing is in the way of an access: it reads, and so meets poison and its own deferred operations; a returning atomic of a deterministic launch
waits for the deterministic hold and for the operations on its location that precede it. -/
def AccessRule.clear (x : AccessRule) (s : State) (t : Xl) : Prop :=
  (x.dst.isSome = true → s.deferredAt s.cur t.rkey x.bytes = false) ∧
  (x.need.r = true → x.need.w = false → ∃ bs, (s.gRead s.me.core x.form.mods.scope.toNat t.c false t.rkey x.bytes).1 = .ok bs ∧ s.homePoison t.rkey x.bytes = none) ∧
  (x.need.atomic = true → s.homePoison t.rkey x.bytes = none ∧
    (t.sa = false ∨ isHostKey t.rkey = false ∨ s.refuses.contains ((t.rkey - hostBase) / 2 ^ 18) = false) ∧
    (x.dst.isSome = true → (s.detOn s.me = false ∨ s.lowerDone s.me = true) ∧ s.detAhead t.rkey x.bytes = false))

/-- Whether an instruction stays under way until its access is answered or executed, its pops with it (R107, R108; log 93): the access goes to another
device, or it is an atomic that a release of the control lane, its own among them, holds up. -/
def staysOpen (b : Block) (p : Pend) : Bool :=
  p.pas != [] && (p.pas.any isFarKey || (p.isRmw && b.pend.any (fun q => q.agent == .c && q.isRel && q.pas != [] && decide (q.id ≤ p.id))))

/-- The block after its instruction's access n has joined the pending ones: its source ports are popped, or, where it stays under way, will be. -/
def popsOf (b : Block) (n : Nat) (p : Pend) (rs : List R6) : Block :=
  if staysOpen b { p with id := n } = true then { b with pend := b.pend.map (fun q => if q.id = n then { q with pops := rs.filter popPort } else q) } else pops b rs

/-- The watchpoints an access passes (R373): a load's read, a store's write, an atomic's both. -/
def AccessRule.watched (x : AccessRule) (s : State) (blk va : Nat) : State :=
  let s := if x.need.r then s.watch blk va x.bytes false else s
  if x.need.w then s.watch blk va x.bytes true else s

/-- The new value of a read-modify-write of w bits (R132, R133): b is s[B], c is s[C]. -/
def rmwResult (op : RmwOp) (w : Nat) (old b c : BitVec w) : BitVec w :=
  match op with
  | .add => old + b
  | .and => old &&& b
  | .or => old ||| b
  | .xor => old ^^^ b
  | .min => if old.toInt ≤ b.toInt then old else b
  | .max => if b.toInt ≤ old.toInt then old else b
  | .minn => if old.toNat ≤ b.toNat then old else b
  | .maxn => if b.toNat ≤ old.toNat then old else b
  | .swap => b
  | .cas => if old = b then c else old
  | .red _ _ => old

/-! ## Results into queue ports -/

/-- An instruction with a scalar result on the values of its sources: the result, the flags raised, and whether it completes without a trap of
its own. -/
structure Valued where
  form : Form
  dst : R6
  srcs : List R6
  conds : List Nat := []
  value : List Dword → Dword
  flags : List Dword → Nat := fun _ => 0
  plain : List Dword → Bool := fun _ => true

/-- Every scalar instruction with a result (R110 to R120, R143, R146, R152). -/
def valued (s : State) (i : Instr) : Option Valued :=
  let ofRule := fun (x : ScalarRule) => ({ form := x.form, dst := x.dst, srcs := x.srcs, conds := x.conds, value := x.value } : Valued)
  let ofFp := fun (x : FpRule) => ({ form := x.form, dst := x.dst, srcs := [x.a, x.b]
                                     value := fun vs => BitVec.ofNat 64 (x.result s.me (vs.getD 0 0) (vs.getD 1 0)).1
                                     flags := fun vs => (x.result s.me (vs.getD 0 0) (vs.getD 1 0)).2
                                     plain := fun vs => !isAbandoned x.p (fpOperand x.p (vs.getD 0 0)) && !isAbandoned x.p (fpOperand x.p (vs.getD 1 0))
                                       && (trapFlag s.me (x.result s.me (vs.getD 0 0) (vs.getD 1 0)).2).isNone } : Valued)
  let other := match i with
    | .fclass f p d a => some { form := f, dst := d, srcs := [a], value := fun vs => classMask p (vs.getD 0 0) }
    | _ => none
  ((intRule s.me.cond i).map ofRule <|> (readRule s i).map ofRule) <|> ((fpRule i).map ofFp <|> other)

/-- The writes that a block's acquires have ordered before its accesses are performed at a scope (R246): those that one copy alone of a replicated page held
then are in both, from .dev on (log 96). -/
def SeenDone (s : State) (b : Block) (sc : Nat) : Prop := 7 ≤ sc → ∀ e ∈ b.seenHalf, ∀ q ∈ (s.blk e.1).pend, q.id = e.2 → q.pas = []

/-- The oldest pending access of a block, which no other one names, and which needs no link to reach its home port; no other access is ahead of it
there, and a release finds what is ordered before it performed. -/
structure Oldest (s : State) (blk : Nat) (p : Pend) (rest : List Pend) (k : Nat) : Prop where
  awake : s.asleep = false
  pend : (s.blk blk).pend = p :: rest
  names : ∀ q ∈ rest, p.id < q.id
  keys : p.keys = [k]
  near : s.linkTo (dieOf (s.blk blk).core) k = none
  fresh : p.sent = false ∧ p.owes = false ∧ p.got = none ∧ p.bad = none ∧ p.port = none
  seen : 2 ≤ p.ord → p.agent ≠ .e → SeenDone s (s.blk blk) p.scope
  alone : ∀ e ∈ s.blocks, ∀ q ∈ e.2.pend, (e.1 = blk ∧ q.id = p.id) ∨ (q.stamp = 0 ∧ q.first = 0)

/-! ## Order and waiting -/

/-- A fence that holds its block up (R135): its form, scope, whether it waits for tile instructions, and the agents whose accesses it waits for. -/
structure FenceRule where
  form : Form
  sc : BitVec 4
  tiles : Bool
  agents : List Agent

/-- R135. -/
def fenceRule : Instr → Option FenceRule
  | .fenceCt f sc => some ⟨f, sc, false, [.c]⟩
  | .fenceTc f sc => some ⟨f, sc, true, [.t]⟩
  | .fenceAll f sc => some ⟨f, sc, true, [.c, .t]⟩
  | _ => none

/-- Every access of the agents, and those ordered before the control lane's (R246), is performed at a scope, but for reads asked of another die. -/
def Settled (b : Block) (as : List Agent) (sc : Nat) : Prop :=
  ∀ p ∈ b.pend, p.isGet = false → p.agent ∈ as ∨ (.c ∈ as ∧ p.ordC = true) → sc ≤ p.done

/-- The datapath's accesses so far, ordered before the control lane's later ones (R246). -/
def ordered (b : Block) : Block := { b with pend := b.pend.map (fun p => if p.agent = .t then { p with ordC := true } else p) }

/-- Every tile instruction of the block has completed. -/
def TilesDone (b : Block) : Prop := ∀ f ∈ b.flights, f.fin = true

/-- Every memory-side reduction of the block has been accepted by its memory port (R136). -/
def ReductionsSent (b : Block) : Prop := ∀ p ∈ b.pend, p.agent = .t → p.pas ≠ [] → ∀ op w x y d r, p.kind ≠ .rmw op w x y d r

/-- The wait of WAITA (R140): its form, comparison and operands. -/
def waitRule : Instr → Option (Form × (Dword → Dword → Bool) × Nat × R6 × R6 × R6)
  | .waitaEq f d a b => some (f, fun m v => m == v, 0, d, a, b)
  | .waitaNe f d a b => some (f, fun m v => m != v, 1, d, a, b)
  | .waitaGen f d a b => some (f, fun m v => v.toNat ≤ m.toNat, 2, d, a, b)
  | _ => none

/-! ## Special registers, traps, queues, launches -/

/-- What WRSR leaves of a block: RW fields take the value, every other bit keeps its own (R44, R45, R147). -/
def specialWrite (b : Block) (n : Nat) (v : Dword) : Option Block :=
  match n with
  | 0x01 => some { b with mode := v &&& 0x1F03 }
  | 0x02 => some { b with fflags := v &&& 0x1F }
  | 0x03 => some { b with nfin := v &&& 1 }
  | 0x04 => some { b with bflag := v &&& 0x8000000000000000 ||| b.bflag &&& 0x7FFFFFFFFFFFFFFF }
  | 0x06 => match b.recs with
    | [] => none
    | f :: rest =>
      if b.intrap && (pixFault f v.toNat).isNone then
        some { b with recs := { f with idx := { step := (v.extractLsb' 24 8).toNat, plane := (v.extractLsb' 16 5).toNat, row := (v.extractLsb' 8 8).toNat
                                                col := (v.extractLsb' 0 8).toNat } } :: rest }
      else none
  | 0x09 => if b.intrap then some { b with tpc := v &&& 0x00FFFFFFFFFFFFFF } else none
  | 0x0E => if 1 ≤ (v.extractLsb' 0 32).toNat ∧ (v.extractLsb' 0 32).toNat ≤ 1000000 then some { b with eptPeriod := (v.extractLsb' 0 32).toNat, eptNs := 0 }
    else none
  | _ => none

/-- The DETAIL of a WRSR that changes nothing (R147, R400). -/
def specialFault (b : Block) (n : Nat) (v : Dword) : Option Nat :=
  match n with
  | 0x06 => match b.recs with
    | [] => some 0x4040
    | f :: _ => if b.intrap then (pixFault f v.toNat).map (0x4000 + ·) else some 0x4040
  | 0x09 => if b.intrap then none else some 0x4040
  | 0x0E => if 1 ≤ (v.extractLsb' 0 32).toNat ∧ (v.extractLsb' 0 32).toNat ≤ 1000000 then none else some 0x4000
  | _ => none

/-- A progress record or instruction without its name and its progress count, which a replay renews. -/
def unnamed (f : Flight) : Flight := { f with id := 0, units := 0 }

/-- The constraints of a queue's definition (R42, R151). -/
def QueueSound (n : Nat) (v : Dword) (shared tileBytes : Nat) : Prop :=
  let esize := (v.extractLsb' 40 3).toNat
  let bytes := (if esize = 6 then tileBytes else 8 * 2 ^ esize) * ((v.extractLsb' 24 12).toNat + 1)
  let base := (v.extractLsb' 0 20).toNat
  esize ≠ 7 ∧ (n < 8 → esize = 0) ∧ (v.getLsbD 63 = true → base % 64 = 0 ∧ base + bytes ≤ shared ∧ (8 ≤ n → esize = 6))

/-- LAUNCH's answer for a queue outside deterministic mode (R153), but for 0. -/
def launchRefused (s : State) (q : Nat) : Option Dword :=
  if 15 < q then some 3
  else if !((s.ctx s.me.ctx).queue q).open_ then some 2
  else if s.freePlaces s.me.ctx q = 0 then some 1
  else none

/-! ## Tile shape records -/

/-- A record's shape and place apart from V and INST (R38, R168). -/
def sameShapeRecord (t u : Tsr) : Bool := (t.d0 ||| 0x0100000000000000) == (u.d0 ||| 0x0100000000000000) && t.d1 == u.d1

/-- Bits of new under a mask, bits of old elsewhere. -/
def splice (mask old new : Dword) : Dword := (old &&& ~~~mask) ||| (new &&& mask)

/-- A configuring instruction (R167): its tile, whether the tile must be valid, its scalars, the record it makes of the old one, and whether
it is one of those whose change of shape waits and records a strip (R168). -/
structure ConfigRule where
  form : Form
  tile : R6
  valid : Bool := true
  srcs : List R6
  make : Tsr → List Dword → Tsr
  strips : Bool := false

def configRule : Instr → Option ConfigRule
  | .tshape f d a b => some { form := f, tile := d, valid := false, srcs := [a, b], strips := true
                              make := fun t vs => { t with d0 := vs.getD 0 0 ||| 0x0100000000000000, d1 := vs.getD 1 0 &&& 0xFFFFFFFC00000000 } }
  | .tbind f d a => some { form := f, tile := d, srcs := [a], strips := true
                           make := fun t vs => { t with d0 := splice 0xC0000000000FFFFF t.d0 (vs.getD 0 0) } }
  | .tbound f p d a => some { form := f, tile := d, srcs := [a, a + 1]
                              make := fun t vs => { t with d2 := vs.getD 0 0, d3 := vs.getD 1 0
                                                           d4 := splice 0xC000000000000000 t.d4 (p.zeroExtend 64 <<< 62) } }
  | .tmon f d a => some { form := f, tile := d, srcs := [a], make := fun t vs => { t with d4 := splice 0x3EFF000000000000 t.d4 (vs.getD 0 0) } }
  | .tverd f d a b => some { form := f, tile := d, srcs := [a, b]
                             make := fun t vs => { t with d4 := splice 0x0000FFC000000000 t.d4 (vs.getD 0 0), d5 := vs.getD 1 0 } }
  | _ => none

/-- The record a configuring instruction leaves at an address, from the old one: a change of shape sets INST to 0. -/
def ConfigRule.record (x : ConfigRule) (pc : VAddr) (t : Tsr) (vs : List Dword) : Tsr :=
  let u := x.make t vs
  if x.strips then { u with d4 := if sameShapeRecord t u then u.d4 else u.d4 &&& 0xFFFFFFFFFFFFFFF3, strip := pc } else u

/-- What TRDSH selects (R169). -/
def shapeWord (t : Tsr) (sel : Nat) : Dword :=
  match sel with
  | 0 => t.d0
  | 1 => t.d1
  | 2 => t.d2
  | 3 => t.d3
  | 4 => t.d4
  | 5 => t.d5
  | 6 => BitVec.ofNat 64 (t.base + t.inst * t.tpitch)
  | _ => t.strip.zeroExtend 64

/-! ## Tile instructions at issue -/

/-- What issuing a tile instruction takes (R155 to R159): its tile operands, which of them it writes, its scalars, the checks on its operands in
order (whether each fails, and the operand's number), the waits and the trap of its own, and the scalars it keeps. -/
structure TileRule where
  form : Form
  d : Option R6 := none
  a : Option R6 := none
  b : Option R6 := none
  c : Option R6 := none
  writesD : Bool := true
  writesB : Bool := false
  scalars : List R6 := []
  checks : Block → List Dword → List (Bool × Nat)
  waits : State → Bool := fun _ => false
  trap : State → List Dword → Option TrapInfo := fun _ _ => none
  sc : Block → List Dword → List Dword := fun _ vs => vs

/-- An element-wise instruction (R187): same are its further operands of D's type and shape, own the checks of those with types of their own. -/
def eltRule (f : Form) (ok : Nat → Bool) (d a : R6) (b c : Option R6) (same : List (R6 × Nat)) (own : Block → List (Bool × Nat)) : TileRule :=
  { form := f, d := some d, a := some a, b, c, checks := fun x _ => eltChk x f ok d a same (own x) }

/-- A global image (R170 to R173). -/
def imageRule (f : Form) (imm : BitVec 8) (op : BitVec 4) (d a : R6) (write : Bool) (bad : Tsr → Bool) : TileRule :=
  let base := fun (x : Block) (vs : List Dword) => addrTM x f (vs.getD 0 0) imm op
  let n := fun (s : State) => let t := s.me.tsrOf d.toNat; if t.layout = 2 then 1 else codeBytes t.etype
  { form := f, d := some d, writesD := write, scalars := [a, a + 1]
    checks := fun x _ => let t := x.tsrOf d.toNat; (tileBad t d true true || bad t, 0) :: maskChk x f t
    trap := fun s vs =>
      if (base s.me vs).toNat % n s ≠ 0 then some { cause := 2, taddr := taddrOf 0 (base s.me vs).toNat }
      else if (vs.getD 1 0).toNat % n s ≠ 0 then some { cause := 2, taddr := taddrOf 0 (base s.me vs + vs.getD 1 0).toNat }
      else none
    sc := fun x vs => [base x vs, vs.getD 1 0] }

/-- A gather or scatter (R176). -/
def gatherRule (f : Form) (d a b : R6) (write : Bool) : TileRule :=
  { form := f, d := some d, a := some a, writesD := write, scalars := [b]
    checks := fun x _ =>
      let td := x.tsrOf d.toNat
      let ta := x.tsrOf a.toNat
      [(tileBad td d false false, 0), (tileBad ta a false false || !(ta.etype == 7 || ta.etype == 8 || ta.etype == 3) || !sameShape ta td, 1)]
        ++ maskChk x f td
    trap := fun s vs =>
      if (vs.getD 0 0).toNat % codeBytes (s.me.tsrOf d.toNat).etype ≠ 0 then some { cause := 2, taddr := taddrOf 0 (vs.getD 0 0).toNat } else none }

/-- A copy of whole elements as bits (R178, R179): port says, for D and A, whether each must or must not be a channel port. -/
def copyRule (f : Form) (d a : R6) (port : Option (Bool × Bool)) : TileRule :=
  { form := f, d := some d, a := some a
    checks := fun x _ =>
      let td := x.tsrOf d.toNat
      let ta := x.tsrOf a.toNat
      [(tileBad td d true true || (port.map (fun p => isChan d.toNat != p.1)).getD false, 0),
        (tileBad ta a true true || (port.map (fun p => isChan a.toNat != p.2)).getD false || !sameBits td ta || !sameShape ta td, 1)]
        ++ maskChk x f td }

/-- A line move between a tile and the lanes' stores (R180). -/
def lineRule (f : Form) (tile b : R6) (n : Nat) : TileRule :=
  { form := f, d := if n = 0 then some tile else none, a := if n = 0 then none else some tile, scalars := [b]
    checks := fun x _ =>
      let t := x.tsrOf tile.toNat
      (tileBad t tile true false || 128 < t.rows || t.layout != 0 || t.space == 2, n) :: (if n = 0 then maskChk x f t else [])
    trap := fun s vs =>
      let t := s.me.tsrOf tile.toNat
      let o := (vs.getD 0 0).toNat
      if o % 4 ≠ 0 ∨ s.me.hdr.lane < o + t.cols * codeBytes t.etype then some { cause := 4, detail := 7, taddr := taddrOf 3 o } else none }

/-- A check of a whole tile into a condition register (R198). -/
def checkRule (f : Form) (d a : R6) (ok : Nat → Bool) : TileRule :=
  { form := f, a := some a, waits := fun s => s.me.busyK d.toNat
    checks := fun x _ =>
      let t := x.tsrOf a.toNat
      [(tileBad t a true false || reachBad (tyMod f) t || !ok (retype (tyMod f) t).etype, 1)] }

/-- A tile collective (R223 to R225): kind 0 TCRED, 1 TCBC, 2 TCAG. -/
def collRule (f : Form) (kind : Nat) (d : R6) (srcs : List R6) : TileRule :=
  { form := f, d := some d, scalars := srcs
    checks := fun x vs =>
      let t := x.tsrOf d.toNat
      let ctl := (vs.getD 0 0).toNat
      let peers := (vs.getD 1 0).toNat
      [(tileBad t d false false || 2 ≤ t.space || !numCode t.etype, 0),
        (collBad kind ctl peers || (kind == 0 && 3 ≤ ctl % 16 && !isIntCode t.etype), 1),
        (kind == 2 && t.rows % max (popBits 64 peers) 1 != 0, 2), (2 < srcs.length && isIntCode t.etype, 3)]
    waits := fun s => s.me.flights.any (fun g => !g.fin &&
      ([g.d, if writesB g.instr then g.b else none].any (fun o => o.map (fun o => (o.name, o.inst)) == some (d.toNat, (s.me.tsrOf d.toNat).inst))))
    trap := fun s vs =>
      let t := s.me.tsrOf d.toNat
      if !((s.ownIndex s.me (vs.getD 0 0).toNat).map (fun j => (vs.getD 1 0).toNat.testBit j)).getD false then some { cause := 7, detail := 0x0B03 }
      else (s.me.firstAbn t).map (fun e => { cause := 9, telem := 1#1 ++ 0#47 ++ BitVec.ofNat 8 e.1 ++ BitVec.ofNat 8 e.2 }) }

/-- The tile instructions but for MMAV, a chained TBFLY, and those that act at once (R167, R200 to R202, R215). -/
def tileRule : Instr → Option TileRule
  | .tld f imm op d a => some (imageRule f imm op d a true (fun _ => false))
  | .tst f imm op d a => some (imageRule f imm op d a false (fun _ => false))
  | .tstr f imm op d a => some (imageRule f imm op d a false (fun t => t.layout == 2 || isFp8 t.etype || (isFpCode t.etype && 3 ≤ op.toNat % 8)))
  | .tldg f d a b => some (gatherRule f d a b true)
  | .tstg f d a b => some (gatherRule f d a b false)
  | .tcopy f d a => some (copyRule f d a none)
  | .tsend f d a => some (copyRule f d a (some (true, false)))
  | .trecv f d a => some (copyRule f d a (some (false, true)))
  | .tfill f d a => some { form := f, d := some d, scalars := [a]
                           checks := fun x _ => let t := x.tsrOf d.toNat; (tileBad t d true true, 0) :: maskChk x f t }
  | .tiota f d a b => some { form := f, d := some d, scalars := [a, b]
                             checks := fun x _ => let t := x.tsrOf d.toNat; (tileBad t d true false || !numCode t.etype, 0) :: maskChk x f t }
  | .ttrans f d a => some { form := f, d := some d, a := some a
                            checks := fun x _ =>
                              let td := x.tsrOf d.toNat
                              let ta := x.tsrOf a.toNat
                              [(tileBad td d true false, 0),
                                (tileBad ta a true false || codeBytes td.etype != codeBytes ta.etype || td.rows != ta.cols || td.cols != ta.rows, 1)]
                                ++ maskChk x f td }
  | .tbcast f r d a => some { form := f, d := some d, a := some a
                              checks := fun x _ =>
                                let td := x.tsrOf d.toNat
                                let ta := x.tsrOf a.toNat
                                let fits := if r then ta.cols == 1 && ta.rows == td.rows else ta.rows == 1 && ta.cols == td.cols
                                [(tileBad td d true false, 0), (tileBad ta a true false || codeBytes td.etype != codeBytes ta.etype || !fits, 1)]
                                  ++ maskChk x f td }
  | .tldl f b a => some (lineRule f a b 1)
  | .tstl f b d => some (lineRule f d b 0)
  | .tcvt f d a => some { form := f, d := some d, a := some a
                          checks := fun x _ =>
                            let td := x.tsrOf d.toNat
                            let ta := x.tsrOf a.toNat
                            [(tileBad td d true true, 0), (tileBad ta a true true || reachBad (tyMod f) ta || !sameShape ta td, 1)] ++ maskChk x f td }
  | .tbfly f false h d a => some { form := f, d := some d, a := some a
                                   checks := fun x _ =>
                                     let td := x.tsrOf d.toNat
                                     let ta := x.tsrOf a.toNat
                                     let cd := (retype (tyMod f) td).etype
                                     [(tileBad td d true false || reachBad (tyMod f) td || !([0x12, 0x13, 0x14, 6, 7].contains cd)
                                        || td.cols % (2 * 2 ^ h.toNat) != 0, 0),
                                       (tileBad ta a true false || reachBad (tyMod f) ta || (retype (tyMod f) ta).etype != cd || !sameShape ta td, 1)] }
  | .tcmpr f d a b => some { form := f, d := some d, a := some a, b := some b, writesB := true
                             checks := fun x _ =>
                               let td := x.tsrOf d.toNat
                               let ta := x.tsrOf a.toNat
                               let tb := x.tsrOf b.toNat
                               [(tileBad td d true false, 0),
                                 (tileBad ta a true false || ta.etype != td.etype || ta.rows != td.rows || td.cols < ta.cols, 1),
                                 (tileBad tb b true false || tb.etype != 2 || tb.rows != ta.rows || tb.cols < ta.cols, 2)] }
  | .texpd f d a b => some { form := f, d := some d, a := some a, b := some b
                             checks := fun x _ =>
                               let td := x.tsrOf d.toNat
                               let ta := x.tsrOf a.toNat
                               let tb := x.tsrOf b.toNat
                               [(tileBad td d true false, 0), (tileBad ta a true false || ta.etype != td.etype || ta.rows != td.rows, 1),
                                 (tileBad tb b true false || tb.etype != 2 || !sameShape tb ta, 2)] ++ maskChk x f td }
  | .tadd f d a b | .tsub f d a b | .tmul f d a b | .tdiv f d a b | .tmin f d a b | .tmax f d a b =>
    some (eltRule f numCode d a (some b) none [(b, 2)] (fun _ => []))
  | .tscale f d a b => some (eltRule f isFpBig d a (some b) none [] (fun x => [apart x (fun c => 5 ≤ c && c ≤ 7) d b 2]))
  | .tfma f d a b | .tclamp f d a b => some (eltRule f numCode d a (some b) (some f.mods.c) [(b, 2), (f.mods.c, 3)] (fun _ => []))
  | .tsel f d a b => some (eltRule f numCode d a (some b) (some f.mods.c) [(b, 2)] (fun x => [apart x isIntCode d f.mods.c 3]))
  | .tsqrt f d a | .trsq f d a | .trcp f d a | .texp2 f d a | .tlog2 f d a => some (eltRule f isFpBig d a none none [] (fun _ => []))
  | .tabs f d a | .tneg f d a => some (eltRule f numCode d a none none [] (fun _ => []))
  | .tand f d a b | .tor f d a b | .txor f d a b => some (eltRule f isIntCode d a (some b) none [(b, 2)] (fun _ => []))
  | .tnot f d a | .tclz f d a | .tctz f d a | .tpopc f d a => some (eltRule f isIntCode d a none none [] (fun _ => []))
  | .tshl f d a b | .tshr f d a b | .tsra f d a b => some (eltRule f isIntCode d a (some b) none [] (fun x => [apart x isIntCode d b 2]))
  | .tcmp f cc d a b => some { form := f, d := some d, a := some a, b := some b
                               checks := fun x _ =>
                                 let td := x.tsrOf d.toNat
                                 let ta := x.tsrOf a.toNat
                                 let tb := x.tsrOf b.toNat
                                 let ca := (retype (tyMod f) ta).etype
                                 [(tileBad td d true false || !isIntCode td.etype, 0),
                                   (tileBad ta a true false || reachBad (tyMod f) ta || !numCode ca || (cc == 6 && isIntCode ca) || !sameShape ta td, 1),
                                   (tileBad tb b true false || reachBad (tyMod f) tb || (retype (tyMod f) tb).etype != ca || !sameShape tb td, 2)]
                                   ++ maskChk x f td }
  | .tred f r o d a b =>
    let one := fun (x : Block) => let t := x.tsrOf a.toNat
                                  tileBad t a true false || reachBad (tyMod f) t || !redCode o.toNat (retype (tyMod f) t).etype
    some { form := f, d := if b = 0 then some d else none, a := some a
           waits := fun s => b != 0 && (match dstReady s b with | .ok _ => false | .error _ => true)
           checks := fun x _ =>
             let td := x.tsrOf d.toNat
             let ta := x.tsrOf a.toNat
             if b = 0 then
               [(tileBad td d true false || !redCode o.toNat td.etype, 0),
                 (one x || !redShape r.toNat td ta || !redTypes o.toNat (retype (tyMod f) ta).etype td.etype, 1)]
             else [(one x, 1)] }
  | .tscan f _ o d a => some { form := f, d := some d, a := some a
                               checks := fun x _ =>
                                 let td := x.tsrOf d.toNat
                                 let ta := x.tsrOf a.toNat
                                 let ca := (retype (tyMod f) ta).etype
                                 [(tileBad td d true false || !redCode o.toNat td.etype, 0),
                                   (tileBad ta a true false || reachBad (tyMod f) ta || !redCode o.toNat ca || !sameShape ta td
                                     || !redTypes o.toNat ca td.etype, 1)] ++ maskChk x f td }
  | .targmx f r d a => some { form := f, d := some d, a := some a
                              checks := fun x _ =>
                                let td := x.tsrOf d.toNat
                                let ta := x.tsrOf a.toNat
                                let n := if r = 0 then ta.cols else if r = 1 then ta.rows else ta.rows * ta.cols
                                [(tileBad td d true false || !([2, 3, 7, 8, 4].contains td.etype), 0),
                                  (tileBad ta a true false || reachBad (tyMod f) ta || !(isIntCode (retype (tyMod f) ta).etype || isFpCode (retype (tyMod f) ta).etype)
                                    || !redShape r.toNat td ta || intMax (isSignedCode td.etype) (codeBits td.etype) < (n : Int) - 1, 1)] }
  | .tchkf f d a => some (checkRule f d a isFpCode)
  | .tany f d a | .tall f d a => some (checkRule f d a (fun c => isIntCode c || isFpCode c))
  | .mma f d a b =>
    let c := if f = .w32 then d else f.mods.c
    some { form := f, d := some d, a := some a, b := some b, c := some c, waits := fun s => s.me.rowsOwed
           checks := fun x _ =>
             let td := x.tsrOf d.toNat
             let ta := x.tsrOf a.toNat
             let tb := x.tsrOf b.toNat
             let tc := x.tsrOf c.toNat
             mmaChk f td ta d a ++
               [(tileBad tb b true true || tb.space != 0 || (pairing ta tb).map (fun p => p.2.code) != some td.etype || tb.rows != ta.cols
                   || tb.cols != td.cols, 2),
                 (tileBad tc c true false || tc.space != 1 || tc.layout != 0 || tc.etype != td.etype || !sameShape tc td, 3), (x.grant == 0, 5)] }
  | .mmas f d a b => some { form := f, d := some d, a := some a, b := some b, c := some f.mods.c, waits := fun s => s.me.rowsOwed
                            checks := fun x _ =>
                              let td := x.tsrOf d.toNat
                              let ta := x.tsrOf a.toNat
                              let tb := x.tsrOf b.toNat
                              let tc := x.tsrOf f.mods.c.toNat
                              mmaChk f td ta d a ++
                                [(tileBad tb b true false || !dense tb || (pairing ta tb).map (fun p => p.2.code) != some td.etype || tb.cols != td.cols, 2),
                                  (tileBad tc f.mods.c true false || !dense tc || tc.etype != 2 || !sameShape tc ta, 3), (x.grant == 0, 5)] }
  | .ttopk f d a b => some { form := f, d := some d, a := some a, b := some b, writesB := true, scalars := if f = .w32 then [] else [f.mods.c]
                             checks := fun x vs =>
                               let td := x.tsrOf d.toNat
                               let ta := x.tsrOf a.toNat
                               let tb := x.tsrOf b.toNat
                               let short := f == .w32
                               let k := if short then ta.km1 + 1 else (vs.getD 0 0).toNat
                               [(tileBad td d true false || !isFpBig td.etype, 0),
                                 (tileBad ta a true false || ta.etype != td.etype || ta.rows != td.rows || (short && (ta.vclass != 3 || td.cols != k)), 1),
                                 (tileBad tb b true false || !([2, 3, 7].contains tb.etype) || tb.rows != ta.rows || tb.cols != td.cols, 2),
                                 (!short && (k = 0 || 64 < k || ta.cols < k || td.cols != k), 3)] }
  | .azero f d => some { form := f, d := some d, checks := fun x _ => let t := x.tsrOf d.toNat; [(tileBad t d true false || t.space != 1, 0)] }
  | .tmap f d a b => some { form := f, d := some d, a := some a, b := some b, c := some f.mods.c
                            checks := fun x _ =>
                              let td := x.tsrOf d.toNat
                              let one := fun (r : R6) (n : Nat) => let t := x.tsrOf r.toNat
                                                                   (tileBad t r true false || 4 < codeBytes t.etype || !sameShape t td, n)
                              [one d 0, one a 1, one b 2, one f.mods.c 3] ++ maskChk x f td }
  | .tmapr f d a b => some { form := f, d := some d, a := some a, b := some b, c := some f.mods.c
                             checks := fun x _ =>
                               let td := x.tsrOf d.toNat
                               let ta := x.tsrOf a.toNat
                               let one := fun (r : R6) (n : Nat) => let t := x.tsrOf r.toNat
                                                                    (tileBad t r true false || 4 < codeBytes t.etype || !sameShape t ta, n)
                               [(tileBad td d true false || 4 < codeBytes td.etype || td.cols != 1, 0),
                                 (tileBad ta a true false || 4 < codeBytes ta.etype || ta.rows != td.rows, 1), one b 2, one f.mods.c 3] ++ maskChk x f td }
  | .tcred f d a b => some (collRule f 0 d ([a, b] ++ (if f.mods.c = 0 then [] else [f.mods.c])))
  | .tcbc f d a b => some (collRule f 1 d [a, b])
  | .tcag f d a b => some (collRule f 2 d [a, b])
  | _ => none

/-- Every tile an instruction names, its mask tile among them. -/
def TileRule.names (x : TileRule) : List Nat :=
  ([x.d, x.a, x.b, x.c, if x.form.mods.pmode = 2 then some x.form.mods.psel else none].filterMap id).map BitVec.toNat

/-- The channel ports it writes, then those it reads, in operand order (R155, R179). -/
def TileRule.ports (x : TileRule) : List (Nat × Bool) :=
  let port := fun (o : Option R6) => (o.toList.map BitVec.toNat).filter isChan
  ((if x.writesD then port x.d else []) ++ (if x.writesB then port x.b else [])).map (fun n => (n, true)) ++
    ((if x.writesD then [] else port x.d) ++ port x.a ++ (if x.writesB then [] else port x.b) ++ port x.c).map (fun n => (n, false))

/-- The next instance of a tile, at which its next write goes (R36). -/
def nextInst (t : Tsr) : Nat := (t.inst + 1) % t.depth

/-- A tile operand read, and one written, at issue (R36, R37, R157). -/
def readAt (b : Block) (r : R6) : Opnd := ⟨r.toNat, b.tsrOf r.toNat, (b.tsrOf r.toNat).inst⟩
def writeAt (b : Block) (r : R6) : Opnd := ⟨r.toNat, b.tsrOf r.toNat, nextInst (b.tsrOf r.toNat)⟩
/-- The block with a tile's instance advanced. -/
def advanced (b : Block) (r : R6) : Block := b.setTsr r.toNat ((b.tsrOf r.toNat).setInst (nextInst (b.tsrOf r.toNat)))

/-- The block with every destination's instance advanced. -/
def TileRule.renamed (x : TileRule) (b : Block) : Block :=
  let b := if x.writesD then (x.d.map (advanced b)).getD b else b
  if x.writesB then (x.b.map (advanced b)).getD b else b

/-- Whether the instruction may take its entry (R25, R36, R155, R185): room in the table, no shape or port still owed, its destinations' next
instances unused, no wait of its own. -/
def TileRule.free (x : TileRule) (s : State) : Bool :=
  let unused := fun (o : Option R6) => o.all (fun r => isChan r.toNat || !s.me.usesInst r.toNat (nextInst (s.me.tsrOf r.toNat)))
  s.me.flights.length < 8 && x.names.all (fun n => !s.me.cmprOwes n && !(isChan n && s.me.usesTile n)) && (!x.writesD || unused x.d)
    && (!x.writesB || unused x.b) && !x.waits s

/-- The entry of an instruction that issues (R157, R158). -/
def TileRule.entry (x : TileRule) (s : State) (i : Instr) (vs : List Dword) (sample : Bool) : Flight :=
  let b := s.me
  let b1 := if x.writesD then (x.d.map (advanced b)).getD b else b
  { id := s.nextId, pc := b.pc, instr := i, sc := x.sc b vs
    d := x.d.map (if x.writesD then writeAt b else readAt b), a := x.a.map (readAt b), b := x.b.map (if x.writesB then writeAt b1 else readAt b)
    c := x.c.map (readAt b), m := if x.form.mods.pmode = 2 then some (readAt b x.form.mods.psel) else none
    src := if x.writesD then (x.d.map (fun r => (b.tsrOf r.toNat).inst)).getD 0 else 0
    rm := b.mode.toNat % 4, grant := b.mgrant.toNat % 256, ordinal := b.ordinal, sample, issued := s.clock, order := s.nextId
    strip := (b.tsrOf (((x.d.orElse fun _ => x.a).map BitVec.toNat).getD 0)).strip }

/-- A trap of a tile instruction at issue (R300, R301): taken once the older tile instructions are complete; until then it waits with its
instruction's age, the pc at the instruction. -/
def lateTrapOf (s : State) (t : TrapInfo) : State :=
  if s.me.flights.all (fun f => f.fin) then s.takeTrap s.cur t
  else { s with nextId := s.nextId + 1 }.setMe { s.me with trapP := some { t with age := s.nextId } }

/-! ## Matrix rows, verdicts, monitors -/

/-- Rows of the cluster's array that are free once the block has released its own (R200). -/
def rowsFree (s : State) : Nat := (s.setMe { s.me with rows := 0 }).freeRows (s.me.core / 4)

/-- The rows a MATT may ask for (R200). -/
def rowCount (v : Dword) : Bool := [16, 32, 48, 64, 80, 96, 112, 128].contains v.toNat

/-- The block with g of r requested rows attached, as MATT leaves it (R200). -/
def attached (b : Block) (d : R6) (r g : Nat) : Block := { b with rows := g, mgrant := BitVec.ofNat 64 (r * 256 + g) }.setReg d (BitVec.ofNat 64 g)

/-- MMAV at issue (R208 to R210). -/
def mmavRule (f : Form) (d a b : R6) : TileRule :=
  { form := f, d := some d, a := some a, b := some b, scalars := if f = .w32 then [] else [f.mods.c]
    waits := fun s => s.me.rowsOwed || s.me.mmavBusy
    checks := fun x vs =>
      let td := x.tsrOf d.toNat
      let ta := x.tsrOf a.toNat
      let tb := x.tsrOf b.toNat
      let p := if f = .w32 ∨ vs.getD 0 0 = 0 then tb.planes else (vs.getD 0 0).toNat
      [(tileBad td d true false || td.space != 1 || td.layout != 0 || td.etype != 0x14 || td.vclass = 0 || 4096 < td.rows * td.cols, 0),
        (tileBad ta a true false || !dense ta || !([0x05, 0x06, 0x10, 0x12].contains ta.etype) || ta.rows != td.rows, 1),
        (tileBad tb b true true || tb.space != 0 || tb.layout != 2 || tb.planes < 2 || 16 < tb.planes || tb.rows != td.cols || tb.cols != ta.cols, 2),
        (p < 2 || tb.planes < p, 3), (x.grant == 0, 5)]
    sc := fun x vs => [BitVec.ofNat 64 (if f = .w32 ∨ vs.getD 0 0 = 0 then (x.tsrOf b.toNat).planes else (vs.getD 0 0).toNat)] }

/-- The last member of a chain gives the destination and its instance; the first the sources (R184). -/
def chainEntry (x y : TileRule) (s : State) (i : Instr) (ms : List (Instr × Tsr)) (sample : Bool) : Flight :=
  { x.entry s i [] sample with d := y.d.map (writeAt s.me), strip := (s.me.tsrOf ((y.d.map BitVec.toNat).getD 0)).strip, src := (y.d.map (fun r => (s.me.tsrOf r.toNat).inst)).getD 0, chain := ms
                               m := if y.form.mods.pmode = 2 then some (readAt s.me y.form.mods.psel) else none }

/-- A monitor claim's status word (R231). -/
def claimStatus (c : Claim) : Dword :=
  c.epochs ++ 0#24 ++ bit c.fail ++ bit c.failed ++ 0#2 ++ bit c.set ++ bit c.ovf ++ bit c.inexact ++ bit c.outwin

/-- What MONRD selects (R231). -/
def claimWord (c : Claim) (sel : Nat) : Dword :=
  match sel with
  | 0 => BitVec.ofInt 64 c.last
  | 1 => BitVec.ofInt 64 (c.last / 2 ^ 64)
  | 2 => claimStatus c
  | 3 => BitVec.ofInt 64 c.ref
  | 4 => BitVec.ofInt 64 (c.ref / 2 ^ 64)
  | 5 => c.cfg
  | _ => BitVec.ofNat 64 c.bound

/-- A configuration that MONSET takes (R228). -/
def ClaimConfig (v : Dword) : Prop :=
  v.extractLsb' 44 20 = 0 ∧ v.extractLsb' 9 23 = 0 ∧ v.extractLsb' 4 2 = 0 ∧ 5 ≤ (v.extractLsb' 0 4).toNat ∧ (v.extractLsb' 0 4).toNat ≤ 7 ∧
    -1152 ≤ (v.extractLsb' 32 12).toInt ∧ (v.extractLsb' 32 12).toInt ≤ 1023

/-- The state with a claim of the present launch changed. -/
def withClaim (s : State) (n : Nat) (g : Claim → Claim) : State :=
  s.modLch s.me.launch (fun x => { x with claims := x.claims.mapIdx (fun i c => if i = n then g c else c) })

/-! ## Lane functions -/

/-- mode() of the instruction that invokes a lane function (R56, R221): its override, else the mode of its issue. -/
def laneMode (f : Flight) : RMode :=
  RMode.ofCode (if 4 ≤ (instrForm f.instr).mods.rnd.toNat then (instrForm f.instr).mods.rnd.toNat - 4 else f.rm)

/-- l[n] of an invocation. -/
def laneReg (x : LaneRun) (r : R6) : Word := x.l[r.toNat % 32]'(Nat.mod_lt _ (by decide))

/-- A lane result in an integer type extended to 32 bits, or a floating-point one zero-extended (R221). -/
def laneExtend (code : R6) (bits : Nat) : Word :=
  match code.toNat with
  | 5 => (BitVec.ofNat 8 bits).signExtend 32
  | 6 => (BitVec.ofNat 16 bits).signExtend 32
  | _ => BitVec.ofNat 32 bits

/-- The bits that a source type code has in a lane register. -/
def laneSource (x : LaneRun) (b a : R6) : Nat := (laneReg x a).toNat % 2 ^ (tyOf b.toNat 8).width

/-- The register that a lane instruction writes, its value and its flags (R89, R188, R190, R221), of the accepted type codes. LCVT of an abandoned
result leaves the destination type's, and none where that type has none (R60, R72). -/
def laneRule (m : RMode) (x : LaneRun) : Instr → Option (R6 × Word × Nat)
  | .ladd c b a d => some (two c b a d (fun p q => p + q) (addVal m))
  | .lsub c b a d => some (two c b a d (fun p q => p - q) (fun p q => addVal m p q.negate))
  | .lmul c b a d => some (two c b a d (fun p q => p * q) mulVal)
  | .ldiv c b a d => some (two c b a d (fun p q => if q = 0 then BitVec.allOnes 32 else if c = 3 then p / q else p.sdiv q) divVal)
  | .lmin c b a d => some (two c b a d (fun p q => if (if c = 3 then p ≤ q else p.toInt ≤ q.toInt) then p else q) (minMaxVal false))
  | .lmax c b a d => some (two c b a d (fun p q => if (if c = 3 then p ≤ q else p.toInt ≤ q.toInt) then q else p) (minMaxVal true))
  | .lfma c b a d => some (fp d (fmaVal m (val a) (val b) (val c)))
  | .land _ b a d => some (d, laneReg x a &&& laneReg x b, 0)
  | .lor _ b a d => some (d, laneReg x a ||| laneReg x b, 0)
  | .lxor _ b a d => some (d, laneReg x a ^^^ laneReg x b, 0)
  | .lshl _ b a d => some (d, laneReg x a <<< ((laneReg x b).toNat % 32), 0)
  | .lshr _ b a d => some (d, laneReg x a >>> ((laneReg x b).toNat % 32), 0)
  | .lsra _ b a d => some (d, (laneReg x a).sshiftRight ((laneReg x b).toNat % 32), 0)
  | .lcmp c b a d =>
    if c = 0x14 then
      some (d, if (val a).isNan || (val b).isNan then 2 else sign (ordVal (val a) (val b)), if (val a).isNan || (val b).isNan then 16 else 0)
    else if c = 3 then some (d, sign (compare (laneReg x a).toNat (laneReg x b).toNat), 0)
    else some (d, sign (compare (laneReg x a).toInt (laneReg x b).toInt), 0)
  | .lsel c b a d => some (d, if laneReg x c = 0 then laneReg x b else laneReg x a, 0)
  | .lcvt c b a d =>
    if abnBits b.toNat = some (laneSource x b a) then (abnBits c.toNat).map (fun r => (d, BitVec.ofNat 32 r, 0))
    else
      let r := convert (tyOf b.toNat 8) (tyOf c.toNat 8) m false (laneSource x b a)
      some (d, laneExtend c r.1, r.2)
  | .lclz _ a d => some (d, BitVec.ofNat 32 (if laneReg x a = 0 then 32 else 31 - Nat.log2 (laneReg x a).toNat), 0)
  | .lpopc _ a d => some (d, BitVec.ofNat 32 ((List.range 32).countP (fun i => (laneReg x a).getLsbD i)), 0)
  | .lexp2 _ a d => some (fp d (unVal .exp2 (val a)))
  | .llog2 _ a d => some (fp d (unVal .log2 (val a)))
  | .lrsq _ a d => some (fp d (unVal .rsq (val a)))
  | .lli i h d => some (d.zeroExtend 6, if h then i ++ (laneReg x (d.zeroExtend 6)).extractLsb' 0 14 else i.signExtend 32, 0)
  | .lmov _ a d => some (d, laneReg x a, 0)
  | _ => none
where
  val (r : R6) : FVal := fp32.value (laneReg x r).toNat
  fp (d : R6) (y : FVal × Nat) : R6 × Word × Nat := (d, BitVec.ofNat 32 (deliverFp fp32 m false y).1, (deliverFp fp32 m false y).2)
  two (c b a d : R6) (n : Word → Word → Word) (g : FVal → FVal → FVal × Nat) : R6 × Word × Nat :=
    if c = 0x14 then fp d (g (val a) (val b)) else (d, n (laneReg x a) (laneReg x b), 0)
  sign : Ordering → Word
    | .lt => 0xFFFFFFFF
    | .eq => 0
    | .gt => 1

/-- The lane-function instructions that compute into a lane register (R89). -/
def isLaneResult : Instr → Bool
  | .ladd _ _ _ _ | .lsub _ _ _ _ | .lmul _ _ _ _ | .lfma _ _ _ _ | .ldiv _ _ _ _ | .land _ _ _ _ | .lor _ _ _ _ | .lxor _ _ _ _ | .lshl _ _ _ _
  | .lshr _ _ _ _ | .lsra _ _ _ _ | .lcmp _ _ _ _ | .lsel _ _ _ _ | .lmin _ _ _ _ | .lmax _ _ _ _ | .lcvt _ _ _ _ | .lclz _ _ _ | .lpopc _ _ _
  | .lexp2 _ _ _ | .llog2 _ _ _ | .lrsq _ _ _ | .lli _ _ _ | .lmov _ _ _ => true
  | _ => false

/-- A tile instruction whose lane function traps (R91, R222): its unit is given up with the reads it has asked for, and it waits for its entry with the
trap, unless an earlier one does. %telem names the element where the cause has one (R299). -/
def laneStops (s : State) (f : Flight) (x : LaneRun) (t : TrapInfo) : State :=
  let e := x.els.getD 0 (0, 0)
  let telem : Dword := 1#1 ++ 0#42 ++ BitVec.ofNat 5 f.idx.plane ++ BitVec.ofNat 8 e.1 ++ BitVec.ofNat 8 e.2
  let t := { t with telem := if t.cause = 1 ∨ t.cause = 2 then 0 else telem, fmask := if f.fm.isSome then tileWord f.tile else 0, age := f.id }
  s.modMe (fun b => { b with
    flights := b.flights.map (fun (g : Flight) => if g.id = s.curFlight then { g with lane := none, fm := f.fm, idx := f.idx } else g)
    pend := b.pend.filter (fun p => !(p.isGet && p.agent == .t && p.seq == f.id))
    trapP := if b.trapP.any (fun o => decide (o.age ≤ f.id)) then b.trapP else some t })

/-- The lane-store bytes an invocation sees (R220): its unit's writes over the store's. -/
def laneSees (b : Block) (x : LaneRun) (key n : Nat) : List Byte := (List.range n).map (fun i => (x.writes.lookup (key + i)).getD (b.lane.get (key + i)))

/-- An input of an invocation (R219): the element of an operand, widened. -/
def laneInput (u : Ux) (o : Option Opnd) (e : Nat × Nat) : Nat × Nat := widen (u.loc o).t.etype (u.rd (u.loc o) e.1 e.2)

/-- The run as an invocation begins (R219): l1 to l3 the inputs, l4 the row, l5 the column, l6 the running value of TMAPR, every other register 0. -/
def laneBegun (u : Ux) (x : LaneRun) (e : Nat × Nat) : LaneRun :=
  let i := [u.f.a, u.f.b, u.f.c].map (fun o => laneInput u o e)
  let v := [0, (i.getD 0 (0, 0)).1, (i.getD 1 (0, 0)).1, (i.getD 2 (0, 0)).1, e.1, e.2, if isMapr u.f.instr then x.carry.toNat else 0]
  i.foldl (fun (y : LaneRun) r => y.flag e.1 e.2 r.2)
    { x with l := Vector.ofFn (fun k => BitVec.ofNat 32 (v.getD k.val 0)), lpc := laneEntry u.f, stack := [] }

/-- An invocation's inputs are readable (R219, R317): no poison, no abandoned result. -/
def LaneClean (u : Ux) (e : Nat × Nat) : Prop :=
  ∀ o ∈ [u.f.a, u.f.b, u.f.c], u.poison (u.loc o) e.1 e.2 e.1 e.2 = [] ∧ isAbn (u.loc o).t.etype (u.rd (u.loc o) e.1 e.2) = false

/-! ## Engines -/

/-- A dimension of a CPY6: its count, source stride and destination stride (R93). -/
def copyDim (c : EngCmd) (d : Nat) : Nat × Int × Int :=
  let base := if (c.dw.getD 0 0).getLsbD 11 then 5 else 3
  let n := c.dw.getD (base + 2 * d) 0
  let w := c.dw.getD (base + 2 * d + 1) 0
  ((n.extractLsb' 0 32).toNat, (w.extractLsb' 0 32).toInt, (w.extractLsb' 32 32).toInt)

/-- The dimensions of a CPY6, innermost first. -/
def copyDims (c : EngCmd) : List (Nat × Int × Int) := (List.range (((c.dw.getD 0 0).extractLsb' 8 3).toNat + 1)).map (copyDim c)

/-- The elements of the dimensions below the d-th. -/
def copyBelow (c : EngCmd) (d : Nat) : Nat := ((copyDims c).take d).foldl (fun m x => m * x.1) 1

/-- The offset of element i: the sum over d of i_d × stride_d, i_0 fastest (R93). -/
def copyOffset (c : EngCmd) (stride : Nat × Int × Int → Int) (i : Nat) : Int :=
  (List.range (copyDims c).length).foldl (fun m d => let x := copyDim c d; m + ((i / copyBelow c d % x.1 : Nat) : Int) * stride x) 0

/-- The source and the destination of element i of a CPY6: whether in shared store, and where. -/
def copyPlace (c : EngCmd) (i : Nat) : (Bool × Int) × (Bool × Int) :=
  (((c.dw.getD 0 0).getLsbD 13, (c.dw.getD 1 0).toNat + copyOffset c (fun x => x.2.1) i),
   ((c.dw.getD 0 0).getLsbD 15, (c.dw.getD 2 0).toNat + copyOffset c (fun x => x.2.2) i))

/-- The bytes of an index of a GTH and the index that its bytes hold (R95). -/
def gatherIndexBytes (h : Dword) : Nat := if h.extractLsb' 9 2 = 1 then 8 else 4
def gatherIndex (h : Dword) (v : Nat) : Int :=
  match (h.extractLsb' 9 2).toNat with
  | 0 => (BitVec.ofNat 32 v).toInt
  | 1 => (BitVec.ofNat 64 v).toInt
  | _ => v

/-- The source and the destination of element i of a GTH with its index: gather or scatter. -/
def gatherPlace (c : EngCmd) (i : Nat) (x : Int) : (Bool × Int) × (Bool × Int) :=
  let h := c.dw.getD 0 0
  let n : Nat := 2 ^ (h.extractLsb' 13 3).toNat
  let mem : Bool × Int := (false, (c.dw.getD 1 0).toNat + x * n)
  let data : Bool × Int := (true, (c.dw.getD 3 0).toNat + i * n)
  if h.getLsbD 8 then (data, mem) else (mem, data)

/-- Where an element of a command lies: its source and its destination, or the failure to find them (a GTH's index that cannot be read). -/
abbrev PlaceAt := State → Nat → Except EngFail ((Bool × Int) × (Bool × Int))

/-- The places of a GTH's element: its index is read from the shared store first (R95). -/
def gatherAt (blk : Nat) (c : EngCmd) : PlaceAt := fun s i =>
  let h := c.dw.getD 0 0
  let w := gatherIndexBytes h
  match (s.engRead blk c.id true (((c.dw.getD 2 0).toNat + i * w : Nat) : Int) w).1 with
  | .ok bs => .ok (gatherPlace c i (gatherIndex h (ofLe bs)))
  | .fail e => .error e
  | _ => .error { status := 6 }

/-- A started command at work: its element size, its elements, their places, the overlap of a copy's ranges (R93), and which elements read one
64-byte sector with the next. -/
structure Moving where
  blk : Nat
  c : EngCmd
  n : Nat
  total : Nat
  place : PlaceAt
  ov : Option (Int → Bool)
  same : Nat → Bool

/-- Element i is read: its places are aligned and its source gives its bytes. -/
def Moving.Reads (x : Moving) (i : Nat) (s t : State) (dst : Bool × Int) (bs : List Byte) : Prop :=
  ∃ src, x.place s i = .ok (src, dst) ∧ src.2 % (x.n : Int) = 0 ∧ dst.2 % (x.n : Int) = 0 ∧ s.engRead x.blk x.c.id src.1 src.2 x.n = (.ok bs, t)

/-- Element i cannot be read (R93, R94): no place; misaligned, the source before the destination; or its read fails. -/
def Moving.Refused (x : Moving) (i : Nat) (s : State) (e : EngFail) : Prop :=
  let off := fun (y : Bool × Int) => y.2 % (x.n : Int) ≠ 0
  let bad := fun (y : Bool × Int) => ({ status := 4, space := if y.1 then 1 else 0, addr := wrapBits 56 y.2 } : EngFail)
  x.place s i = .error e ∨ ∃ src dst, x.place s i = .ok (src, dst) ∧ ((off src ∧ e = bad src) ∨ (¬off src ∧ off dst ∧ e = bad dst) ∨
    (¬off src ∧ ¬off dst ∧ (s.engRead x.blk x.c.id src.1 src.2 x.n).1 = .fail e))

/-- Bytes read are written to their destination; those that the ranges share may each keep their old value (R93). -/
def Moving.Writes (x : Moving) (s t : State) (dst : Bool × Int) (bs : List Byte) : Prop :=
  ∃ u, s.engWrite x.blk x.c.id none dst.1 dst.2 bs = .ok u ∧ (x.ov = none → t = u) ∧ ∀ o, x.ov = some o → s.engMix x.blk x.c.id dst o bs = .ok t

/-- A run of m elements from the command's next one on that each read one sector with the next (R250). -/
def Moving.Together (x : Moving) (m : Nat) : Prop := x.c.pos + m ≤ x.total ∧ ∀ j, j + 1 < m → x.same (x.c.pos + j) = true

/-- The command after its next k elements: reads asked for are dropped, and it is ended where a status says so. -/
def Moving.after (x : Moving) (t : State) (k : Nat) (f : EngCmd → EngCmd) : State :=
  t.modBlk x.blk (fun b => { b with pend := b.pend.filter (fun p => !(p.isGet && p.agent == Agent.e && p.seq == x.c.id)) }.modCmd x.c.id
    (fun c => f { c with pos := c.pos + k }))

/-- A command that fails (R94). -/
def failed (e : EngFail) (c : EngCmd) : EngCmd := { c with status := some e.status, detail := e.detail, faddr := (taddrWord e.space e.addr).toNat }

/-- A command at its next element: the elements of the run that begins there are all read, then all written, in order; the last element of the command ends it
with STATUS 0; one that cannot be read or written ends it with its STATUS, the elements before it done. An element of another die or device is asked for
first. -/
def Moving.Next (i : Instr) (s : State) (x : Moving) : Prop :=
  (∀ (m : Nat) (rs ws : Nat → State) (dst : Nat → Bool × Int) (bs : Nat → List Byte), x.Together m → rs 0 = s → ws 0 = rs m →
    (∀ j, j < m → x.Reads (x.c.pos + j) (rs j) (rs (j + 1)) (dst j) (bs j)) →
    (0 < m → x.c.pos + m = x.total ∨ x.same (x.c.pos + m - 1) = false → (∀ j, j < m → x.Writes (ws j) (ws (j + 1)) (dst j) (bs j)) →
      exec i s = .next (x.after (ws m) m (fun c => if x.c.pos + m = x.total then { c with status := some 0 } else c))) ∧
    (x.c.pos + m < x.total → (0 < m → x.same (x.c.pos + m - 1) = true) → ∀ e, x.Refused (x.c.pos + m) (rs m) e →
      (∀ j, j < m → x.Writes (ws j) (ws (j + 1)) (dst j) (bs j)) → exec i s = .next (x.after (ws m) m (failed e))) ∧
    (0 < m → x.c.pos + m = x.total ∨ x.same (x.c.pos + m - 1) = false → ∀ k e, k < m → (∀ j, j < k → x.Writes (ws j) (ws (j + 1)) (dst j) (bs j)) →
      (ws k).engWrite x.blk x.c.id none (dst k).1 (dst k).2 (bs k) = .error e → exec i s = .next (x.after (ws k) k (failed e)))) ∧
  (x.c.pos < x.total → x.same x.c.pos = false ∨ x.c.pos + 1 = x.total → ∀ src dst, x.place s x.c.pos = .ok (src, dst) →
    src.2 % (x.n : Int) = 0 → dst.2 % (x.n : Int) = 0 →
    (∀ p t, s.engRead x.blk x.c.id src.1 src.2 x.n = (.ask p, t) → exec i s = .next (t.addE x.blk x.c.id p)) ∧
    (∀ t, s.engRead x.blk x.c.id src.1 src.2 x.n = (.wait, t) → exec i s = .next s))

/-- The participants of a COL at SCOPE 5 to 7 (R96): the blocks of the launch at BASEBLK + j for the bits j of PEERS, rising, each at its first started
collective command that is not finished. -/
def Gathered (s : State) (b : Block) (c : EngCmd) (ps : List (Nat × Nat × EngCmd)) : Prop :=
  ps.map (fun p => p.1) = (List.range 64).filter (fun j => (c.dw.getD 3 0).getLsbD j) ∧
  ∀ p ∈ ps, (∃ q, s.byIndex b.launch (((c.dw.getD 2 0).extractLsb' 32 32).toNat + p.1) = some (p.2.1, q)) ∧
    (s.blk p.2.1).cmds.find? (fun x => x.eng == 2 && x.status.isNone) = some p.2.2 ∧ p.2.2.told = none

/-- Whether the engines, stores and copy paths of a block's core run: its zone has not been emptied by an evacuation that is still under way or over (R354). -/
def EnginesRun (s : State) (blk : Nat) : Prop := (s.zone (zoneOf (s.blk blk).core)).state < 2

/-- Whether two collective commands agree (R96): in all but BUF, CWADDR, CWVAL and TAG. -/
def Agree (x c : EngCmd) : Prop :=
  (x.dw.getD 0 0).extractLsb' 0 32 = (c.dw.getD 0 0).extractLsb' 0 32 ∧ x.dw.getD 2 0 = c.dw.getD 2 0 ∧ x.dw.getD 3 0 = c.dw.getD 3 0

/-- Participants of collective commands whose commands name no block that is not one of them, each named block at a command that agrees with the one that names it or
names its block in turn. -/
def Closed (s : State) (l : Nat) (ps : List (Nat × Nat × EngCmd)) : Prop :=
  ∀ p ∈ ps, ((p.2.2.dw.getD 0 0).extractLsb' 20 4).toNat ≠ 8 ∧ ∀ j, j < 64 → (p.2.2.dw.getD 3 0).getLsbD j = true →
    ∃ q ∈ ps, (∃ b, s.byIndex l (((p.2.2.dw.getD 2 0).extractLsb' 32 32).toNat + j) = some (q.2.1, b)) ∧
      (Agree q.2.2 p.2.2 ∨ s.colNames q.2.2 (s.blk p.2.1).blkid = true)

/-- The address of element k of a participant's buffer. -/
def bufferAt (c : EngCmd) (k : Nat) : Nat := (c.dw.getD 1 0).toNat + k * codeBytes ((c.dw.getD 0 0).extractLsb' 14 6).toNat

/-- What a COL leaves at element k in the buffer of the participant with index j, of the elements vs of the participants in their order (R96, R225): the
combination of all; the root's, but at the root; the owner's of the slice, but at the owner. -/
def collected (c : EngCmd) (js : List Nat) (vs : List Nat) (j k : Nat) : Option Nat :=
  let h := c.dw.getD 0 0
  let code := (h.extractLsb' 14 6).toNat
  let slice := ((c.dw.getD 2 0).extractLsb' 0 32).toNat / js.length
  let from_ := fun (i : Nat) => if js.getD i 64 = j then none else vs[i]?
  match (h.extractLsb' 8 2).toNat with
  | 0 => some (collCombine (tyOf code 8) (h.extractLsb' 10 4).toNat none vs).1
  | 1 => (js.findIdx? (fun i => i == (h.extractLsb' 26 6).toNat)).bind from_
  | _ => if slice = 0 then none else from_ (k / slice)

/-- Whether two commands of a block may not run side by side (R251): their shared-store ranges meet and one of them writes there. -/
def Clash (lo hi : Nat) (w : Bool) (m : CmdMark) : Prop := (m.shw = true ∨ w = true) ∧ lo < m.hi ∧ m.lo < hi

/-- A complete command that an engine may start (R249, R251): the block's first for the engine; no earlier one of the block that is not completed clashes with it; the
accesses before its push performed at .dev. -/
structure CanStart (b : Block) (e : Nat) (m : CmdMark) : Prop where
  live : b.st = .ready ∨ (∃ w, b.st = .waiting w) ∨ b.st = .retiring
  first : b.marks.find? (fun x => x.eng == e) = some m
  marks : ∀ x ∈ b.marks, x.pushId < m.pushId → ¬Clash x.lo x.hi x.shw m
  cmds : ∀ c ∈ b.cmds, c.delivered = false → c.pushId < m.pushId →
    ¬Clash (cmdRange c.eng (c.dw.map BitVec.toNat)).1 (cmdRange c.eng (c.dw.map BitVec.toNat)).2.1 (cmdRange c.eng (c.dw.map BitVec.toNat)).2.2 m
  pend : ∀ p ∈ b.pend, p.isGet = false → p.agent = .c → p.id ≤ m.pushId → 3 ≤ p.done

/-- The dwords of a command from its header (R92). -/
def commandDwords (e : Nat) (h : Dword) : Nat :=
  match e with
  | 0 => 3 + (if h.getLsbD 11 then 2 else 0) + 2 * ((h.extractLsb' 8 3).toNat + 1)
  | 1 => 4 + (if h.getLsbD 11 then 2 else 0)
  | _ => 4 + (if h.getLsbD 24 then 2 else 0)

/-- A command's completion element (R94). -/
def completionElement (c : EngCmd) (st : Nat) : Dword :=
  let h := c.dw.getD 0 0
  let tag : BitVec 8 := if c.eng = 2 then h.extractLsb' 32 8 else h.extractLsb' 24 8
  BitVec.ofNat 32 (min c.pos 0xFFFFFFFF) ++ tag ++ 0#8 ++ BitVec.ofNat 8 st ++ h.extractLsb' 0 8

/-- The CW and CPL bits of a command, and its CWSCOPE (R93, R95, R96). -/
def commandCw (c : EngCmd) : Bool := (c.dw.getD 0 0).getLsbD (if c.eng = 2 then 24 else 11)
def commandCpl (c : EngCmd) : Bool := (c.dw.getD 0 0).getLsbD (if c.eng = 2 then 25 else 12)
def commandCwScope (c : EngCmd) : Nat := if c.eng = 1 then ((c.dw.getD 0 0).extractLsb' 16 4).toNat else ((c.dw.getD 0 0).extractLsb' 20 4).toNat
/-- The dword of a command that holds CWADDR; CWVAL follows it. -/
def commandCwAt (c : EngCmd) : Nat := if c.eng = 0 then 3 else 4

/-- The cause of a failing command with CPL = 0 (R94). -/
def failCause (st : Nat) : Nat :=
  match st with
  | 1 => 3
  | 2 => 4
  | 3 => 5
  | 4 => 2
  | 5 => 6
  | _ => 7

/-- The answer of the farm distributor to an ordinal (R97, R292): x, y, z of the tile, or the token past the iteration space. -/
def farmTile (x : Launch) (n : Nat) : Dword :=
  if n < x.x * x.y * x.z then 0#1 ++ BitVec.ofNat 21 (n / (x.x * x.y)) ++ BitVec.ofNat 21 (n / x.x % x.y) ++ BitVec.ofNat 21 (n % x.x) else BitVec.allOnes 64

/-! ## Units of tile instructions -/

/-- The element-wise instructions (R187 to R193). -/
def isElementWise : Instr → Bool
  | .tadd _ _ _ _ | .tsub _ _ _ _ | .tmul _ _ _ _ | .tdiv _ _ _ _ | .tmin _ _ _ _ | .tmax _ _ _ _ | .tscale _ _ _ _ | .tfma _ _ _ _
  | .tclamp _ _ _ _ | .tsel _ _ _ _ | .tsqrt _ _ _ | .trsq _ _ _ | .trcp _ _ _ | .texp2 _ _ _ | .tlog2 _ _ _ | .tabs _ _ _ | .tneg _ _ _
  | .tcmp _ _ _ _ _ | .tand _ _ _ _ | .tor _ _ _ _ | .txor _ _ _ _ | .tnot _ _ _ | .tshl _ _ _ _ | .tshr _ _ _ _ | .tsra _ _ _ _
  | .tclz _ _ _ | .tctz _ _ _ | .tpopc _ _ _ => true
  | _ => false

/-- The elements of a group (R7, R40): those of one row from the index to the next multiple of 16 columns. -/
def groupOf (t : Tsr) (i : Idx) : List (Nat × Nat) := (List.range (min t.cols (i.col / 16 * 16 + 16) - i.col)).map (fun k => (i.row, i.col + k))

/-- The index of the group after (R40): along the row, then the next row; none after the last. -/
def groupAfter (t : Tsr) (i : Idx) : Option Idx :=
  if i.col / 16 * 16 + 16 < t.cols then some { i with col := i.col / 16 * 16 + 16 }
  else if i.row + 1 < t.rows then some { i with row := i.row + 1, col := 0 } else none

/-- An element of an operand as its instance holds it. -/
def operandAt (b : Block) (o : Option Opnd) (e : Nat × Nat) : Nat := (o.map (fun o => b.elt o.tsr o.inst e.1 e.2)).getD 0

/-- What an element-wise instruction computes for an element, and its flags (R156, R187 to R193). -/
def elementResult (b : Block) (f : Flight) (e : Nat × Nat) : Nat × Nat :=
  let ty := tyMod (instrForm f.instr)
  let a := Opnd.tsrOf f.a
  let c := Opnd.tsrOf f.b
  let sign := if a.vclass = 0 then c.vclass = 1 else a.vclass = 1
  eltVal f.instr (laneMode f) (instrForm f.instr).mods ⟨(retype ty a).ty, (if bTyped f.instr then retype ty c else c).ty, (Opnd.tsrOf f.d).ty, (retype ty a).etype⟩
    sign (operandAt b f.a e) (operandAt b f.b e) (operandAt b f.c e)

/-- A block whose oldest tile instruction in flight is f, free to go on: it is Ready, no trap waits, its zone's lane groups run; no access of f is pending. -/
structure Oldest1 (s : State) (blk : Nat) (f : Flight) (done rest : List Flight) : Prop where
  awake : s.asleep = false
  st : (s.blk blk).st = .ready ∧ (s.blk blk).restoring = false ∧ (s.blk blk).trapP = none ∧ (s.zone (zoneOf (s.blk blk).core)).gated = false
  flights : (s.blk blk).flights = done ++ f :: rest
  older : f.fin = false ∧ (∀ g ∈ done, g.fin = true) ∧ ∀ g ∈ done ++ rest, g.id ≠ f.id
  plain : f.lane = none ∧ f.unit = none ∧ f.fm = none ∧ f.m = none ∧ f.sample = false
  pend : ∀ p ∈ (s.blk blk).pend, p.seq ≠ f.id

/-- The flights after a unit of f at an instant, which wrote the elements at cells: its index moves on and it has counted them, or it completes and leaves the
table with the completed ones behind it. -/
def afterUnit (now : Nat) (done : List Flight) (f : Flight) (rest : List Flight) (cells : List (Nat × Nat)) (next : Option Idx) : List Flight :=
  match next with
  | some i => done ++ { f.count (now - f.issued) cells with idx := i, units := f.units + 1 } :: rest
  | none => rest.dropWhile (fun g => g.fin)

/-- An MMAV that is to go on and holds no place of its cluster's cleat (R260). -/
def Unplaced (f : Flight) : Prop := f.fin = false ∧ isMmav f.instr = true ∧ ∀ c, f.verd = some c → c.placed = false

/-- A destination whose elements are stored with no bound, no monitor and no scale (R163), not a channel port. -/
def PlainDest (o : Opnd) : Prop := isChan o.name = false ∧ o.tsr.bpol = 0 ∧ o.tsr.monen = false ∧ o.tsr.pscale = false

/-- The .v forms of TMIN, TMAX and TSEL, which order or select abandoned results (R74, R193). -/
def ordersAbn (i : Instr) : Bool :=
  match i with
  | .tmin _ _ _ _ | .tmax _ _ _ _ | .tsel _ _ _ _ => (instrForm i).mods.v
  | _ => false

/-- A source of an instruction that can be read at an element: not a channel port, no poison, no abandoned result of the type code but in a form that orders them. -/
def CleanAt (b : Block) (i : Instr) (code : Nat) (e : Nat × Nat) (o : Opnd) : Prop :=
  isChan o.name = false ∧ b.eltPoison o.tsr o.inst e.1 e.2 = none ∧ (ordersAbn i = true ∨ isAbn code (b.elt o.tsr o.inst e.1 e.2) = false)

/-- The pending entry that a unit's write to the shared store leaves for the engines (R239, R250): the bytes it replaced, under the next name. -/
def Replaced (s : State) (b : Block) (f : Flight) (space : Nat) (n : Nat) (ps : List Pend) : Prop :=
  (space ≠ 0 → n = s.nextId ∧ ps = []) ∧
  (space = 0 → n = s.nextId + 1 ∧ ∃ old lo, ps = [{ id := s.nextId, agent := .t, kind := .shw old, addr := lo, done := 2, pc := b.pc, seq := f.id }] ∧ ∀ x ∈ old, x.2 = b.shared.get x.1)

/-- a(i,k) × s(k) of an MMAV in units of 2^-48 (R67). -/
def matrixTerm (b : Block) (f : Flight) (i c k : Nat) : Int :=
  let a := Opnd.tsrOf f.a
  let w := Opnd.tsrOf f.b
  units48 (mulVal (a.value (operandAt b f.a (i, k)) 0x3C00)
    (if w.pscale then fp16.value ((f.b.map (fun o => b.scaleBits o.tsr o.inst c k)).getD 0) else .fin false 1 0)).1

/-- The element of an MMAV after a plane's pass (R67, R261): its partial plus the plane's weight times the terms whose bit is set, while it is live. -/
def afterPass (b : Block) (f : Flight) (cl : Cleat) (p : Nat) (a : Nat) (e : Nat × Nat) : CleatEl :=
  let w := Opnd.tsrOf f.b
  let x := cl.els.getD a ⟨0, 0, false⟩
  if x.st ≠ 0 then x
  else passElt x (planeWeight (isSignedCode w.etype) w.planes p) ((List.range (Opnd.tsrOf f.a).cols).map (fun k =>
    (matrixTerm b f e.1 e.2 k, bitOf (operandAt b f.b (e.2, k)) (w.planes - 1 - p))))

/-- The elements of a tile, row by row. -/
def elementsOf (t : Tsr) : List (Nat × Nat) := (List.range t.rows).flatMap (fun r => (List.range t.cols).map (fun c => (r, c)))

/-! ## Events of a block -/

/-- A block that its wait lets go on. -/
def readyAgain (b : Block) : Block := { b with st := .ready, detWait := false, walkWait := none }

/-- Whether a port holds nothing to pop, or has no room (R27, R28, R97). -/
def portShut (b : Block) (q : Nat) : Bool :=
  let c := b.qcwOf q
  if q = 1 ∨ q = 3 ∨ q = 5 then c.count == 0 else decide (c.depth ≤ c.count) || (q == 6 && decide (2 ≤ b.fqs.length))

/-- The blocks of the order that hold back a block in deterministic mode are done (R255, R296, R333): those of lower index have arrived at a barrier at .die or beyond, or retired with
their atomics at their ports. -/
def LowerAreDone (s : State) (b : Block) : Prop :=
  b.blkid ≤ (s.lch b.launch).made ∧ ∀ e ∈ s.blocks, e.2.launch = b.launch → e.2.blkid < b.blkid →
    (e.2.st = .retired ∧ ∀ p ∈ e.2.pend, p.isRmw = true → p.pas = []) ∨ ∃ a, e.2.arrived = some a ∧ 6 ≤ a.sc.toNat

/-- A claim after a release that closes its epoch, or opens its first (R76, R230, R269). -/
def claimClosed (c : Claim) : Claim :=
  let sum := c.sum0 + c.sum1
  let last := (BitVec.ofInt 128 sum).toInt
  let fail := decide (c.bound < (last - c.ref).natAbs) || last != sum || (c.cfg.getLsbD 8 && c.eOutwin)
  let c0 := { c with sum0 := 0, sum1 := 0, eOutwin := false, eInexact := false }
  if c.opened then
    { c0 with last, fail, failed := c.failed || fail, ovf := c.ovf || last != sum, epochs := c.epochs + 1, ref := if c.cfg.getLsbD 6 then last else c.ref
              outwin := c.outwin || c.hOutwin || c.eOutwin, inexact := c.inexact || c.hInexact || c.eInexact }
  else { c0 with opened := true, hOutwin := c.hOutwin || c.eOutwin, hInexact := c.hInexact || c.eInexact }

/-- Whether a release at a scope closes a claim's epoch (R267). -/
def claimCloses (sc : BitVec 4) (c : Claim) : Bool := c.set && decide ((c.cfg.extractLsb' 0 4).toNat ≤ sc.toNat)

/-- Whether a claim that closes fails under policy trap (R230). -/
def claimTraps (sc : BitVec 4) (c : Claim) : Bool := claimCloses sc c && c.opened && (claimClosed c).fail && c.cfg.getLsbD 7

/-- A participant that its barrier releases (R17, R107, R137): it passes its BAR at once, the port of its mask popped, or, saved, when it resumes; under restore it
does both (R355). -/
def passed (b : Block) : Block :=
  match b.arrived with
  | none => b
  | some a =>
    let through := { pops b a.src.toList with arrived := none, pc := b.pc + BitVec.ofNat 56 a.len }
    match b.st with
    | .waiting _ => readyAgain through
    | .saved => { b with arrived := none, passed := some a }
    | _ => { through with passed := if b.restoring then some a else none }

/-- The participants that have arrived released, each with what its acquire of the release carries (log 96), everything else of the blocks and memory as it was. -/
def Released (s t : State) (ids : List Nat) : Prop :=
  (∀ i ∈ ids, t.blk i = if (s.blk i).arrived = none then s.blk i
    else passed { s.blk i with seenHalf := s.halfWrites, seenDirty := s.dirty.map (fun e => e.1) }) ∧
  (∀ j, j ∉ ids → t.blk j = s.blk j) ∧ t.mem = s.mem

/-- A launch after a release that all its blocks take part in: its epoch advances and the claims that the barrier covers close (R138, R230). -/
def epochClosed (sc : BitVec 4) (x : Launch) : Launch :=
  { x with epoch := x.epoch + 1, claims := x.claims.map (fun c => if claimCloses sc c then claimClosed c else c) }

/-- The MONITOR of a release of launches to each of its participants, where one of the launches has a claim that traps, the lowest such index its DETAIL (R270). -/
def monitored (s : State) (sc : BitVec 4) (ls ids : List Nat) (t : State) : State :=
  match (ls.filterMap (fun l => (s.lch l).claims.findIdx? (claimTraps sc))).min? with
  | none => t
  | some n => (ids.filter (fun i => (s.blk i).arrived.isSome)).foldl (fun (u : State) i => u.deliver i { cause := 12, detail := n }) t

/-- Launches all of whose blocks are made, not deterministic, and with nothing deferred. -/
def Whole (s : State) (ls : List Nat) : Prop :=
  (∀ l ∈ ls, (s.lch l).made = (s.lch l).total ∧ (s.lch l).det = false) ∧ ∀ d ∈ s.deferred, d.launch ∉ ls

/-- The state after a block is terminated (R322): every block of its launch retired, the launch completed, without its completion word, its queue halted with
error 0x10. -/
def LaunchEnded (s r : State) (blk : Nat) : Prop :=
  let b := s.blk blk
  (∀ j, (r.blk j).launch = b.launch → (r.blk j).st = .retired) ∧
  (r.lch b.launch).st = .completed ∧ (r.lch b.launch).terminated = true ∧
  (b.ctx < 64 → (s.lch b.launch).queue < 16 →
    ((r.ctx b.ctx).queue (s.lch b.launch).queue).halt = true ∧ ((r.ctx b.ctx).queue (s.lch b.launch).queue).err = 0x10)

/-! ## Launches -/

/-- The ERR of the first check a launch record fails (R279): a reserved value, a misaligned address, a priority above PMAX, a shape outside its bounds. -/
def recordError (pmax : Nat) (ds : List Nat) : Option Nat :=
  if recordReserved ds = true then some 0x01
  else if recordMisaligned ds = true then some 0x08
  else if pmax < fld (ds.getD 0 0) 12 8 then some 0x04
  else if recKind ds ≠ 2 ∧ recordShape ds = true then some 0x06
  else none

/-- The launch that a record of 128 bytes names (R277). -/
def recordLaunch (ctx q lidx : Nat) (bs : List Byte) (hdr : Header) : Launch :=
  let d := fun (i : Nat) => (BitVec.ofNat 64 (ofLe ((bs.drop (8 * i)).take 8)) : Dword)
  let n := fun (i lo len : Nat) => ((d i).extractLsb' lo len).toNat
  { ctx, queue := q, lidx, hdr, trsess := n 0 32 8, monc := n 0 24 4, cgsize := n 0 18 3, barr := (d 0).getLsbD 17, l1f := (d 0).getLsbD 16
    det := (d 0).getLsbD 15, heat := n 0 13 2, prio := n 0 8 5, kind := n 0 0 2, entry := (d 1).truncate 56, x := n 2 0 21, y := n 2 21 21, z := n 2 42 21
    pblk := n 3 0 32, argptr := d 4, argsize := BitVec.ofNat 64 (n 5 0 32), bbxBase := (d 6).toNat, cwaddr := (d 7).toNat, cwval := d 8, graph := (d 9).toNat }

/-- A record about a launch in its trace session (R371). -/
def launchTraced (s : State) (x : Launch) (kind v : Nat) : State :=
  s.record (s.sessionOf x) kind 1 0xFF 0 (x.queue * 2 ^ 48 + x.lidx % 2 ^ 16 * 2 ^ 32) [v]

/-- Whether the launch engine may fetch from a queue (R275, R323, R387). -/
structure CanFetch (s : State) (c q : Nat) : Prop where
  units : c < 64 ∧ q < 16
  quiet : s.resetting = false ∧ ∀ k, s.ckpt = some k → k.running = true → k.live = true
  ctx : (s.ctx c).en = true ∧ (s.ctx c).state ≠ 2 ∧ (s.ctx c).state ≠ 3
  queue : ((s.ctx c).queue q).open_ = true ∧ ((s.ctx c).queue q).halt = false ∧ ((s.ctx c).queue q).widx ≠ ((s.ctx c).queue q).ridx
  ahead : (s.launches.filter (fun e => e.2.ctx == c && e.2.queue == q && e.2.member.isNone && e.2.st == .fetched)).length < 2

/-! ## Placement and saves -/

/-- A block as it starts (R47): the argument words and its indices in s1 to s6, the header's tiles, queues, trap enables and timer period; every other register, and
the stores, 0. -/
def firstBlock (x : Launch) (l n : Nat) : Block :=
  let w := fun (v : Nat) => (BitVec.ofNat 64 v : Dword)
  let gx := if x.kind = 0 then n % x.x else 0
  let gy := if x.kind = 0 then n / x.x % x.y else 0
  let gz := if x.kind = 0 then n / (x.x * x.y) else 0
  { launch := l, ctx := x.ctx, blkid := n, gx, gy, gz, st := .ready, hdr := x.hdr, pc := x.entry
    s := Vector.ofFn (fun i => match i.val with
      | 1 => x.argptr
      | 2 => x.argsize
      | 3 => w n
      | 4 => w gx
      | 5 => w gy
      | 6 => w gz
      | _ => 0)
    tsr := Vector.ofFn (fun i => (x.hdr.tileDecl.lookup i.val).getD {}), qcw := Vector.ofFn (fun i => ⟨(x.hdr.queueDecl.lookup i.val).getD 0, 0⟩)
    mode := w (x.hdr.ten * 256), eptPeriod := x.hdr.ept }

/-! ## Registers of queues and contexts -/

/-- Whether a write of CTXCTL holds a reserved value (R284): a reserved bit, or a gap of 0. -/
def ctxctlReserved (v : Dword) : Prop :=
  v.extractLsb' 32 32 ≠ 0 ∨ v.extractLsb' 21 10 ≠ 0 ∨ v.extractLsb' 13 3 ≠ 0 ∨ v.extractLsb' 1 7 ≠ 0 ∨ v.extractLsb' 8 5 = 0

/-- The address and the bytes of the range that CTXINV names (R306, R315). -/
def invStart (v : Dword) : Nat := ((v.extractLsb' 18 38) ++ 0#18).toNat
def invLength (v : Dword) : Nat := match (v.extractLsb' 60 2).toNat with
  | 0 => 2 ^ 18
  | 1 => 2 ^ 24
  | 2 => 2 ^ 30
  | _ => 2 ^ 56

/-- Records of a queue that are fetched and have not started, members of a replay apart (R275). -/
def fetchedOf (s : State) (c q : Nat) : List (Nat × Launch) :=
  s.launches.filter (fun e => e.2.ctx == c && e.2.queue == q && e.2.member.isNone && e.2.st == .fetched)

/-! ## The host -/

/-- Whether a 64-byte sector holds a byte of n bytes at an offset, and whether all of it lies in them. -/
def touches (off n p : Nat) : Prop := 0 < n ∧ off / 64 ≤ p ∧ p ≤ (off + n - 1) / 64
def covers (off n p : Nat) : Prop := off ≤ p * 64 ∧ p * 64 + 64 ≤ off + n

/-- Whether no block has an access under way to a sector of some bytes. -/
def Unawaited (s : State) (off n : Nat) : Prop :=
  ∀ e ∈ s.blocks, ∀ q ∈ e.2.pend, q.isShared = true ∨ ∀ k ∈ q.pas, ∀ x ∈ sectorsOf k q.size, x ∉ sectorsOf off n

/-- Whether the bytes at an offset are poisoned (R317). -/
def poisoned (s : State) (off n : Nat) : Bool := s.poison.any (fun p => decide (0 < n ∧ off / 64 ≤ p ∧ p ≤ (off + n - 1) / 64))

/-- A PCIe AtomicOp as a read-modify-write (R256). -/
def atomicOpOf : AtomicOp → RmwOp
  | .fetchAdd => .add
  | .swap => .swap
  | .cas => .cas

/-! ## The side band -/

/-- The commands of the side-band port (R386), attestation through it among them (R388). -/
def isCommand : Instr → Bool
  | .regrd _ | .regwr _ _ | .warmrst | .ckpt _ _ _ | .ckstat | .qstep _ | .slewmax _ | .devid _ | .route _ _ | .fwupd _ => true
  | .spdmRequest r => !r.host
  | _ => false

/-- Those the recovery state answers (R386): REGRD of PARTID and CMID, and FWUPD. -/
def inRecovery : Instr → Bool
  | .regrd off => off == 0x000 || off == 0x008
  | .fwupd _ => true
  | _ => false

/-- The response of a command: status, dword and bytes. -/
def answered (s : State) (status : Nat) (d : Dword := 0) (bs : List Byte := []) : Host.Outcome State Fault Refusal :=
  .next { s with mgmt := { s.mgmt with lastStatus := status, lastData := d, lastBytes := bs } }

/-- The start of a warm reset with its cause (R323, R324, R387): which contexts survive is settled, and a running checkpoint is aborted and told. -/
def warmStarted (s : State) (cause : Byte) : State :=
  if s.resetting = true then s
  else
    let t := { s with resetting := true, rstCause := cause, survivors := (List.range 64).filter s.survives }
    match s.ckpt with
    | some k => if k.running = true then { t with ckpt := some { k with running := false, error := true }, msix := s.msix ++ [4] } else t
    | none => t

/-! ## Links -/

/-- A direction with the flits dropped that a number acknowledges, modulo 4,096; a number outside the buffer is stale (R337). -/
def acknowledged (x : LinkDir) (a : Nat) : LinkDir :=
  { x with buf := match x.buf with
    | [] => []
    | f :: _ => if (a + 4096 - f.seq) % 4096 ≤ x.buf.length then x.buf.drop ((a + 4096 - f.seq) % 4096) else x.buf }

/-- A direction with an acknowledgement alone sent in it: the number expected next, ahead of the flits on the wire (log 80). -/
def telling (x : LinkDir) (expect dev : Nat) : LinkDir := { x with wire := { seq := x.next, ack := expect, dev, msg := .idle } :: x.wire }

/-- A link after a retrain (R339): both directions resend every unacknowledged flit, and a replay, where there is one, counts once. -/
def resumed (l : Link) : Link :=
  { l with target := none, replay := if l.d0.buf = [] ∧ l.d1.buf = [] then l.replay else min (l.replay + 1) 0xFFFFFFFF, d0 := { l.d0 with wire := l.d0.buf, nak := none }, d1 := { l.d1 with wire := l.d1.buf, nak := none } }

/-! ## Errors and resets -/

/-- An uncorrectable error logged (R379, R380): counted, written with its time into entry IDX, which counts on, and signalled on vector 0. -/
def logged (s : State) (src : BitVec 4) (out : BitVec 3) (pa : BitVec 52) : State :=
  { s with
    ue := if s.ue = 0xFFFFFFFF then s.ue else s.ue + 1, errIdx := s.errIdx + 1, msix := s.msix ++ [0]
    errLog := s.errLog.setIfInBounds s.errIdx.toNat (BitVec.ofNat 64 s.qtb, 1#1 ++ src ++ out ++ 0#4 ++ pa) }

/-- An MMAV in flight starts over from pass 0, keeping its thresholds (R319). -/
def restarted (f : Flight) : Flight :=
  if f.fin = false ∧ isMmav f.instr = true then { f with idx := {}, verd := f.verd.map (fun c => { c with els := [] }) } else f

/-- A block after a warm reset that its context survives (R324, R325, R355): it owes no access, and a restore under way is abandoned. -/
def survived (b : Block) : Block :=
  if b.restoring = true then
    { b with pend := [], st := .saved, restoring := false, dem := 0, recs := b.stopRecs, flights := [], promoted := false, passedAt := none, defWait := none, walkWait := none, cleatWait := none, detWait := false }
  else { b with pend := [] }

/-! ## Coolant zones -/

/-- What a sensor event tells (R352, R380): a ZONE record to each open session of a launch with a block in the zone, the management controller, and the host on vector 1. -/
def told (s : State) (z ev : Nat) : State :=
  let slots := (List.range 32).filter (fun n => (s.slotOf n).en && s.blocks.any (fun e =>
    e.2.onCore && zoneOf e.2.core == z && (s.lch e.2.launch).ctx == (s.slotOf n).ctx && (s.lch e.2.launch).trsess == (s.slotOf n).id))
  let t := s.record slots 0x08 1 0xFF 0 0 [z, s.zstat z]
  { t with msix := t.msix ++ [1], mgmt := { t.mgmt with zoneNotices := t.mgmt.zoneNotices ++ [(z, ev)] } }

/-- The mark of an evacuation (R354, R355): the zone's state and time, its restores abandoned, its other blocks that can be saved saving with reason EVAC, every other
block as it was. -/
def Marked (s t : State) (z : Nat) : Prop :=
  (∀ n, n < 24 → t.zone n = if n = z then { s.zone z with state := 1, tdet := BitVec.ofNat 64 s.qtb, attempt := 0, gated := false, since := s.qtb } else s.zone n) ∧
  ((∀ e ∈ s.blocks, ∀ f ∈ e.2.flights, f.unit = none) → t.mem = s.mem ∧ t.msix = s.msix ∧ t.launches = s.launches) ∧
  ((∀ e ∈ s.blocks, ∀ f ∈ e.2.flights, f.unit = none) → s.blocks.Pairwise (fun a b => a.1 ≠ b.1) → ∀ e ∈ s.blocks,
    let here := e.2.onCore = true ∧ zoneOf e.2.core = z
    (here → e.2.restoring = true → (t.blk e.1).st = .saved ∧ (t.blk e.1).restoring = false ∧ (t.blk e.1).frame = e.2.frame) ∧
    (here → e.2.saveable = true → (t.blk e.1).st = .saving ∧ (t.blk e.1).reason = 17) ∧
    (¬here ∨ (e.2.restoring = false ∧ e.2.saveable = false) → t.blk e.1 = e.2))

/-- Allocated flow of all zones but one. -/
def otherFlow (s : State) (z : Nat) : Nat := ((List.range 24).map (fun n => if n = z then 0 else (s.zone n).alloc)).sum

/-! ## Trace sessions and stops -/

/-- Fields [lo + len - 1 : lo] of a written dword. -/
def bitsOf (v : Dword) (lo len : Nat) : Nat := (v.extractLsb' lo len).toNat

/-- Whether a write of TSCTL is discarded (R8, R369): a reserved value, or another ID, CTX or MODE while the slot is enabled. -/
def tsctlDiscarded (t : TraceSlot) (v : Dword) : Prop :=
  bitsOf v 56 7 ≠ 0 ∨ bitsOf v 46 2 ≠ 0 ∨ bitsOf v 34 6 ≠ 0 ∨ bitsOf v 14 2 ≠ 0 ∨ v.getLsbD 0 = true ∨ bitsOf v 48 8 = 0 ∨ 1 < bitsOf v 32 2 ∨
    (t.en = true ∧ (bitsOf v 48 8 ≠ t.id ∨ bitsOf v 40 6 ≠ t.ctx ∨ bitsOf v 32 2 ≠ t.mode))

/-! ## Issue -/

/-- A block about to issue: the first instruction that issues after a restore ends it, its frame free and its records' times counting from issue again (R306, R355;
log 77). -/
def issuing (s : State) (blk : Nat) : State :=
  let again := fun (f : Flight) => { f with issued := s.clock - f.issued }
  if (s.blk blk).restoring = true then
    (s.dropFrame (s.blk blk)).modBlk blk (fun b => { b with restoring := false, frame := none, passed := none, flights := b.flights.map again, recs := b.recs.map again })
  else s

/-- A block whose instruction has not issued, for it awaits a port or the deterministic hold and is tried again. -/
def portOrHold (b : Block) : Prop := (∃ q, b.st = .waiting (.port q)) ∨ (∃ q w, b.st = .waiting (.chan q w)) ∨ b.st = .waiting .det

/-- A block that has issued (R291): the youngest of its core's slots, no longer promoted, and the next slot first in a round robin. -/
def issuedBy (s : State) (blk : Nat) : State :=
  let b := s.blk blk
  { s with nextId := s.nextId + 1, rrNext := Tab.put s.rrNext b.core ((b.slot + 1) % 4) }.setBlk blk
    { b with lastIssue := s.nextId, promoted := false, readyAt := s.clock, defWait := none, walkWait := none }

/-- A core's turn, of a block whose order no other follows and that no restore leaves, comes to t; where a walk found no slot (R314), to nothing but
that the block awaits the walk of that address. -/
def Comes (s s0 : State) (blk : Nat) (alone : Prop) (t : State) : Prop :=
  (t.starved = none → step s = .next t) ∧
  ∀ va, t.starved = some va → alone → step s = .next (s0.modBlk blk (fun b => { b with walkWait := some va }))

/-- Another turn has the outcome o; where a walk found no slot (R314), it does not come about. -/
def TurnsInto (s s0 : State) (note : Nat → State → State) (o : Host.Outcome State Fault Refusal) : Prop :=
  (∀ u, o = .next u → (u.starved = none → step s = .next u) ∧ ∀ va, u.starved = some va → step s = .next (note va { s0 with starved := none })) ∧
  (∀ e, o = .fault e → step s = .fault e) ∧ ∀ e, o = .refused e → step s = .refused e

/-- A Ready block alone in its slot, not promoted (R291). -/
abbrev WaitsToIssue (s : State) (blk : Nat) : Prop :=
  let b := s.blk blk
  s.blocks.Pairwise (fun x y => x.1 ≠ y.1) ∧ (∀ e ∈ s.blocks, e.1 ≠ blk → e.2.onCore = true → e.2.core = b.core → e.2.slot ≠ b.slot) ∧ (blk, b) ∈ s.blocks ∧
    b.onCore = true ∧ b.issuable = true ∧ b.core < 192 ∧ b.promoted = false

end Sys2Proof.Claims

open Sys2Proof.Claims

/-- R26, R30, R110 to R115, R143, R146, R152, R154: a scalar instruction whose sources can be read writes its result to its destination (an integer result; the clock, a
special register, a queue's state, a zone's headroom and the heat classes it admits), and CMP its condition, but for k0; it pops the pop ports among
its sources, continues at the next instruction and changes nothing else. s0 reads 0 and k0 reads 1, and writes to either are discarded. -/
def Obligations.ScalarInstructionWritesResult : Prop :=
  (∀ (s : State) (i : Instr) (x : ScalarRule) (vs : List Dword), intRule s.me.cond i = some x ∨ readRule s i = some x → s.Goes x.form →
    (∀ n ∈ x.conds, s.me.busyK n = false) → x.srcs.map (srcValue s) = vs.map some → s.Ready x.dst →
    exec i s = .next (s.setMe ((pops (s.me.setReg x.dst (x.value vs)) x.srcs).past x.form))) ∧
  (∀ (s : State) (f : Form) (cc d a b : R6) (x y : Dword) (v : Bool), cmpCond cc x y = some v → s.Goes f →
    [a, b].map (srcValue s) = [some x, some y] → s.me.busyK d.toNat = false →
    exec (.cmp f cc d a b) s = .next (s.setMe ((pops (s.me.setCond d.toNat v) [a, b]).past f))) ∧
  (∀ b : Block, b.reg 0 = 0 ∧ b.cond 0 = true ∧ (∀ v, b.setReg 0 v = b) ∧ (∀ v, b.setCond 0 v = b) ∧
    (∀ r v, r ≠ 0 → (b.setReg r v).reg r = v) ∧ ∀ n v m, 0 < n → n < 8 → m < 8 → (b.setCond n v).cond m = if m = n then v else b.cond m)

/-- R24, R28, R81: an instruction that its condition register turns off only moves past itself, whatever its operands; a scalar integer instruction that
reads or writes a register to which a value is owed does nothing yet; MOV from an empty pop port makes the block wait on that port, its pc still at
the MOV. -/
def Obligations.InstructionSkippedOrHeld : Prop :=
  (∀ (s : State) (i : Instr) (x : Info), instrInfo i = some x → x.acc.cond = true → s.Skips x.form →
    exec i s = .next (s.setMe (s.me.past x.form))) ∧
  (∀ (s : State) (i : Instr) (x : ScalarRule), intRule s.me.cond i = some x → s.Goes x.form → (∀ r ∈ x.dst :: x.srcs, isPort r = false) →
    (∃ r ∈ x.dst :: x.srcs, s.me.busy r = true) → exec i s = .next (stalled s)) ∧
  (∀ (s : State) (f : Form) (d a : R6), popPort a = true → s.Goes f → (s.me.qcwOf (queueOf a)).v = true →
    bitOf s.me.hdr.roles (roleOf (queueOf a)) = true → (s.me.qcwOf (queueOf a)).count = 0 →
    exec (.mov f d a) s = .next (s.setMe { s.me with st := .waiting (.port (queueOf a)), detWait := false }))

/-- R57, R58, R108, R116, R117: FADD, FSUB, FMUL, FDIV, FMIN and FMAX write the rounded result and merge the flags into %fflags. They trap at themselves, with no
register, flag, queue or pc changed before the entry: on an abandoned result with VERDICT_USE (9), whatever the enables; else on an enabled flag with
FP (8) and DETAIL the first of NV, DZ, OF, UF, NX. -/
def Obligations.FloatArithmetic : Prop :=
  ∀ (s : State) (i : Instr) (x : FpRule) (va vb : Dword), fpRule i = some x → s.Goes x.form → [x.a, x.b].map (srcValue s) = [some va, some vb] →
    s.Ready x.dst →
    (isAbandoned x.p (fpOperand x.p va) = true ∨ isAbandoned x.p (fpOperand x.p vb) = true →
      exec i s = .next (s.takeTrap s.cur { cause := 9 })) ∧
    (isAbandoned x.p (fpOperand x.p va) = false → isAbandoned x.p (fpOperand x.p vb) = false →
      (trapFlag s.me (x.result s.me va vb).2 = none →
        exec i s = .next (s.setMe ((pops
          ({ s.me with fflags := s.me.fflags ||| BitVec.ofNat 64 (x.result s.me va vb).2 }.setReg x.dst (BitVec.ofNat 64 (x.result s.me va vb).1))
          [x.a, x.b]).past x.form))) ∧
      ∀ n, trapFlag s.me (x.result s.me va vb).2 = some n → exec i s = .next (s.takeTrap s.cur { cause := 8, detail := n }))

/-- R116, R118 to R120: FCMP writes its condition and merges NV where it is raised, or traps where NV is enabled, and on an abandoned result with VERDICT_USE (9); FCLASS writes the class mask; FCVT makes an abandoned
result of the source type that of the destination type, or traps with VERDICT_CONV (10), and converts any other value under R60, its flags merged unless
one traps with FP (8). -/
def Obligations.FloatCompareClassConvert : Prop :=
  (∀ (s : State) (f : Form) (p : Bool) (cc : BitVec 3) (d a b : R6) (va vb : Dword) (v nv : Bool), s.Goes f →
    [a, b].map (srcValue s) = [some va, some vb] → s.me.busyK d.toNat = false →
    fcmpCond cc ((if p then fp64 else fp32).value (fpOperand p va)) ((if p then fp64 else fp32).value (fpOperand p vb)) = some (v, nv) →
    exec (.fcmp f p cc d a b) s =
      if isAbandoned p (fpOperand p va) = true ∨ isAbandoned p (fpOperand p vb) = true then .next (s.takeTrap s.cur { cause := 9 })
      else if nv = true ∧ s.me.mode.getLsbD 12 = true then .next (s.takeTrap s.cur { cause := 8, detail := 4 })
      else .next (s.setMe ((pops
        ({ s.me with fflags := if nv then s.me.fflags ||| 16 else s.me.fflags }.setCond d.toNat v) [a, b]).past f))) ∧
  (∀ (s : State) (f : Form) (p : Bool) (d a : R6) (va : Dword), s.Goes f → srcValue s a = some va → s.Ready d →
    exec (.fclass f p d a) s = .next (s.setMe ((pops (s.me.setReg d (classMask p va)) [a]).past f))) ∧
  (∀ (s : State) (f : Form) (dt st d a : R6) (va : Dword), plainType dt = true → plainType st = true → s.Goes f → srcValue s a = some va →
    s.Ready d →
    let bits := va.toNat % 2 ^ (tyOf st.toNat 8).width
    let r := convert (tyOf st.toNat 8) (tyOf dt.toNat 8) (modeNow s.me f) f.mods.sat bits
    exec (.fcvt f dt st d a) s =
      if abnBits st.toNat = some bits then
        match abnBits dt.toNat with
        | some x => .next (s.setMe ((pops (s.me.setReg d (BitVec.ofNat 64 x)) [a]).past f))
        | none => .next (s.takeTrap s.cur { cause := 10 })
      else match trapFlag s.me r.2 with
        | some n => .next (s.takeTrap s.cur { cause := 8, detail := n })
        | none => .next (s.setMe ((pops ({ s.me with fflags := s.me.fflags ||| BitVec.ofNat 64 r.2 }.setReg d (cvtDeliver dt r.1)) [a]).past f)))

/-- R121, R127: BR, BRZ and BNZ go on at the target when the condition holds, and fall through when it does not; while a level is active, a taken
branch out of the innermost body is ILLEGAL with DETAIL 0x4804. (A body one of whose words cannot be read is taken up to that word: log 23.) -/
def Obligations.BranchGoesToTarget : Prop :=
  ∀ (s : State) (i : Instr) (x : BranchRule) (vs : List Dword), branchRule s.me.cond i = some x → s.Goes x.form →
    (∀ n ∈ x.conds, s.me.busyK n = false) → x.srcs.map (srcValue s) = vs.map some →
    exec i s =
      if x.taken vs then
        (if (s.me.nest.getLast?.map (fun l => s.inBody l (target s.me x.off))).getD true then
          .next (s.setMe (pops { s.me with pc := target s.me x.off } x.srcs))
        else illegal s 0x4804)
      else .next (s.setMe ((pops s.me x.srcs).past x.form))

/-- R122, R123: with no level active, JMP and CALL go to pc + 4 × sext(OFF24), CALL linking in s63; JR goes to s[A] without its top byte,
linking in s[D]; RET goes to s63. A target that is no multiple of 4 is ALIGN (2) at the jump, %taddr the target and no link written. While a level is active
(R127) each of the four is ILLEGAL with DETAIL 0x4804. -/
def Obligations.TransferGoesToTarget : Prop :=
  (∀ (s : State) (i : Instr) (f : Form), isTransfer i = some f → s.Goes f → s.me.nest ≠ [] → exec i s = illegal s 0x4804) ∧
  ∀ (s : State) (f : Form), s.Goes f → s.me.nest = [] →
    let link : Dword := (s.me.pc + BitVec.ofNat 56 f.bytes).zeroExtend 64
    (∀ off : BitVec 24, exec (.jmp f off) s = .next (s.setMe { s.me with pc := target s.me off })) ∧
    (∀ off : BitVec 24, s.me.busy 63 = false → exec (.call f off) s = .next (s.setMe { s.me.setReg 63 link with pc := target s.me off })) ∧
    (∀ (d a : R6) (v : Dword), srcValue s a = some v → s.Ready d → exec (.jr f d a) s =
      if v.toNat % 4 = 0 then .next (s.setMe { pops (s.me.setReg d link) [a] with pc := v.truncate 56 })
      else .next (s.takeTrap s.cur { cause := 2, taddr := (v.truncate 56).zeroExtend 64 })) ∧
    (s.me.busy 63 = false → exec (.ret f) s =
      if (s.me.reg 63).toNat % 4 = 0 then .next (s.setMe { s.me with pc := (s.me.reg 63).truncate 56 })
      else .next (s.takeTrap s.cur { cause := 2, taddr := ((s.me.reg 63).truncate 56).zeroExtend 64 }))

/-- R124 to R127: LOOPN. A count of 0 continues after the body, found by the lengths of its instructions; any other pushes a level that starts at the next instruction, unless six are
active; in a handler it is ILLEGAL. ENDLP at the last position of the innermost body counts the iteration and goes back to its start, or leaves the level; anywhere else it is ILLEGAL.
BRKL leaves the innermost level after its ENDLP when its condition holds, and falls through when it does not. -/
def Obligations.LoopLevels : Prop :=
  (∀ (s : State) (cnt : BitVec 13) (len : BitVec 5) (a : R6) (v : Dword), srcValue s a = some v →
     let count := if a = 0 then cnt.toNat else min v.toNat (2 ^ 32 - 1)
     let start := s.me.pc + 4
     (s.me.intrap = true → exec (.loopn cnt len a) s = illegal s 0x4805) ∧
     (s.me.intrap = false → count ≠ 0 → s.me.nest.length < 6 → exec (.loopn cnt len a) s =
       .next (s.setMe { pops { s.me with nest := s.me.nest ++ [{ start, lenm1 := len.toNat, count, index := 0 }] } [a] with pc := start })) ∧
     (s.me.intrap = false → count ≠ 0 → 6 ≤ s.me.nest.length → exec (.loopn cnt len a) s = illegal s 0x4803) ∧
     (s.me.intrap = false → count = 0 → ∀ x s', s.skip s.cur (len.toNat + 1) start = (.ok x, s') →
       exec (.loopn cnt len a) s = .next (s'.setMe { pops s'.me [a] with pc := x }))) ∧
  (∀ (s : State) (ns : List Level) (l : Level), s.me.nest = ns ++ [l] → s.atLast s.cur s.me.pc = true →
    exec .endlp s = if l.index + 1 < l.count then .next (s.setMe { s.me with nest := ns ++ [{ l with index := l.index + 1 }], pc := l.start })
      else .next (s.setMe { s.me with nest := ns, pc := s.me.pc + 4 })) ∧
  (∀ s : State, s.me.nest = [] ∨ s.atLast s.cur s.me.pc = false → exec .endlp s = illegal s 0x4801) ∧
  (∀ (s : State) (n : Bool) (k : BitVec 3), s.me.nest = [] → exec (.brkl n k) s = illegal s 0x4806) ∧
  (∀ (s : State) (n : Bool) (k : BitVec 3) (ns : List Level) (l : Level), s.me.nest = ns ++ [l] → s.me.busyK k.toNat = false →
    (s.me.cond k.toNat = n → exec (.brkl n k) s = .next (s.setMe { s.me with pc := s.me.pc + 4 })) ∧
    (s.me.cond k.toNat ≠ n → ∀ x s', s.skip s.cur (l.lenm1 + 1) l.start = (.ok x, s') →
      exec (.brkl n k) s = .next (s'.setMe { s'.me with nest := s'.me.nest.dropLast, pc := x })))

/-- R129, R130, R132 to R134: LD, ST, AMO and CAS. A misaligned address is ALIGN (2) at the instruction before any other check, %taddr holding it; an aligned one
whose translation faults traps with the fault's cause and DETAIL; on one that translates, with nothing on the way, the access joins the block's pending
ones, with its ordering and scope, source ports are popped and the pc moves on; the pops of an instruction that its access keeps under way come with that access (log
93, the model's choice). Registers keep their values until the access is performed. -/
def Obligations.GlobalAccessIsIssued : Prop :=
  ∀ (s : State) (i : Instr) (x : AccessRule) (vs : List Dword), accessRule i = some x → s.Goes x.form → x.srcs.map (srcValue s) = vs.map some →
    (∀ d, x.field = some d → s.Ready d) →
    (x.addr vs % x.bytes ≠ 0 → exec i s = .next (s.takeTrap s.cur { cause := 2, taddr := taddrOf 0 (x.addr vs) })) ∧
    (x.addr vs % x.bytes = 0 → s.me.mayAccess = true →
      (∀ e s1, s.translate s.me.master x.need (x.addr vs) = (.error e, s1) →
        exec i s = .next (s1.takeTrap s.cur { cause := e.cause, detail := e.detail, taddr := taddrOf 0 (x.addr vs) })) ∧
      ∀ t s1, s.translate s.me.master x.need (x.addr vs) = (.ok t, s1) → x.clear s1 t →
        let s2 := issued (x.watched s1 s.cur (x.addr vs)) (x.pend vs t)
        exec i s = .next (s2.setMe ((popsOf s2.me (x.watched s1 s.cur (x.addr vs)).nextId (x.pend vs t) x.srcs).past x.form)))

/-- R131, R246: LDS and STS. A misaligned offset is ALIGN (2), one beyond the declared bytes PROTECT (4, DETAIL 7), both with %taddr.SPC 01; while an acquire
of the control lane is not performed, the access waits; else LDS writes the extended value its control lane sees, and STS joins the pending accesses. -/
def Obligations.SharedStoreAccess : Prop :=
  (∀ (s : State) (f : Form) (imm : BitVec 9) (sz : BitVec 3) (d a : R6) (base : Dword), s.Goes f → srcValue s a = some base → s.Ready d →
    let o := addressM f imm (szBytes sz) base
    (o % szBytes sz ≠ 0 → exec (.lds f imm sz d a) s = .next (s.takeTrap s.cur { cause := 2, taddr := taddrOf 1 o })) ∧
    (o % szBytes sz = 0 → s.me.hdr.shared < o + szBytes sz →
      exec (.lds f imm sz d a) s = .next (s.takeTrap s.cur { cause := 4, detail := 7, taddr := taddrOf 1 o })) ∧
    (o % szBytes sz = 0 → o + szBytes sz ≤ s.me.hdr.shared → s.me.mayAccess = false → exec (.lds f imm sz d a) s = .next (stalled s)) ∧
    (o % szBytes sz = 0 → o + szBytes sz ≤ s.me.hdr.shared → s.me.mayAccess = true → badWords s.me.poisonSh o (szBytes sz) = true →
      exec (.lds f imm sz d a) s = .next (s.takeTrap s.cur { cause := 5, detail := 4, taddr := taddrOf 1 o })) ∧
    (o % szBytes sz = 0 → o + szBytes sz ≤ s.me.hdr.shared → s.me.mayAccess = true → badWords s.me.poisonSh o (szBytes sz) = false →
      exec (.lds f imm sz d a) s = .next (s.setMe ((pops (s.me.setReg d (extended sz (ofLe (s.me.sharedC o (szBytes sz))))) [a]).past f)))) ∧
  (∀ (s : State) (f : Form) (imm : BitVec 9) (sz : BitVec 3) (d a : R6) (base v : Dword), s.Goes f → srcValue s a = some base → srcValue s d = some v →
    let o := addressM f imm (szBytes sz) base
    (o % szBytes sz ≠ 0 → exec (.sts f imm sz d a) s = .next (s.takeTrap s.cur { cause := 2, taddr := taddrOf 1 o })) ∧
    (o % szBytes sz = 0 → s.me.hdr.shared < o + szBytes sz →
      exec (.sts f imm sz d a) s = .next (s.takeTrap s.cur { cause := 4, detail := 7, taddr := taddrOf 1 o })) ∧
    (o % szBytes sz = 0 → o + szBytes sz ≤ s.me.hdr.shared → s.me.mayAccess = false → exec (.sts f imm sz d a) s = .next (stalled s)) ∧
    (o % szBytes sz = 0 → o + szBytes sz ≤ s.me.hdr.shared → s.me.mayAccess = true →
      let s2 := issued s { id := 0, agent := .c, kind := .shc (leBytes (szBytes sz) v.toNat), addr := o }
      exec (.sts f imm sz d a) s = .next (s2.setMe ((pops s2.me [a, d]).past f))))

/-- R27 to R29, R92, R97, R251: a result bound for a queue port. A command port: a full queue makes the block wait; a dword that begins a command with a bad header traps with QPORT (7), nothing
changed; a dword that leaves its command incomplete is appended, COUNT and TAIL moving on; the last dword of a command is appended and the command marked, or, when its dwords hold a
reserved value, QPORT is taken with the whole command out of the queue. The farm port: two unanswered queries make the block wait; a bad dword traps with QPORT, its DETAIL the lowest
offending bit, 0x0B05 for an answer outside the block's shared store, 0x0B04 outside a farm; else it is appended and the query counted. A result for the trace port leaves its marker, a
record of kind 0x07 with the value, and no dword behind. (Which fault an index list, a data address or a dword with several faults has: log 85.) -/
def Obligations.QueuePortPush : Prop :=
  ∀ (s : State) (i : Instr) (x : Valued) (vs : List Dword), valued s i = some x → s.Goes x.form →
    (∀ n ∈ x.conds, s.me.busyK n = false) → x.srcs.map (srcValue s) = vs.map some → s.me.busy x.dst = false → x.plain vs = true →
    let q := queueOf x.dst
    let c := s.me.qcwOf q
    let v := x.value vs
    let p := s.me.openCmd q c.count 0
    let ds := s.me.queueDwords q p (c.count - p) ++ [v.toNat]
    let port : Dword := 1#1 ++ 1#1 ++ 0#48 ++ BitVec.ofNat 6 q ++ 0#8
    let done := fun (s : State) (b : Block) => Host.Outcome.next (φ := Fault) (ρ := Refusal)
      (s.setMe ((pops { b with fflags := b.fflags ||| BitVec.ofNat 64 (x.flags vs) } x.srcs).past x.form))
    c.v = true → bitOf s.me.hdr.roles (roleOf q) = true →
    (x.dst = 48 ∨ x.dst = 50 ∨ x.dst = 52 →
      (c.depth ≤ c.count → exec i s = .next (s.setMe { s.me with st := .waiting (.port q), detWait := false })) ∧
      (c.count < c.depth → p = c.count → ∀ n, headerFault (q / 2) v.toNat (s.me.qcwOf (q + 1)).v = some n →
        exec i s = .next (s.takeTrap s.cur { cause := 7, detail := n, tport := port })) ∧
      (c.count < c.depth → (p = c.count → headerFault (q / 2) v.toNat (s.me.qcwOf (q + 1)).v = none) → p ≤ c.count →
        (ds.length < cmdLen (q / 2) (ds.getD 0 0) → exec i s = done s (pushed s.me q v)) ∧
        (cmdLen (q / 2) (ds.getD 0 0) ≤ ds.length → bodyFault (q / 2) ds = none → exec i s = done { s with nextId := s.nextId + 1 }
          { pushed s.me q v with marks := s.me.marks ++ [{ eng := q / 2, pushId := s.nextId, at_ := s.nextId, lo := (cmdRange (q / 2) ds).1
                                                           hi := (cmdRange (q / 2) ds).2.1, shw := (cmdRange (q / 2) ds).2.2 }] }) ∧
        (cmdLen (q / 2) (ds.getD 0 0) ≤ ds.length → ∀ n, bodyFault (q / 2) ds = some n →
          exec i s = .next ((s.setMe (s.me.setQcw q (c.unpushed (c.count - p)))).takeTrap s.cur { cause := 7, detail := n, tport := port })))) ∧
    (c.count < c.depth →
      (x.dst = 54 → 2 ≤ s.me.fqs.length → exec i s = .next (s.setMe { s.me with st := .waiting (.port q), detWait := false })) ∧
      (x.dst = 54 → s.me.fqs.length < 2 →
        (∀ n, fqFault s v.toNat = some n → exec i s = .next (s.takeTrap s.cur { cause := 7, detail := n, tport := port })) ∧
        (fqFault s v.toNat = none → exec i s = done s { pushed s.me q v with
          fqs := s.me.fqs ++ [{ cval := v.extractLsb' 32 32, ans := (v.extractLsb' 8 20).toNat, m := s.me.fqN }], fqN := s.me.fqN + 1 })) ∧
      (x.dst = 55 →
        let b := pushed s.me q v
        let s' := (s.setMe (b.setQcw q ((b.qcwOf q).popped 1))).blkRecord s.me 0x07 1 [v.toNat]
        exec i s = done s' s'.me))

/-- R129, R235, R236, R239: a pending relaxed load, performed at any scope, writes its register, extended, and is gone. Its bytes come from the core's L1
where a copy is held, else from memory, leaving a copy of the sector behind when the page is cacheable; memory and every other block are
unchanged. A pending store, performed at a scope of .core or wider, writes exactly its bytes; registers and every other block are
unchanged. Performed at .persist it is gone; before that it stays to be performed further. (An L1 that already holds 2,048
sectors loses another copy, a free one: log 89.) -/
def Obligations.LoadAndStoreArePerformed : Prop :=
  (∀ (s : State) (blk k : Nat) (p : Pend) (rest : List Pend) (sz : BitVec 3) (d : R6) (sc : BitVec 4), Oldest s blk p rest k → p.kind = .rd sz d →
    p.ord = 0 → p.scope = 0 → p.done < sc.toNat → 2 ≤ sc.toNat → sc.toNat ≤ 11 →
    let b := s.blk blk
    let n := 2 ^ (sz.toNat % 4)
    let done := fun (s : State) (v : Nat) => Host.Outcome.next (φ := Fault) (ρ := Refusal) (s.setBlk blk (({ b with pend := rest } : Block).setReg d (extended sz v)))
    k % 64 + n ≤ 64 → s.deferredAt blk k n = false → p.pops = [] →
    (p.cacheable = false → s.homePoison (k / 64 * 64) 64 = none → exec (.accessPerformed blk 0 sc) s = done s (s.mem.num k n)) ∧
    (p.cacheable = true → s.l1Copy b.core (k / 64) = none → s.homePoison (k / 64 * 64) 64 = none →
      (s.l1Of (s.l1Core b.core (k / 64 * 64))).length < 2048 →
      exec (.accessPerformed blk 0 sc) s = done (s.l1Set b.core (k / 64) (s.mem.read (k / 64 * 64) 64)) (s.mem.num k n)) ∧
    (p.cacheable = true → ∀ x c, s.l1Copy b.core (k / 64) = some (x :: c) →
      exec (.accessPerformed blk 0 sc) s = done s (ofLe (((x :: c).drop (k % 64)).take n)))) ∧
  (∀ (s : State) (blk k : Nat) (p : Pend) (rest : List Pend) (bs : List Byte) (sc : BitVec 4), Oldest s blk p rest k → p.kind = .wr bs →
    p.pas = [k] → s.queueFull k = false → p.done < sc.toNat → 4 ≤ sc.toNat → sc.toNat ≤ 11 →
    ∃ t, exec (.accessPerformed blk 0 sc) s = .next t ∧
      (∀ a, Mem.get t.mem a = if k ≤ a ∧ a < k + bs.length then bs.getD (a - k) 0 else Mem.get s.mem a) ∧
      t.blk blk = { s.blk blk with
        pend := if sc = 11 then rest else { p with pas := [], done := sc.toNat, stamp := if p.stamp = 0 then s.nextId else p.stamp } :: rest } ∧
      ∀ j, j ≠ blk → t.blk j = s.blk j)

/-- R132, R133, R254, R318, R332: a pending atomic, not deferred, executes at its home port once, while the port's write queue has an entry for it: its location
takes the new value, every other byte keeps its own, and a returning atomic writes the old value, zero-extended, to its register. One that finds its bytes
poisoned traps with POISON, its own address in %tpc; while the write queue is full it waits. (That trap, and when an entry of the write queue is free: log 71 and log 12.) -/
def Obligations.AtomicIsPerformed : Prop :=
  ∀ (s : State) (blk k w : Nat) (p : Pend) (rest : List Pend) (op : RmwOp) (x y : Dword) (d : R6) (ret : Bool) (sc : BitVec 4),
    Oldest s blk p rest k → p.kind = .rmw op w x y d ret → w = 4 ∨ w = 8 → (∀ o e, op ≠ .red o e) → p.pas = [k] → isFarKey k = false →
    p.done < sc.toNat → 4 ≤ sc.toNat → sc.toNat ≤ 11 → s.detOn (s.blk blk) = false ∨ ret = true →
    let old := s.mem.num k w
    (s.queueFull k = true → ∃ t, exec (.accessPerformed blk 0 sc) s = .next t ∧ t.mem = s.mem ∧ t.blocks = s.blocks) ∧
    (s.queueFull k = false → p.agent = .c → (s.blk blk).trapP = none → ∀ n, s.homePoison k w = some n → ∃ t, exec (.accessPerformed blk 0 sc) s = .next t ∧ t.mem = s.mem ∧
      (t.blk blk).pend = rest ∧ (t.blk blk).trapP = some { cause := 5, detail := n, taddr := taddrOf 0 p.addr, age := p.id, now := true, pc := some p.pc }) ∧
    (s.queueFull k = false → s.homePoison k w = none → ∃ t, exec (.accessPerformed blk 0 sc) s = .next t ∧
      t.mem.num k w = (rmwResult op (8 * w) (BitVec.ofNat _ old) (BitVec.ofNat _ x.toNat) (BitVec.ofNat _ y.toNat)).toNat ∧
      (∀ a, a < k ∨ k + w ≤ a → Mem.get t.mem a = Mem.get s.mem a) ∧
      (∀ r, (t.blk blk).reg r = if ret = true ∧ r = d ∧ r ≠ 0 then BitVec.ofNat 64 old else (s.blk blk).reg r) ∧
      ((t.blk blk).pc = (s.blk blk).pc ∧ (t.blk blk).k = (s.blk blk).k ∧ ∀ q ∈ (t.blk blk).pend, q.id = p.id → q.dest = p.dest ∧ 10 ≤ q.done) ∧
      ∀ j, j ≠ blk → t.blk j = s.blk j)

/-- R135, R136, R246: FENCE.CT, FENCE.TC and FENCE.ALL go on once every access they cover, and every write ordered before those, is performed at their scope,
discarding the L1 copies narrower than it; at .persist what was ordered before them is durable (R258; what an acquire carries: log 96),
and the latter two order the datapath's accesses before the control lane's later ones; until then the block stays at the fence. FENCE.TT goes on at once, leaving its mark between the block's tile instructions. TDRAIN goes on once every tile
instruction of the block has completed and its reductions have reached their ports; until then it waits. (What a fence at .persist waits for: log 43.) -/
def Obligations.FencesAndDrain : Prop :=
  (∀ (s : State) (i : Instr) (x : FenceRule), fenceRule i = some x → s.Goes x.form →
    let passed := (x.tiles = true → TilesDone s.me) ∧ Settled s.me x.agents x.sc.toNat ∧ SeenDone s s.me x.sc.toNat
    let t := (if x.sc = 11 then s.persistSeen s.me else s).acquire s.cur x.sc.toNat
    (passed → exec i s = .next (t.setMe ((if x.tiles = true then ordered t.me else t.me).past x.form))) ∧
    (¬passed → exec i s = .next (stalled s))) ∧
  (∀ (s : State) (f : Form) (sc : BitVec 4), s.Goes f → exec (.fenceTt f sc) s =
    .next ({ s with nextId := s.nextId + 1 }.setMe ({ s.me with fences := s.me.fences ++ [(s.nextId, sc.toNat)] }.past f))) ∧
  (∀ (s : State) (f : Form), s.Goes f →
    (TilesDone s.me → ReductionsSent s.me → exec (.tdrain f) s = .next (s.setMe (s.me.past f))) ∧
    (¬(TilesDone s.me ∧ ReductionsSent s.me) → exec (.tdrain f) s = .next (stalled s)))

/-- R107, R137, R139: BAR. Once its block's tile instructions and accesses are complete at its scope, the block has arrived and waits, its pc at the BAR; until
then it stays at the BAR without arriving; an arrived block only waits on. At .domain the mask comes from s[A], whose port is not popped before the BAR
completes, and must name this device (QPORT, 0x0B01). (What other devices are told, and when: log 17.) -/
def Obligations.BarrierArrival : Prop :=
  ∀ (s : State) (f : Form) (sc : BitVec 4) (a : R6), s.Goes f →
    let ready := TilesDone s.me ∧ Settled s.me [.c, .t] sc.toNat ∧ SeenDone s s.me sc.toNat
    let arrive := fun (mask : Dword) (src : Option R6) => Host.Outcome.next (φ := Fault) (ρ := Refusal)
      (s.setMe { s.me with st := .waiting (.bar sc), detWait := false, arrived := some { sc, mask, src, len := f.bytes } })
    (s.me.arrived ≠ none → exec (.bar f sc a) s = .next (s.setMe { s.me with st := .waiting (.bar sc), detWait := false })) ∧
    (s.me.arrived = none → sc ≠ 8 → (ready → exec (.bar f sc a) s = arrive 0 none) ∧ (¬ready → exec (.bar f sc a) s = .next (stalled s))) ∧
    (s.me.arrived = none → sc = 8 → ∀ v, srcValue s a = some v →
      (v.toNat.testBit s.devid.toNat = false → exec (.bar f sc a) s = .next (s.takeTrap s.cur { cause := 7, detail := 0x0B01 })) ∧
      (v.toNat.testBit s.devid.toNat = true → ¬ready → exec (.bar f sc a) s = .next (stalled s)) ∧
      (v.toNat.testBit s.devid.toNat = true → ready → exec (.bar f sc a) s = arrive v (some a)))

/-- R140: WAITA on an aligned, readable dword on this die's side, read past the L1. When the comparison holds, it writes the dword to s[D] and acquires at .dev; when it
does not, the block waits on the address, its pc at the WAITA and no register written. The dword is memory's where no write to it is on its way. -/
def Obligations.WaitOnAddress : Prop :=
  ∀ (s s1 s2 : State) (i : Instr) (f : Form) (holds : Dword → Dword → Bool) (n : Nat) (d a b : R6) (va v : Dword) (x : Xl) (bs : List Byte),
    waitRule i = some (f, holds, n, d, a, b) → s.Goes f → srcValue s a = some va → srcValue s b = some v → s.Ready d →
    va.toNat % 8 = 0 → s.me.pend = [] → s.translate s.me.master { r := true } va.toNat = (.ok x, s1) → s1.deferredAt s.cur x.rkey 8 = false →
    s1.linkTo (dieOf s.me.core) x.rkey = none → s1.gRead s.me.core 7 x.c false x.rkey 8 = (.ok bs, s2) →
    let m : Dword := BitVec.ofNat 64 (ofLe bs)
    let s3 := s2.watch s.cur va.toNat 8 false
    let s4 := s3.acquire s.cur 7
    (holds m v = true → exec i s =
      .next (s4.setMe ((pops (s4.me.setReg d m) [a, b]).past f))) ∧
    (holds m v = false → exec i s =
      .next (s3.setMe { s3.me with st := .waiting (.addr n va.toNat v d a b f.bytes), detWait := false })) ∧
    ((∀ e ∈ s.blocks, ∀ q ∈ e.2.pend, q.stamp = 0) → x.rkey % 64 + 8 ≤ 64 → ofLe bs = s1.mem.num x.rkey 8)

/-- R21, R141, R144, R145, R150: SLPT goes on at once when its instant is no later than the QTB, and else waits for it; YIELD and NOP only go on; BBX counts its
basic block when the launch gathers counts. EXIT makes the block retire: no later instruction of it issues; in a handler the held progress records, the
interrupted nest and the fault mask go with it; registers, pc and memory keep their values. -/
def Obligations.SleepYieldCountExit : Prop :=
  ∀ (s : State) (f : Form), s.Goes f →
    (∀ (a : R6) (t : Dword), srcValue s a = some t → exec (.slpt f a) s =
      if t.toNat ≤ s.qtb then .next (s.setMe ((pops s.me [a]).past f))
      else .next (s.setMe { s.me with st := .waiting (.time t a f.bytes), detWait := false })) ∧
    exec (.yield_ f) s = .next (s.setMe (s.me.past f)) ∧ exec (.nop f) s = .next (s.setMe (s.me.past f)) ∧
    (∀ n : BitVec 12, exec (.bbx f n) s =
      if (s.lch s.me.launch).bbxBase = 0 then .next (s.setMe (s.me.past f))
      else .next (s.setMe ({ s.me with bbx := Tab.put s.me.bbx n.toNat (((Tab.get s.me.bbx n.toNat).getD 0 + 1) % 2 ^ 64) }.past f))) ∧
    (s.me.intrap = false → exec (.exit f) s = .next (s.setMe { s.me with st := .retiring, exitIssued := true })) ∧
    (s.me.intrap = true → exec (.exit f) s = .next (s.setMe { s.me with st := .retiring, exitIssued := true, recs := [], inest := [], fmask := 0 })) ∧
    ∀ t, exec (.exit f) s = .next t → t.me.issuable = false

/-- R44, R45, R147: WRSR writes the RW fields of a special register and nothing else, or raises ILLEGAL with the DETAIL of R147 and R400, the register
unchanged: a reserved encoding, %pix and %tpc outside a handler, %pix with no record held. -/
def Obligations.SpecialRegisterWrite : Prop :=
  ∀ (s : State) (f : Form) (n a : R6) (v : Dword), s.Goes f → srcValue s a = some v →
    (∀ b, specialWrite s.me n.toNat v = some b → exec (.wrsr f n a) s = .next (s.setMe ((pops b [a]).past f))) ∧
    (∀ d, specialFault s.me n.toNat v = some d → exec (.wrsr f n a) s = illegal s d)

/-- R301 to R303, R22, R322: taking a trap where the kernel has a handler and the block is not in one. A unit whose writes are sent commits first. The trap
registers are written from the trap, %tpc from the pc or the address the trap names; the unfinished tile instructions join the progress records, and the
reads they had asked for are dropped; the nest moves to where the handler's ERET finds it; the pc is the handler's. Scalar,
condition and special registers, tile records, queues and stores keep their values. A trap in a handler, or one of a kernel without a handler, terminates
the block with its whole launch: no block of the launch runs on, the launch is completed, its queue halts with error 0x10. (A trap withdraws an arrival
at a barrier: log 17.) -/
def Obligations.TrapIsTaken : Prop :=
  ∀ (s : State) (blk : Nat) (t : TrapInfo), t.cause ≠ 6 →
    let s0 := s.landUnits blk
    let b := s0.blk blk
    ((∀ f ∈ (s.blk blk).flights, f.unit = none) → s0 = s) ∧
    (∀ h, b.intrap = false → b.hdr.handler = some h →
      (s.takeTrap blk t).blk blk = { b with
        st := .ready, pc := h, intrap := true, inest := b.nest, nest := []
        tcause := BitVec.ofNat 64 (t.detail * 2 ^ 16 + t.cause), tpc := (t.pc.getD b.pc).zeroExtend 64, ttile := t.ttile, telem := t.telem, taddr := t.taddr
        tport := t.tport, fmask := t.fmask, recs := b.stopRecs, flights := [], pend := b.pend.filter (fun p => !p.isGet || p.agent == .e)
        trapP := none, exitIssued := false, detWait := false, cleatWait := none, defWait := none, walkWait := none, arrived := none } ∧
      ∀ j, j ≠ blk → (s.takeTrap blk t).blk j = s0.blk j) ∧
    (b.intrap = true ∨ b.hdr.handler = none → LaunchEnded s0 (s.takeTrap blk t) blk)

/-- R148, R149: TRAP takes TRAPINST (15) with its immediate as DETAIL and %tpc at the next instruction. ERET in a handler whose tile instructions are complete
goes back to %tpc with the interrupted nest, and puts the progress records in flight again, oldest first, each at its index, what they have sent into a
collective theirs still; until then it waits; outside a handler it is ILLEGAL (0x4807). -/
def Obligations.TrapAndReturn : Prop :=
  ∀ (s : State) (f : Form), s.Goes f →
    (∀ n : BitVec 12, exec (.trap f n) s = .next ((s.setMe (s.me.past f)).takeTrap s.cur { cause := 15, detail := n.toNat })) ∧
    (s.me.intrap = false → exec (.eret f) s = illegal s 0x4807) ∧
    (s.me.intrap = true → ¬(TilesDone s.me ∧ ReductionsSent s.me) → exec (.eret f) s = .next (stalled s)) ∧
    (s.me.intrap = true → TilesDone s.me → ReductionsSent s.me → ∃ (fs : List Flight) (marks : List (Nat × Nat)) (n : Nat) (r : Nat → Nat),
      exec (.eret f) s = .next (({ s with nextId := n }.setMe { s.me with
        pc := s.me.tpc.truncate 56, nest := s.me.inest, inest := [], intrap := false, eptNs := 0, recs := []
        flights := s.me.flights ++ fs, fences := marks }).modLch s.me.launch (fun x =>
          { x with sent := x.sent.map (fun (e : CollSent) => if e.blk = s.cur then { e with flight := r e.flight } else e) })) ∧
      fs.map unnamed = s.me.recs.map unnamed ∧ (∀ x ∈ fs, s.nextId ≤ x.id ∧ x.id < n) ∧ marks.map (fun m => m.2) = s.me.fences.map (fun m => m.2) ∧
      (∀ k, (∀ f ∈ s.me.recs, f.id ≠ k) → r k = k) ∧
      (s.me.recs.Pairwise (fun x y => x.id < y.id) → fs.Pairwise (fun x y => x.id < y.id) ∧ s.me.recs.map (fun f => r f.id) = fs.map (fun f => f.id)))

/-- R42, R151: QCFG. A definition that keeps the constraints is written with COUNT, HEAD and TAIL 0 when the queue is empty and no command owes it an element;
else it waits for started commands, or raises QPORT (7); one that breaks a constraint is ILLEGAL with 0x4000 plus the low bit of the
lowest offending field. (The order of these checks: log 86.) -/
def Obligations.QueueConfiguration : Prop :=
  ∀ (s : State) (f : Form) (n a : R6) (v : Dword), s.Goes f → srcValue s a = some v → n.toNat < 16 →
    let q := n.toNat
    let shared := s.me.hdr.shared
    let tile := (s.me.tsrOf (48 + q)).tileBytes
    let completion := q = 1 ∨ q = 3 ∨ q = 5
    let started := ∃ c ∈ s.me.cmds, c.eng = q / 2
    let owed := completion ∧ v.getLsbD 63 = false ∧ s.me.cplQueued (q - 1) (s.me.qcwOf (q - 1)).count 0 = true
    let port : Dword := 1#1 ++ 1#1 ++ 0#48 ++ BitVec.ofNat 6 q ++ 0#8
    (QueueSound q v shared tile ↔ qcwFault q v shared tile = none) ∧
    (∀ d, qcwFault q v shared tile = some d → exec (.qcfg f n a) s = illegal s (0x4000 + d)) ∧
    (QueueSound q v shared tile →
      (completion → started → exec (.qcfg f n a) s = .next (stalled s)) ∧
      (¬(completion ∧ started) → (s.me.qcwOf q).count ≠ 0 ∨ owed →
        exec (.qcfg f n a) s = .next (s.takeTrap s.cur { cause := 7, tport := port })) ∧
      (¬(completion ∧ started) → (s.me.qcwOf q).count = 0 → ¬owed → exec (.qcfg f n a) s =
        .next (s.setMe ((pops { s.me.setQcw q ⟨v &&& 0x8000070FFF0FFFFF, 0⟩ with shapes := Tab.del s.me.shapes q } [a]).past f))))

/-- R153: LAUNCH outside deterministic mode, on an aligned record on this die's side that can be read; while an access of the control lane, or one
ordered before it, is not performed at .dev it waits. It answers 3, 2 or 1 for no such queue, a closed one, a full one, with nothing appended; else it writes the record at slot WIDX of the queue's
ring, counts WIDX on, and answers 0. (Where that write faults, 2 and the context's fault: log 25.) -/
def Obligations.LaunchAppendsRecord : Prop :=
  ∀ (s : State) (f : Form) (d a b : R6) (va q : Dword), s.Goes f → srcValue s a = some va → srcValue s b = some q → s.Ready d →
    (¬(Settled s.me [.c] 7 ∧ SeenDone s s.me 7) → exec (.launch f d a b) s = .next (stalled s)) ∧
    ∀ (s1 s2 : State) (x : Xl) (bs : List Byte), va.toNat % 128 = 0 → s.me.pend = [] → SeenDone s s.me 7 → s.detOn s.me = false →
      s.translate s.me.master { r := true } va.toNat = (.ok x, s1) → s1.deferredAt s.cur x.rkey 128 = false → s1.linkTo (dieOf s.me.core) x.rkey = none →
      s1.gRead s.me.core 7 x.c true x.rkey 128 = (.ok bs, s2) →
      let s3 := s2.watch s.cur va.toNat 128 false
      let y := (s3.ctx s.me.ctx).queue q.toNat
      let done := fun (t : State) (v : Dword) => Host.Outcome.next (φ := Fault) (ρ := Refusal) (t.setMe ((pops (t.me.setReg d v) [a, b]).past f))
      (∀ v, launchRefused s3 q.toNat = some v → exec (.launch f d a b) s = done s3 v) ∧
      (launchRefused s3 q.toNat = none →
        (∀ s4, s3.engineWrite s.me.ctx (y.slot y.widx.toNat) bs = .ok s4 →
          exec (.launch f d a b) s = done (s4.modQueue s.me.ctx q.toNat (fun y => { y with widx := y.widx + 1 })) 0) ∧
        ∀ w, s3.engineWrite s.me.ctx (y.slot y.widx.toNat) bs = .error w →
          exec (.launch f d a b) s = done (s3.modCtx s.me.ctx (fun c => { c with state := 2, fq := BitVec.ofNat 4 q.toNat, faddr := BitVec.ofNat 56 w })) 2)

/-- R34, R38, R48, R167, R168: TSHAPE, TBIND, TBOUND, TMON and TVERD write their fields of a record that then keeps every constraint; a change of
shape waits until no tile instruction in flight names the tile, and sets INST to 0. A record that breaks a constraint is ILLEGAL with the
constraint's DETAIL and stays; so is an invalid tile (0xC000), but under TSHAPE. Registers, stores and other records keep their values.
(Those traps are taken after the older tile instructions: log 28; relations between fields of an unsound record: log 21.) -/
def Obligations.TileConfiguration : Prop :=
  ∀ (s : State) (i : Instr) (x : ConfigRule) (vs : List Dword), configRule i = some x → s.Goes x.form → x.srcs.map (srcValue s) = vs.map some →
    s.me.cmprOwes x.tile.toNat = false →
    let n := x.tile.toNat
    let t := s.me.tsrOf n
    let u := x.record s.me.pc t vs
    let fault := lowerOf (u.fault (s.limits s.me)) (portDepth n u)
    (x.valid = true → t.v = false → exec i s = .next (lateTrapOf s { cause := 1, detail := 0xC000 })) ∧
    (x.valid = false ∨ t.v = true →
      (∀ d, fault = some d → exec i s = .next (lateTrapOf s { cause := 1, detail := d })) ∧
      (fault = none → x.strips = true → sameShapeRecord t u = false → s.me.usesTile n = true → exec i s = .next (stalled s)) ∧
      (fault = none → x.strips = false ∨ sameShapeRecord t u = true ∨ s.me.usesTile n = false →
        exec i s = .next (s.setMe ((pops (s.me.setTsr n u) x.srcs).past x.form))))

/-- R48, R169: TFREE clears V once no tile instruction in flight names the tile; TRDSH writes the word of the record that it selects. Both are ILLEGAL on an
invalid tile, with the number of the operand that names it. (Those traps are taken after the older tile instructions: log 28.) -/
def Obligations.TileFreeAndRead : Prop :=
  (∀ (s : State) (f : Form) (d : R6), s.Goes f → s.me.cmprOwes d.toNat = false →
    let t := s.me.tsrOf d.toNat
    (t.v = false → exec (.tfree f d) s = .next (lateTrapOf s { cause := 1, detail := 0xC000 })) ∧
    (t.v = true → s.me.usesTile d.toNat = true → exec (.tfree f d) s = .next (stalled s)) ∧
    (t.v = true → s.me.usesTile d.toNat = false → exec (.tfree f d) s =
      .next (s.setMe ((s.me.setTsr d.toNat { t with d0 := t.d0 &&& 0xFEFFFFFFFFFFFFFF }).past f)))) ∧
  (∀ (s : State) (f : Form) (d a b : R6), s.Goes f → s.me.cmprOwes a.toNat = false → b.toNat < 8 →
    let t := s.me.tsrOf a.toNat
    (t.v = false → exec (.trdsh f d a b) s = .next (lateTrapOf s { cause := 1, detail := 0xC001 })) ∧
    (t.v = true → s.Ready d → exec (.trdsh f d a b) s = .next (s.setMe ((s.me.setReg d (shapeWord t b.toNat)).past f))))

/-- R25, R36, R37, R155, R157, R158, R203, R300, R301: a tile instruction whose operands meet its checks takes one entry of the block's table, its operands bound to their instances and its
destinations' instances advanced, and the control lane goes on; the rounding mode, the rows and the scalars are those of its issue. No other register, flag, store or memory byte
changes (while no breakpoint is set). The first operand check that fails, in the order D, A, B, C, mask tile, is ILLEGAL with 0xC000 plus the operand's number, and no entry is taken; so
are the alignment, bounds, participant and abandoned-result traps of a tile instruction's own scalars and operands; a full table holds the instruction up.
(These traps are taken after the older tile instructions: log 28; an abandoned element of a collective: log 36 and log 63.) -/
def Obligations.TileInstructionIssuesOrTraps : Prop :=
  (∀ (s : State) (i : Instr) (x : TileRule) (vs : List Dword), tileRule i = some x → s.Goes x.form → x.scalars.map (srcValue s) = vs.map some →
     (∀ e ∈ x.checks s.me vs, e.1 = false) → chansC s x.ports = .ok () → x.free s = true → x.trap s vs = none → (∀ n, (s.bp n).en = false) →
     ∃ (sample : Bool) (slots : Vector TraceSlot 32),
       let fl := x.entry s i vs sample
       exec i s = .next ({ s with nextId := s.nextId + 1, traces := slots }.setMe
         ((pops { x.renamed s.me with flights := s.me.flights ++ [fl], strip := (s.me.tsrOf fl.tile).strip } x.scalars).past x.form))) ∧
  (∀ (s : State) (i : Instr) (x : TileRule) (vs : List Dword), tileRule i = some x → s.Goes x.form → x.scalars.map (srcValue s) = vs.map some →
     (8 ≤ s.me.flights.length → exec i s = .next (stalled s)) ∧
     (x.free s = true →
       (∀ e, (x.checks s.me vs).find? (fun e => e.1) = some e → exec i s = .next (lateTrapOf s { cause := 1, detail := 0xC000 + e.2 })) ∧
       ((∀ e ∈ x.checks s.me vs, e.1 = false) → chansC s x.ports = .ok () → ∀ t, x.trap s vs = some t → exec i s = .next (lateTrapOf s t))))

/-- R200 to R202: MATT attaches min(R, F) rows at once; MATT.W attaches R once F rows are that many, and until then its request is in flight while the control
lane goes on; a count outside the eight is ILLEGAL (0xC001); MDET releases the rows and keeps REQ. Each first waits for the block's matrix instructions.
(The waiting request is an entry of the table: log 37; the traps are taken after the older tile instructions: log 28.) -/
def Obligations.MatrixRows : Prop :=
  ∀ (s : State) (f : Form), s.Goes f →
    (∀ (d a : R6) (v : Dword), srcValue s a = some v → s.Ready d →
      (s.me.arrayBusy = true → exec (.matt f d a) s = .next (stalled s) ∧ exec (.mattW f d a) s = .next (stalled s)) ∧
      (s.me.arrayBusy = false → rowCount v = false →
        exec (.matt f d a) s = .next (lateTrapOf s { cause := 1, detail := 0xC001 }) ∧
        exec (.mattW f d a) s = .next (lateTrapOf s { cause := 1, detail := 0xC001 })) ∧
      (s.me.arrayBusy = false → rowCount v = true → s.detOn s.me = false →
        exec (.matt f d a) s = .next (s.setMe ((pops (attached s.me d v.toNat (min v.toNat (rowsFree s))) [a]).past f)) ∧
        (v.toNat ≤ rowsFree s → exec (.mattW f d a) s = .next (s.setMe ((pops (attached s.me d v.toNat v.toNat) [a]).past f))) ∧
        (rowsFree s < v.toNat → exec (.mattW f d a) s = .next ({ s with nextId := s.nextId + 1 }.setMe ((pops { s.me with
          rows := 0, flights := s.me.flights ++ [({ id := s.nextId, pc := s.me.pc, instr := .mattW f d a, sc := [v], order := s.nextId, issued := s.clock } : Flight)] } [a]).past f))))) ∧
    (s.me.arrayBusy = true → exec (.mdet f) s = .next (stalled s)) ∧
    (s.me.arrayBusy = false → exec (.mdet f) s = .next (s.setMe ({ s.me with rows := 0, mgrant := s.me.mgrant &&& 0xFFFFFFFFFFFFFF00 }.past f)))

/-- R184, R208 to R210, R246, R260: MMAV issues once its cluster's cleat has a place for it, with the threshold sampled at its issue in %thr and its entry, the sample after
the fences and tile accesses before it; without a place it waits at issue. A chained TBFLY issues with the members after it as one entry, the control lane going on behind the last.
(Which members a chain has: log 26; the key of a sampled word: log 29.) -/
def Obligations.MatrixVerdictAndChainIssue : Prop :=
  (∀ (s s1 : State) (f : Form) (d a b : R6) (vs : List Dword) (bs : List Byte), s.Goes f →
    let x := mmavRule f d a b
    let place := s.me.cleatWait = some true ∨ s.cleatTaken (s.me.core / 4) < 4
    x.scalars.map (srcValue s) = vs.map some → (∀ e ∈ x.checks s.me vs, e.1 = false) → chansC s x.ports = .ok () → x.free s = true →
    (∀ n, (s.bp n).en = false) →
    (¬place → exec (.mmav f d a b) s = .next { s.setMe { s.me with cleatWait := some false } with blocked := some true }) ∧
    (place → s.sampleNow { id := s.nextId, pc := s.me.pc, instr := .mmav f d a b, sc := x.sc s.me vs, d := some (readAt s.me d) } = (.ok bs, s1) →
      ∃ (sample : Bool) (slots : Vector TraceSlot 32),
        let key := sampleKey (ofLe bs)
        let fl : Flight := { x.entry s1 (.mmav f d a b) vs sample with verd := some { placed := true, els := [], thr := key } }
        exec (.mmav f d a b) s = .next ({ s1 with nextId := s1.nextId + 1, traces := slots }.setMe
          ((pops { x.renamed s1.me with thr := BitVec.ofNat 64 key, cleatWait := none, flights := s1.me.flights ++ [fl]
                                        pend := s1.me.pend.filter (fun p => !(p.isGet && p.agent == Agent.t && p.seq == 0))
                                        strip := (s.me.tsrOf d.toNat).strip } x.scalars).past f)))) ∧
  (∀ (s s1 : State) (f : Form) (h : BitVec 3) (d a : R6) (ms : List (Instr × Tsr)) (n : Nat) (x y : TileRule) (e : Instr × Tsr), s.Goes f →
    tileRule (.tbfly f false h d a) = some x → chainFrom s 8 d (s.me.pc + BitVec.ofNat 56 f.bytes) s = .ok (ms, n, s1) → ms.getLast? = some e →
    tileRule e.1 = some y → (∀ e ∈ x.checks s.me [], e.1 = false) → ({ x with writesD := false } : TileRule).free s = true → y.free s = true →
    chansC s ({ y with a := some a } : TileRule).ports = .ok () → (∀ n, (s.bp n).en = false) →
    ∃ (sample : Bool) (slots : Vector TraceSlot 32),
      let fl := chainEntry x y s1 (.tbfly f true h d a) ms sample
      exec (.tbfly f true h d a) s = .next ({ s1 with nextId := s1.nextId + 1, traces := slots }.setMe
        ({ y.renamed s1.me with flights := s1.me.flights ++ [fl], strip := (s1.me.tsrOf fl.tile).strip, pc := s1.me.pc + BitVec.ofNat 56 n }.past f)))

/-- R215: THRUP on an accumulator tile of class GE or TOPK. An abandoned result is VERDICT_USE; another NaN merges NV, or traps where NV is enabled; any other value
raises the threshold source to its key: THRVAL in the record, the dword in the shared store, or the dword in memory, the latter two as accesses of the
control lane. -/
def Obligations.ThresholdRaise : Prop :=
  ∀ (s : State) (f : Form) (d a : R6) (v : Dword), s.Goes f → srcValue s a = some v → s.me.cmprOwes d.toNat = false →
    let t := s.me.tsrOf d.toNat
    let w := v.toNat % 2 ^ 32
    let m : Dword := BitVec.ofNat 64 (thrKey w)
    (t.v = false ∨ t.space ≠ 1 ∨ (t.vclass ≠ 2 ∧ t.vclass ≠ 3) → exec (.thrup f d a) s = illegal s 0xC000) ∧
    (t.v = true → t.space = 1 → t.vclass = 2 ∨ t.vclass = 3 →
      (isAbandoned false w = true → exec (.thrup f d a) s = .next (s.takeTrap s.cur { cause := 9 })) ∧
      (isAbandoned false w = false → (fp32.value w).isNan = true → exec (.thrup f d a) s =
        if s.me.mode.getLsbD 12 then .next (s.takeTrap s.cur { cause := 8, detail := 4 })
        else .next (s.setMe ((pops { s.me with fflags := s.me.fflags ||| 16 } [a]).past f))) ∧
      ((fp32.value w).isNan = false →
        (t.thrsel = 0 → exec (.thrup f d a) s =
          .next (s.setMe ((pops (s.me.setTsr d.toNat { t with d5 := if t.d5.toNat ≤ m.toNat then m else t.d5 }) [a]).past f))) ∧
        (t.thrsel = 1 → s.me.mayAccess = true → t.d5.toNat % 8 = 0 → t.d5.toNat + 8 ≤ s.me.hdr.shared → badWords s.me.poisonSh t.d5.toNat 8 = false →
          let old := ofLe (s.me.sharedC t.d5.toNat 8)
          let s2 := issued s { id := 0, agent := .c, kind := .shc (leBytes 8 (max old m.toNat)), addr := t.d5.toNat }
          exec (.thrup f d a) s = .next (s2.setMe ((pops s2.me [a]).past f))) ∧
        (t.thrsel = 2 → ∀ (x : Xl) (s1 : State), t.d5.toNat % 8 = 0 → s.me.mayAccess = true →
          s.translate s.me.master { r := true, w := true, atomic := true } t.d5.toNat = (.ok x, s1) →
          (atomicRule .w32 .maxn false 0 0 0 none false).clear s1 x →
          let s0 := (s1.watch s.cur t.d5.toNat 8 false).watch s.cur t.d5.toNat 8 true
          let p : Pend := { id := 0, agent := .c, kind := .rmw .maxn 8 m 0 0 false, addr := t.d5.toNat, pas := x.keys, cacheable := x.c, ord := 0, scope := 7 }
          let s2 := issued s0 p
          exec (.thrup f d a) s = .next (s2.setMe ((popsOf s2.me s0.nextId p [a]).past f)))))

/-- R227 to R229, R231: MONSET configures its claim anew, MONREF sets REF, MONCLR clears sums, status and epochs and keeps configuration, BOUND and REF, MONRD writes the
selected word. A claim index the launch does not have is ILLEGAL (0xC001), a reserved configuration ILLEGAL (0xC002). -/
def Obligations.MonitorInstructions : Prop :=
  ∀ (s : State) (f : Form) (a b : R6) (v lo hi : Dword), s.Goes f → srcValue s a = some v → srcValue s b = some lo → srcValue s (b + 1) = some hi →
    let n := v.toNat
    let done := fun (t : State) (rs : List R6) => Host.Outcome.next (φ := Fault) (ρ := Refusal) (t.setMe ((pops t.me rs).past f))
    (8 ≤ n ∨ (s.lch s.me.launch).monc ≤ n →
      exec (.monset f b a) s = illegal s 0xC001 ∧ exec (.monref f b a) s = illegal s 0xC001 ∧ exec (.monclr f a) s = illegal s 0xC001 ∧
      ∀ d sel, s.Ready d → exec (.monrd f d a sel) s = illegal s 0xC001) ∧
    (n < 8 → n < (s.lch s.me.launch).monc →
      (¬ClaimConfig lo → exec (.monset f b a) s = illegal s 0xC002) ∧
      (ClaimConfig lo → exec (.monset f b a) s = done (withClaim s n (fun _ => { cfg := lo, bound := hi.toNat, set := true })) [a, b]) ∧
      exec (.monref f b a) s = done (withClaim s n (fun c => { c with ref := (hi ++ lo).toInt })) [a, b] ∧
      exec (.monclr f a) s = done (withClaim s n (fun c => { cfg := c.cfg, bound := c.bound, ref := c.ref, set := c.set })) [a] ∧
      ∀ d sel, s.Ready d → sel.toNat < 7 → exec (.monrd f d a sel) s =
        .next (s.setMe ((pops (s.me.setReg d (claimWord ((s.lch s.me.launch).claims.getD n {}) sel.toNat)) [a]).past f)))

/-- R60, R72, R89, R188, R190, R219, R221: in a lane function that runs, every lane instruction with a result completes: it writes its result to l[D], its flags to the
invocation's element, and goes on to the next word; nothing else of the device changes. The one exception is an LCVT of an abandoned result to a type that has none, which traps with
VERDICT_CONV (10). -/
def Obligations.LaneInstructionWritesRegister : Prop :=
  ∀ (s : State) (i : Instr) (f : Flight) (x : LaneRun) (e : Nat × Nat), isLaneResult i = true → i.wf = true → s.running = some (f, x) → x.els.head? = some e →
    ((∀ c b a d, i = .lcvt c b a d → abnBits b.toNat = some (laneSource x b a) → abnBits c.toNat ≠ none) →
      ∃ d v fl, laneRule (laneMode f) x i = some (d, v, fl) ∧
        exec i s = .next (s.setRun (some ({ x with l := x.l.set (d.toNat % 32) v (Nat.mod_lt _ (by decide)), lpc := x.lpc + 4 }.flag e.1 e.2 fl)))) ∧
    (∀ c b a d, i = .lcvt c b a d → abnBits b.toNat = some (laneSource x b a) → abnBits c.toNat = none →
      exec i s = .next (laneStops s f x { cause := 10 }))

/-- R89, R219, R220, R222: LLD, LLDT load from the lane store of the invocation's lane, seeing the unit's own writes; LST, LSTT add theirs to those of the unit. An
address that is no multiple of the size is ALIGN, one not below the declared bytes PROTECT, a poisoned word POISON, an abandoned element VERDICT_USE.
(An address is taken modulo 2^32: log 38; the element in %telem: log 92.) -/
def Obligations.LaneStoreAccess : Prop :=
  ∀ (s : State) (f : Flight) (x : LaneRun) (e : Nat × Nat), s.running = some (f, x) → x.els.head? = some e →
    (∀ (i : BitVec 12) (a d : R6),
      let at_ := (laneReg x a + (i.signExtend 32 <<< 2)).toNat
      let key := laneOf f e.1 e.2 * 1024 + at_
      (at_ % 4 ≠ 0 → exec (.lld i a d) s = .next (laneStops s f x { cause := 2, taddr := taddrWord 3 at_ }) ∧
        exec (.lst i a d) s = .next (laneStops s f x { cause := 2, taddr := taddrWord 3 at_ })) ∧
      (at_ % 4 = 0 → s.me.hdr.lane < at_ + 4 → exec (.lld i a d) s = .next (laneStops s f x { cause := 4, detail := 7, taddr := taddrWord 3 at_ }) ∧
        exec (.lst i a d) s = .next (laneStops s f x { cause := 4, detail := 7, taddr := taddrWord 3 at_ })) ∧
      (at_ % 4 = 0 → at_ + 4 ≤ s.me.hdr.lane →
        exec (.lst i a d) s = .next (s.setRun (some { x.put key (leBytes 4 (laneReg x d).toNat) with lpc := x.lpc + 4 })) ∧
        ((key / 4 ∈ s.me.poisonLane ∧ ∀ p ∈ x.writes, p.1 / 4 ≠ key / 4) →
          exec (.lld i a d) s = .next (laneStops s f x { cause := 5, detail := 6, taddr := taddrWord 3 at_ })) ∧
        (key / 4 ∉ s.me.poisonLane ∨ (∃ p ∈ x.writes, p.1 / 4 = key / 4) → exec (.lld i a d) s = .next (s.setRun (some
          { x with l := x.l.set (d.toNat % 32) (BitVec.ofNat 32 (ofLe (laneSees s.me x key 4))) (Nat.mod_lt _ (by decide)), lpc := x.lpc + 4 }))))) ∧
    (∀ (c b a d : R6), (Instr.lldt c b a d).wf = true →
      let n := codeBytes c.toNat
      let at_ := ((laneReg x a).toNat + (laneReg x b).toNat * n) % 2 ^ 32
      let key := laneOf f e.1 e.2 * 1024 + at_
      (at_ % n ≠ 0 → exec (.lldt c b a d) s = .next (laneStops s f x { cause := 2, taddr := taddrWord 3 at_ }) ∧
        exec (.lstt c b a d) s = .next (laneStops s f x { cause := 2, taddr := taddrWord 3 at_ })) ∧
      (at_ % n = 0 → s.me.hdr.lane < at_ + n → exec (.lldt c b a d) s = .next (laneStops s f x { cause := 4, detail := 7, taddr := taddrWord 3 at_ }) ∧
        exec (.lstt c b a d) s = .next (laneStops s f x { cause := 4, detail := 7, taddr := taddrWord 3 at_ })) ∧
      (at_ % n = 0 → at_ + n ≤ s.me.hdr.lane →
        (let w := narrow (laneMode f) c.toNat (laneReg x d).toNat
         exec (.lstt c b a d) s = .next (s.setRun (some { (x.put key (leBytes n w.1)).flag e.1 e.2 w.2 with lpc := x.lpc + 4 }))) ∧
        (key / 4 ∉ s.me.poisonLane →
          let v := ofLe (laneSees s.me x key n)
          let w := widen c.toNat v
          (isAbn c.toNat v = true → exec (.lldt c b a d) s = .next (laneStops s f x { cause := 9 })) ∧
          (isAbn c.toNat v = false → exec (.lldt c b a d) s = .next (s.setRun (some
            ({ x with l := x.l.set (d.toNat % 32) (BitVec.ofNat 32 w.1) (Nat.mod_lt _ (by decide)), lpc := x.lpc + 4 }.flag e.1 e.2 w.2)))))))

/-- R79, R91, R219, R221, R222: LBR, LJ, LCALL, LRET and LEND. A fifth return address is ILLEGAL with 0x4808, a return without one with 0x4809, at the address of the lane
word. LEND takes the result from l0, narrowed to D's type, or makes it TMAPR's running value, and begins the next invocation of the unit. -/
def Obligations.LaneControl : Prop :=
  ∀ (s : State) (f : Flight) (x : LaneRun) (r c : Nat) (rest : List (Nat × Nat)), s.running = some (f, x) → x.els = (r, c) :: rest →
    let u := ux s s.cur f
    let upd := fun (y : LaneRun) => Host.Outcome.next (φ := Fault) (ρ := Refusal) (s.setRun (some y))
    (∀ (o : BitVec 18) (a : R6), exec (.lbr o a) s =
      upd { x with lpc := x.lpc + (if laneReg x a = 0 then 4 else (o ++ 0#2).signExtend 56) }) ∧
    (∀ o : BitVec 24, exec (.lj o) s = upd { x with lpc := x.lpc + (o ++ 0#2).signExtend 56 } ∧
      (x.stack.length < 4 → exec (.lcall o) s = upd { x with lpc := x.lpc + (o ++ 0#2).signExtend 56, stack := (x.lpc + 4) :: x.stack }) ∧
      (4 ≤ x.stack.length → exec (.lcall o) s = .next (laneStops s f x { cause := 1, detail := 0x4808, taddr := x.lpc.zeroExtend 64 }))) ∧
    (x.stack = [] → exec .lret s = .next (laneStops s f x { cause := 1, detail := 0x4809, taddr := x.lpc.zeroExtend 64 })) ∧
    (∀ p ps, x.stack = p :: ps → exec .lret s = upd { x with lpc := p, stack := ps }) ∧
    (let w := narrow (laneMode f) u.dt.etype (laneReg x 0).toNat
     let next := fun (y : LaneRun) => match rest with
       | [] => y
       | e :: _ => laneBegun u y e
     (isMapr f.instr = false → (∀ e, rest.head? = some e → LaneClean u e) →
       exec .lend s = upd (next ({ x with els := rest, results := x.results ++ [(r, c, w.1)] }.flag r c w.2))) ∧
     (isMapr f.instr = true → rest = [] → exec .lend s = upd ({ x with els := [], carry := laneReg x 0, results := [(r, 0, w.1)] }.flag r c w.2)) ∧
     (isMapr f.instr = true → rest ≠ [] → (∀ e, rest.head? = some e → LaneClean u e) → exec .lend s = upd (next { x with els := rest, carry := laneReg x 0 })))

/-- R93 to R96, R225, R250: a started CPY6 or GTH moves its next elements, in order, those that read one sector at one instant; a COL, once every participant's command
has started and they agree, reads every participant's elements, leaves the combination of each element, the root's or the slice owner's in their buffers, and
ends each participant's command with STATUS 0, or, at the first element that one of them cannot read, with that failure, the elements before it done. Where
one that names the block disagrees and no command names another block, each ends with STATUS 7. On a core whose zone an evacuation has emptied nothing moves (R354).
(Elements read at one instant: log 42; what COL leaves open: log 41, log 95.) -/
def Obligations.EnginesMoveElements : Prop :=
  ∀ (s : State) (blk i : Nat) (c : EngCmd), s.asleep = false → (s.blk blk).cmds[i]? = some c → c.status = none →
    let h := c.dw.getD 0 0
    let sector := fun (x : Int) => x / 64
    (¬EnginesRun s blk → exec (.cpy6 blk i) s = .next s ∧ exec (.gth blk i) s = .next s ∧ exec (.col blk i) s = .next s) ∧
    (EnginesRun s blk → c.eng = 0 → c.pos < copyBelow c (copyDims c).length →
      Moving.Next (.cpy6 blk i) s { blk, c, n := 2 ^ (h.extractLsb' 17 3).toNat, total := copyBelow c (copyDims c).length, ov := cpyOverlap c
                                    place := fun _ k => .ok (copyPlace c k)
                                    same := fun k => sector (copyPlace c k).1.2 == sector (copyPlace c (k + 1)).1.2 }) ∧
    (EnginesRun s blk → c.eng = 1 → c.pos < (h.extractLsb' 32 32).toNat →
      let w := gatherIndexBytes h
      let n := 2 ^ (h.extractLsb' 13 3).toNat
      let idx := fun (k : Nat) => (((c.dw.getD 2 0).toNat + k * w : Nat) : Int)
      let data := fun (k : Nat) => (((c.dw.getD 3 0).toNat + k * n : Nat) : Int)
      Moving.Next (.gth blk i) s { blk, c, n, total := (h.extractLsb' 32 32).toNat, ov := none, place := gatherAt blk c
                                   same := fun k => sector (idx k) == sector (idx (k + 1)) || (h.getLsbD 8 && sector (data k) == sector (data (k + 1))) }) ∧
    (EnginesRun s blk → c.eng = 2 → (s.blk blk).cmds.find? (fun x => x.eng == 2 && x.status.isNone) = some c → 5 ≤ (h.extractLsb' 20 4).toNat → (h.extractLsb' 20 4).toNat ≤ 7 → h.extractLsb' 8 2 ≠ 3 →
      -- no command of a block outside its own PEERS, and other devices have told of commands at .domain alone
      (∀ e ∈ s.ofLaunch (s.blk blk).launch, ∀ x, e.2.cmds.find? (fun x => x.eng == 2 && x.status.isNone) = some x → Agree x c →
        s.colNames x e.2.blkid = true) → (∀ e ∈ s.farColls, e.desc.ctl.extractLsb' 20 4 = 8) →
      ∀ ps, Gathered s (s.blk blk) c ps → (∃ p ∈ ps, p.2.1 = blk) → (h.extractLsb' 8 2 = 1 → ∃ p ∈ ps, p.1 = (h.extractLsb' 26 6).toNat) →
      let count := ((c.dw.getD 2 0).extractLsb' 0 32).toNat
      let n := codeBytes (h.extractLsb' 14 6).toNat
      let ends := fun (t : State) (p : Nat × Nat × EngCmd) (f : EngCmd → EngCmd) => t.modBlk p.2.1 (fun b => b.modCmd p.2.2.id f)
      ((∃ p ∈ ps, ¬Agree p.2.2 c) → (∀ p ∈ ps, Agree p.2.2 c ∨ s.colNames p.2.2 (s.blk blk).blkid = true) → Closed s (s.blk blk).launch ps →
        exec (.col blk i) s = .next (ps.foldl (fun t p => ends t p (failed { status := 7 })) s)) ∧
      ((∀ p ∈ ps, Agree p.2.2 c) → ∀ (val : Nat → Nat → Nat) (m : Nat) (end_ : EngCmd → EngCmd), m ≤ count →
        let reads := fun (p : Nat × Nat × EngCmd) (k : Nat) (r : EngRead) => (s.engRead p.2.1 p.2.2.id true (bufferAt p.2.2 k : Int) n).1 = r
        (∀ p ∈ ps, ∀ k, k < m → ∃ bs, reads p k (.ok bs) ∧ val p.1 k = ofLe bs) →
        (m = count ∧ (end_ = fun x => { x with pos := m, status := some 0 })) ∨
        (m < count ∧ ∃ (a : List (Nat × Nat × EngCmd)) (p : Nat × Nat × EngCmd) (z : List (Nat × Nat × EngCmd)) (e : EngFail), ps = a ++ p :: z ∧ reads p m (.fail e) ∧
          (∀ q ∈ a, ∃ bs, reads q m (.ok bs)) ∧ end_ = fun x => failed e { x with pos := m }) →
        let js := ps.map (fun p => p.1)
        exec (.col blk i) s = .next (ps.foldl (fun t p => t.modBlk p.2.1 (fun b =>
          ((List.range m).foldl (fun (b : Block) k => match collected c js (js.map (fun j => val j k)) p.1 k with
            | some v => b.storeC (bufferAt p.2.2 k) (leBytes n v)
            | none => b) b).modCmd p.2.2.id end_)) s)))

/-- R92, R94, R248, R249, R251, R326, R327: an engine with a free place starts, of the core's commands that may start, the one pushed first, taking its dwords out of the
queue. A command that ended writes CWVAL at CWADDR, with a release at its scope, when it succeeded with CW = 1, and frees its place; with CPL = 1 once its accesses are performed
at .engine and its completion element is in the completion queue, or the block drains with the queue full; with CPL = 0 at once, a failure trapping with the cause of its
STATUS. (A STATUS is one of R94's eight. The engines of an emptied zone do not run: R354.
A fault of the word's own write becomes the command's STATUS: log 75; the delivered element orders the command's accesses: log 72.)
(When dwords leave the queue, and a completion element that finds it full: log 42.) -/
def Obligations.EngineCommandLifecycle : Prop :=
  ∀ (s : State) (blk : Nat), s.asleep = false →
    let b := s.blk blk
    (∀ e m, e < 3 → CanStart b e m → s.places b.core e < 4 → (∀ x ∈ s.onCore b.core, ∀ y, CanStart x.2 e y → m.at_ ≤ y.at_) →
      let n := commandDwords e (b.queueDword (2 * e) 0)
      exec (.engineCommandStart blk e) s = .next ({ s with nextId := s.nextId + 1 }.setBlk blk { b.setQcw (2 * e) ((b.qcwOf (2 * e)).popped n) with
        marks := b.marks.filter (fun x => x.pushId != m.pushId)
        cmds := b.cmds ++ [({ id := s.nextId, eng := e, dw := (List.range n).map (b.queueDword (2 * e)), pushId := m.pushId } : EngCmd)] })) ∧
    (∀ (i : Nat) (c0 c : EngCmd) (st0 : Nat) (s1 : State), EnginesRun s blk → b.cmds[i]? = some c0 → c0.status = some st0 → st0 ≤ 7 → c0.delivered = false → c0.eng < 3 →
      let word := st0 = 0 ∧ commandCw c0 = true
      let wrote := s.engWrite blk c0.id (some (commandCwScope c0)) false ((c0.dw.getD (commandCwAt c0) 0).toNat : Int) (leBytes 8 (c0.dw.getD (commandCwAt c0 + 1) 0).toNat)
      (¬word → s1 = s ∧ c = c0) → (word → (wrote = .ok s1 ∧ c = c0) ∨ ∃ e, wrote = .error e ∧ s1 = s ∧ c = failed e c0) →
      let st := c.status.getD 0
      let s3 := s1.modBlk blk (fun b => b.modCmd c.id (fun _ => { c with delivered := true }))
      let s4 := s1.modBlk blk (fun b => { b with cmds := b.cmds.filter (fun x => x.id != c.id) })
      let t : TrapInfo := { cause := failCause st, detail := c.detail, taddr := BitVec.ofNat 64 c.faddr
                            tport := 1#1 ++ 1#1 ++ 0#48 ++ BitVec.ofNat 6 (2 * c.eng) ++ 0#8, age := c.pushId, now := true }
      exec (.engineCommandComplete blk i) s = .next (
        if commandCpl c = true then (if st = 5 then { s3 with mgmt := { s3.mgmt with notices := s3.mgmt.notices ++ [((s3.blk blk).core, (s3.blk blk).slot, c.faddr)] } } else s3)
        else if st = 0 then s4
        else s4.modBlk blk (fun b => { b with trapP := if b.trapP.any (fun o => decide (o.age ≤ c.pushId)) then b.trapP else some t }))) ∧
    (∀ (e : Nat) (c : EngCmd) (st : Nat), e < 3 → EnginesRun s blk → b.cmds.find? (fun c => c.eng == e && commandCpl c) = some c → c.delivered = true → c.status = some st → st ≤ 7 →
      let mine := fun (p : Pend) => p.agent == .e && p.seq == c.id
      let left := b.cmds.filter (fun x => x.id != c.id)
      ((∃ p ∈ b.pend, mine p = true ∧ p.done < 3) → exec (.completionElementDeliver blk e) s = .next s) ∧
      ((∀ p ∈ b.pend, mine p = true → 3 ≤ p.done) → exec (.completionElementDeliver blk e) s = .next (
        if (b.qcwOf (2 * e + 1)).count < (b.qcwOf (2 * e + 1)).depth then s.setBlk blk ({ pushed b (2 * e + 1) (completionElement c st) with
          cmds := left, pend := b.pend.map (fun p => if mine p = true then { p with ordC := true } else p) } : Block)
        else if b.exitIssued = true then s.setBlk blk { b with cmds := left } else s)))

/-- R97, R292: the oldest farm query that is not at the distributor reaches it: its dword leaves the queue and it takes its ordinal, the launch's next, or
%blkid + m × the persistent blocks in deterministic mode. The answer to the block's oldest query at the distributor is its tile's coordinates, or the
token, at ANS, then CVAL at ANS + 8. (The launch's x, y and z are those of its record, 21 bits each: R277; when the dword leaves the queue: log 42.) -/
def Obligations.FarmQueryIsAnswered : Prop :=
  ∀ (s : State) (blk : Nat), s.asleep = false →
    let b := s.blk blk
    let x := s.lch b.launch
    EnginesRun s blk → x.x < 2 ^ 21 → x.y < 2 ^ 21 → x.z < 2 ^ 21 →
    (∀ (done rest : List FarmQuery) (f : FarmQuery), b.fqs = done ++ f :: rest → (∀ g ∈ done, g.reached = true) → f.reached = false →
      (b.fqs.map (fun g => g.m)).Nodup →
      let n := if x.det then b.blkid + f.m * x.pblk else x.farmNext
      let b1 := { b.setQcw 6 ((b.qcwOf 6).popped 1) with fqs := done ++ { f with reached := true, ordinal := some n } :: rest }
      exec (.fq blk) s = .next ((s.setBlk blk b1).setLch b.launch (if x.det then x else { x with farmNext := x.farmNext + 1 }))) ∧
    (∀ (f : FarmQuery) (rest : List FarmQuery) (n : Nat), b.fqs = f :: rest → f.ordinal = some n →
      exec (.farmAnswer blk) s = .next (s.setBlk blk
        { (b.storeC f.ans (leBytes 8 (farmTile x n).toNat)).storeC (f.ans + 8) (leBytes 8 (f.cval.zeroExtend 64 : Dword).toNat) with fqs := rest }))

/-- R39, R40, R57, R158, R160, R163, R187, R190: one unit of an element-wise instruction that is the oldest in flight, unmasked, writes each element of its group into D's instance and
merges the flags; the index moves to the next group, or the instruction completes. Every other element, register and byte keeps its value. (No operand is a channel port, D has no
bound, monitor or scale, and every table entry has a source and a destination whose rows are defined: R34, R155. A form but TMIN.v, TMAX.v and TSEL.v reads no abandoned result here: that is a trap, R72.)
A shift takes its count modulo the width of A's type: TSHL shifts left, TSHR logically whatever the signedness, TSRA arithmetically. -/
def Obligations.UnitCommitWritesGroup : Prop :=
  (∀ (s : State) (blk : Nat) (f : Flight) (o : Opnd) (done rest : List Flight), Oldest1 s blk f done rest → isElementWise f.instr = true → f.d = some o → PlainDest o →
    o.tsr.rowDefined = true → f.a ≠ none → f.idx.col < o.tsr.cols →
    let b := s.blk blk
    let g := groupOf o.tsr f.idx
    let fl := g.foldl (fun m e => m ||| (elementResult b f e).2) 0
    (∀ e ∈ g, ∀ x ∈ f.a.toList ++ f.b.toList ++ f.c.toList, CleanAt b f.instr (retype (tyMod (instrForm f.instr)) (Opnd.tsrOf f.a)).etype e x) →
    trapFlag b fl = none →
    ∃ n ps, Replaced s b f o.tsr.space n ps ∧ exec (.unitCommit blk done.length) s =
      .next ({ s with cur := blk, nextId := n }.setBlk blk { g.foldl (fun (b' : Block) (e : Nat × Nat) => b'.putElt o.tsr o.inst e.1 e.2 (elementResult b f e).1) b with
        fflags := b.fflags ||| BitVec.ofNat 64 fl, pend := b.pend ++ ps, eptNs := 0
        flights := afterUnit s.clock done f rest g (groupAfter o.tsr f.idx) })) ∧
  ∀ (b : Block) (f : Flight) (e : Nat × Nat) (fm : Form) (d a c : R6),
    let w := (retype (tyMod fm) (Opnd.tsrOf f.a)).ty.width
    let x := BitVec.ofNat w (operandAt b f.a e)
    let n := operandAt b f.b e % w
    operandAt b f.a e < 2 ^ w →
      (f.instr = .tshl fm d a c → elementResult b f e = ((x <<< n).toNat, 0)) ∧
      (f.instr = .tshr fm d a c → elementResult b f e = ((x >>> n).toNat, 0)) ∧
      (f.instr = .tsra fm d a c → elementResult b f e = ((x.sshiftRight n).toNat, 0))

/-- R67 to R69, R208 to R214, R261, R262: one plane pass of an MMAV that holds its place. Before the last plane, the elements that can no longer pass are abandoned: they hold
the abandoned result, and the sampled threshold is in %thr; after the last, every other element is written. (The operands have the shapes of R208 and are no channel ports; D has no
bound, monitor or scale; every scale of B is finite.) -/
def Obligations.PlaneBoundaryDecides : Prop :=
  ∀ (s : State) (blk : Nat) (f : Flight) (o oa ob : Opnd) (cl : Cleat) (done rest : List Flight) (fm : Form) (rd ra rb : R6), Oldest1 s blk f done rest →
    f.instr = .mmav fm rd ra rb → f.d = some o → f.a = some oa → f.b = some ob → PlainDest o → o.tsr.space = 1 → isChan oa.name = false → isChan ob.name = false →
    oa.tsr.rows = o.tsr.rows → ob.tsr.rows = o.tsr.cols → ob.tsr.cols = oa.tsr.cols →
    f.c = none → f.verd = some cl → cl.placed = true → (s.blk blk).fences = [] →
    let b := s.blk blk
    let p := f.idx.plane
    let passes := (f.sc.getD 0 0).toNat
    let cells := elementsOf o.tsr
    let els := cells.zipIdx.map (fun e => afterPass b f cl p e.2 e.1)
    -- sources without poison; before the first plane is done, finite A and scales, and no abandoned result in A
    (∀ e ∈ elementsOf oa.tsr, b.eltPoison oa.tsr oa.inst e.1 e.2 = none ∧ isAbn oa.tsr.etype (b.elt oa.tsr oa.inst e.1 e.2) = false ∧
      ∃ neg m x, oa.tsr.value (b.elt oa.tsr oa.inst e.1 e.2) 0x3C00 = .fin neg m x) →
    (∀ e ∈ elementsOf ob.tsr, b.eltPoison ob.tsr ob.inst e.1 e.2 = none) →
    (ob.tsr.pscale = true → ∀ e ∈ elementsOf ob.tsr, ∃ neg m x, fp16.value (b.scaleBits ob.tsr ob.inst e.1 e.2) = .fin neg m x) →
    (p + 1 < passes → o.tsr.thrsel = 0 →
      let key := o.tsr.d5.toNat % 2 ^ 32
      let thr := max cl.thr key
      let left : Int := ((2 ^ (ob.tsr.planes - 1 - p) : Nat) : Int) - ((2 ^ (ob.tsr.planes - passes) : Nat) : Int)
      let terms := fun (e : Nat × Nat) => (List.range oa.tsr.cols).map (matrixTerm b f e.1 e.2)
      let live := fun (a : Nat) => (els.getD a ⟨0, 0, false⟩).st = 0
      let upper := fun (a : Nat) (e : Nat × Nat) => if live a then (els.getD a ⟨0, 0, false⟩).q + left * ((terms e).foldl (fun m v => m + max v 0) 0) else 0
      let lower := fun (a : Nat) (e : Nat × Nat) => if live a then (els.getD a ⟨0, 0, false⟩).q + left * ((terms e).foldl (fun m v => m + min v 0) 0) else 0
      let gone := cells.zipIdx.filter (fun x => live x.2 && abandons o.tsr.vclass (o.tsr.km1 + 1) (thrValue thr) (upper x.2 x.1) (lower x.2 x.1)
        ((cells.zipIdx.filter (fun y => y.1.1 == x.1.1 && y.2 != x.2 && live y.2)).map (fun y => lower y.2 y.1)))
      let els' := els.zipIdx.map (fun x => if gone.any (fun y => y.2 == x.2) then { x.1 with st := 2 } else x.1)
      exec (.planeBoundary blk) s = .next ({ s with cur := blk }.setBlk blk { gone.foldl (fun (b' : Block) (x : (Nat × Nat) × Nat) => b'.putElt o.tsr o.inst x.1.1 x.1.2 0x7F800AB0) b with
        thr := BitVec.ofNat 64 key, eptNs := 0
        flights := afterUnit s.clock done { f with verd := some { cl with els := els', thr } } rest (gone.map Prod.fst) (some { plane := p + 1 }) })) ∧
    (passes ≤ p + 1 →
      let kept := (cells.zip els).filter (fun x => x.2.st != 2)
      let fl := kept.foldl (fun m x => m ||| (keptElt x.2).2) 0
      trapFlag b fl = none → exec (.planeBoundary blk) s =
        .next ({ s with cur := blk }.setBlk blk { kept.foldl (fun (b' : Block) (x : (Nat × Nat) × CleatEl) => b'.putElt o.tsr o.inst x.1.1 x.1.2 (keptElt x.2).1) b with
          fflags := b.fflags ||| BitVec.ofNat 64 fl, eptNs := 0, flights := rest.dropWhile (fun g => g.fin) }))

/-- R16, R22, R28, R140, R141, R179, R296, R333: a wait ends, the block Ready again, when its condition holds: a port no longer empty or full (the timer restarts), a channel, the held
operation's lower blocks done, the dword of a WAITA as it compares (s[D] written, the pc past it), the instant of a SLPT. Until then nothing changes. -/
def Obligations.BlockWakes : Prop :=
  ∀ (s : State) (blk : Nat), s.asleep = false →
    let b := s.blk blk
    let at_ := { s with cur := blk }
    (∀ q, q < 8 → b.st = .waiting (.port q) →
      (portShut b q = true → exec (.portWake blk) s = .next s) ∧
      (portShut b q = false → exec (.portWake blk) s = .next (s.setBlk blk { readyAgain b with eptNs := 0 }))) ∧
    (∀ j push, b.st = .waiting (.chan j push) →
      ((∃ w u, chanC at_ (48 + j) push = .error (.wait w u)) → exec (.channelPortWake blk) s = .next s) ∧
      ((∀ w u, chanC at_ (48 + j) push ≠ .error (.wait w u)) → exec (.channelPortWake blk) s = .next (s.setBlk blk (readyAgain b)))) ∧
    (b.st = .waiting .det →
      (LowerAreDone s b → exec (.detHoldRelease blk) s = .next (s.setBlk blk (readyAgain b))) ∧
      (¬LowerAreDone s b → exec (.detHoldRelease blk) s = .next s)) ∧
    (∀ t a len, b.st = .waiting (.time t a len) →
      (s.qtb < t.toNat → exec (.slptWake blk) s = .next s) ∧
      (t.toNat ≤ s.qtb → exec (.slptWake blk) s = .next (at_.setBlk blk { readyAgain (pops b [a]) with pc := b.pc + BitVec.ofNat 56 len }))) ∧
    (∀ i f holds n va v d a c len x s1 s2 bs, waitRule i = some (f, holds, n, d, a, c) → b.st = .waiting (.addr n va v d a c len) → b.trapP = none → isPort d = false →
      va % 8 = 0 → b.pend = [] → at_.translate b.master { r := true } va = (.ok x, s1) → s1.deferredAt blk x.rkey 8 = false → s1.linkTo (dieOf b.core) x.rkey = none →
      s1.gRead b.core 7 x.c false x.rkey 8 = (.ok bs, s2) →
      let m : Dword := BitVec.ofNat 64 (ofLe bs)
      let s3 := s2.acquire blk 7
      (holds m v = false → exec (.waitaWake blk) s = .next s) ∧
      (holds m v = true → exec (.waitaWake blk) s =
        .next (s3.setBlk blk { readyAgain (pops ((s3.blk blk).setReg d m) [a, c]) with pc := b.pc + BitVec.ofNat 56 len })))

/-- R22, R200, R201, R260, R291, R299, R301, R314: a waiting request for rows attaches them once they are free; a free cleat place goes to the MMAV that waits; a Ready slot that has not issued for 4,096 cycles
is promoted; an element-progress timer that has run out traps with PROGRESS, or DET_WAIT in the deterministic hold,
of an access that awaits a walk slot with its address in %taddr; in a trap handler it stands still.
(From when a slot has not issued: log 46; where the timer runs: log 39; what %taddr names of an access that awaits a walk: log 83.) -/
def Obligations.GrantsPromotionAndExpiry : Prop :=
  ∀ (s : State) (blk : Nat), s.asleep = false →
    let b := s.blk blk
    let at_ := { s with cur := blk }
    (∀ (fl : Flight) (done rest : List Flight) (d a : R6) (v : Dword) (fm : Form), Oldest1 s blk fl done rest → fl.instr = .mattW fm d a ∨ fl.instr = .matt fm d a →
      fl.sc = [v] → fl.d = none → fl.a = none → fl.b = none → fl.c = none → isPort d = false → s.detOn b = false →
      (s.freeRows (b.core / 4) < v.toNat → exec (.mattGrant blk) s = .next s) ∧
      (v.toNat ≤ s.freeRows (b.core / 4) → exec (.mattGrant blk) s =
        .next (at_.setBlk blk { attached b d v.toNat v.toNat with flights := rest.dropWhile (fun g => g.fin) }))) ∧
    (b.st = .ready → b.restoring = false →
      (4 ≤ s.cleatTaken (b.core / 4) → exec (.cleatPlaceGrant blk) s = .next s) ∧
      (s.cleatTaken (b.core / 4) < 4 →
        ((∀ g ∈ b.flights, ¬Unplaced g) → exec (.cleatPlaceGrant blk) s =
          .next (if b.cleatWait = some false then s.setBlk blk { b with cleatWait := some true } else s)) ∧
        (∀ done g rest cl, b.flights = done ++ g :: rest → (∀ x ∈ done, ¬Unplaced x) → Unplaced g → g.verd = some cl → (∀ x ∈ done ++ rest, x.id ≠ g.id) →
          exec (.cleatPlaceGrant blk) s = .next (s.setBlk blk { b with flights := done ++ { g with verd := some { cl with placed := true } } :: rest })))) ∧
    (∀ core slot, 192 ≤ core → exec (.slotPromotion core slot) s = .fault .noSuchUnit) ∧
    (WaitsToIssue s blk →
      (s.clock - b.readyAt < 4096 * 1000 → exec (.slotPromotion b.core b.slot) s = .next s) ∧
      (4096 * 1000 ≤ s.clock - b.readyAt → exec (.slotPromotion b.core b.slot) s = .next (s.setBlk blk { b with promoted := true }))) ∧
    (b.eptNs < b.eptPeriod * 1000 → exec (.elementProgressExpiry blk) s = .next s) ∧
    (b.restoring = false → b.intrap = true → exec (.elementProgressExpiry blk) s = .next s) ∧
    (b.eptPeriod * 1000 ≤ b.eptNs → b.restoring = false → b.intrap = false → b.trapP = none →
      (∀ done f rest, Oldest1 s blk f done rest → isElementWise f.instr = true →
        let telem : Dword := 1#1 ++ 0#31 ++ BitVec.ofNat 8 f.idx.step ++ 0#3 ++ BitVec.ofNat 5 f.idx.plane ++ BitVec.ofNat 8 f.idx.row ++ BitVec.ofNat 8 f.idx.col
        exec (.elementProgressExpiry blk) s = .next (s.setBlk blk { b with trapP := some { cause := 13, telem, age := f.id } })) ∧
      (∀ done f rest, Oldest1 s blk f done rest → isMatt f.instr = true →
        exec (.elementProgressExpiry blk) s = .next (s.setBlk blk { b with trapP := some { cause := 13, detail := 2, age := f.id } })) ∧
      ((∀ g ∈ b.flights, g.fin = true) →
        let port := fun (q : Nat) => 1#1 ++ 1#1 ++ 0#48 ++ BitVec.ofNat 6 q ++ 0#8
        (∀ q, q < 64 → b.st = .waiting (.port q) → exec (.elementProgressExpiry blk) s = .next (s.takeTrap blk { cause := 13, detail := 1, tport := port q })) ∧
        (∀ q w, q < 64 → b.st = .waiting (.chan q w) → exec (.elementProgressExpiry blk) s = .next (s.takeTrap blk { cause := 13, detail := 1, tport := port q })) ∧
        (b.st = .waiting .det → exec (.elementProgressExpiry blk) s = .next (s.takeTrap blk { cause := 14 })) ∧
        (∀ va, b.st = .ready → b.cleatWait = none → b.defWait = none → b.walkWait = some va → exec (.elementProgressExpiry blk) s = .next (s.takeTrap blk { cause := 13, taddr := taddrOf 0 va })) ∧
        (b.st = .ready → b.cleatWait = some false → exec (.elementProgressExpiry blk) s = .next (s.takeTrap blk { cause := 13, detail := 3 }))))

/-- R17, R107, R137 to R139, R230, R267, R269, R270: once every participant has arrived at a BAR, or retired, the barrier releases: each participant passes its BAR. At .die and .dev they are
the launch's blocks, the epoch advances, and each claim whose scope the barrier covers closes; the lowest claim that fails under policy trap is a MONITOR (12) of every participant. At .domain
they are the blocks of every started launch of the context: the other devices of the mask are told once, and once each has told of its own arrival with the same mask the barrier releases;
where masks differ, every participant takes QPORT (7, 0x0B00), %taddr its mask. A device whose participants have retired answers the others. At .cluster the participants are
the cluster group's, and no epoch advances. (Telling other devices, a withdrawn arrival, a remote one: log 17. The sticky bits before the opening release: log 18.) -/
def Obligations.BarrierReleases : Prop :=
  ∀ (s : State) (l : Nat) (sc : BitVec 4), s.asleep = false → s.blocks.Pairwise (fun x y => x.1 ≠ y.1) → s.launches.Pairwise (fun x y => x.1 ≠ y.1) →
    let x := s.lch l
    let here := fun (e : Nat × Block) => e.2.st = .retired ∨ ∃ a, e.2.arrived = some a ∧ a.sc = sc
    (sc = 6 ∨ sc = 7 → Whole s [l] → (∀ e ∈ s.ofLaunch l, here e) → (∃ e ∈ s.ofLaunch l, e.2.arrived ≠ none) →
      let ids := (s.ofLaunch l).map (fun e => e.1)
      ∃ t, Released s t ids ∧ t.lch l = epochClosed sc x ∧ exec (.barrierRelease l sc) s = .next (monitored s sc [l] ids t)) ∧
    (let ls := (s.launches.filter (fun e => e.2.ctx == x.ctx && e.2.st != .fetched)).map (fun e => e.1)
     let g := ls.flatMap s.ofLaunch
     let ids := g.map (fun e => e.1)
     sc = 8 → Whole s ls → (∀ e ∈ g, here e) →
      ((∃ e ∈ g, e.2.arrived ≠ none) →
        let masks := g.filterMap (fun e => e.2.arrived.map (fun a => a.mask))
        let same := ∀ m ∈ masks, some m = masks.head?
        let js := (masks.flatMap (fun m => s.others m.toNat)).eraseDups
        let far := js.filterMap (fun j => s.remoteArr.find? (fun e => e.1 == x.ctx && e.2.1 == j))
        let done := js = [] ∨ x.ctx ∈ s.told
        let agree := same ∧ ∀ e ∈ far, e.2.2 = masks.head?
        let s1 := { s with remoteArr := far.foldl List.erase s.remoteArr, told := delNum s.told x.ctx }
        (¬done → ∀ m, (same → m = masks.head?) → (¬same → m = none) →
          exec (.barrierRelease l sc) s = .next (match s.tellAll js [.arrive x.ctx s.devid.toNat m] with
            | some t => { t with told := addNum t.told x.ctx }
            | none => s)) ∧
        (done → ¬agree → exec (.barrierRelease l sc) s = .next (
          let go := g.filterMap (fun e => e.2.arrived.map (fun a => (e.1, a.mask)))
          go.foldl (fun (u : State) e => u.deliver e.1 { cause := 7, detail := 0x0B00, taddr := e.2 })
            (go.foldl (fun (u : State) e => u.modBlk e.1 (fun b => { b with arrived := none })) s1))) ∧
        (done → agree → far.length ≠ js.length → exec (.barrierRelease l sc) s = .next s) ∧
        (done → agree → far.length = js.length → ∃ t, Released s t ids ∧ (∀ k ∈ ls, t.lch k = epochClosed sc (s.lch k)) ∧
          t.remoteArr = s1.remoteArr ∧ t.told = s1.told ∧ exec (.barrierRelease l sc) s = .next (monitored s sc ls ids t))) ∧
      (g ≠ [] → (∀ e ∈ g, e.2.st = .retired ∧ e.2.arrived = none) → ∀ e, s.remoteArr.find? (fun e => e.1 == x.ctx) = some e →
        exec (.barrierRelease l sc) s = .next ((({ s with remoteArr := s.remoteArr.erase e } : State).tellAll [e.2.1] [.arrive x.ctx s.devid.toNat e.2.2]).getD s))) ∧
    (∀ g, sc = 5 → x.cgsize ≠ 0 → g < x.total / x.cgsize →
      let group := fun (k : Nat) => (s.ofLaunch l).filter (fun e => e.2.blkid / x.cgsize == k)
      (group g).length = x.cgsize → x.cgsize ≠ x.total → (∀ e ∈ group g, here e) → (∃ e ∈ group g, e.2.arrived ≠ none) →
      (∀ k, k < g → (group k).length ≠ x.cgsize ∨ (∃ e ∈ group k, ¬here e) ∨ ∀ e ∈ group k, e.2.arrived = none) →
      ∃ t, Released s t ((group g).map (fun e => e.1)) ∧ t.lch l = x ∧ exec (.barrierRelease l sc) s = .next t) ∧
    (∀ done e rest, sc = 5 → x.cgsize = 0 → x.total ≠ 1 → s.ofLaunch l = done ++ e :: rest → here e → e.2.arrived ≠ none → (∀ y ∈ done, ¬here y ∨ y.2.arrived = none) →
      ∃ t, Released s t [e.1] ∧ t.lch l = x ∧ exec (.barrierRelease l sc) s = .next t)

/-- R255, R318, R333: an atomic that returns nothing, of a launch in deterministic mode, is deferred at its port with the index of its block and its age, and memory does
not change; while its slice holds 1,024 of them it waits. It executes once the lower blocks are done and no operation of the epoch on its bytes comes before it, deferred or still on its way: then it is gone, and
its location alone takes the new value. Where its target has been poisoned since, it changes nothing and POISON waits for the block's next instruction.
(That a location is a shared byte: log 14; the late POISON: log 93.) -/
def Obligations.AtomicIsDeferredThenApplied : Prop :=
  (∀ (s : State) (blk k w : Nat) (p : Pend) (rest : List Pend) (op : RmwOp) (x y : Dword) (d : R6) (sc : BitVec 4),
    Oldest s blk p rest k → p.kind = .rmw op w x y d false → p.pas = [k] → isFarKey k = false → p.done < sc.toNat → 4 ≤ sc.toNat → sc.toNat ≤ 11 →
    s.detOn (s.blk blk) = true → p.agent = .c →
    let there := s.deferred.filter (fun e => isOwnKey e.pa && portDie e.pa == portDie k && portSlice e.pa == portSlice k)
    (isOwnKey k = true → there.length < 1024 → ∃ t, exec (.accessPerformed blk 0 sc) s = .next t ∧ t.mem = s.mem ∧
      t.deferred = if s.homePoison k w = none
        then s.deferred ++ [{ launch := (s.blk blk).launch, blk, blkid := (s.blk blk).blkid, seq := p.seq, id := p.id, pa := k, op, w, x }] else s.deferred) ∧
    (isOwnKey k = true → 1024 ≤ there.length → ∃ t, exec (.accessPerformed blk 0 sc) s = .next t ∧
      t.mem = s.mem ∧ t.deferred = s.deferred ∧ t.blocks = s.blocks)) ∧
  (∀ (s : State) (i : Nat) (d : Deferred), s.asleep = false → s.deferred[i]? = some d → d.w = 4 ∨ d.w = 8 → (∀ o e, d.op ≠ .red o e) → LowerAreDone s (s.blk d.blk) →
    (∀ e ∈ s.deferred, e.launch = d.launch → e.pa < d.pa + d.w → d.pa < e.pa + e.w →
      d.blkid < e.blkid ∨ (d.blkid = e.blkid ∧ (d.seq < e.seq ∨ (d.seq = e.seq ∧ d.id ≤ e.id)))) →
    s.earlierOwed d = false → s.queueFull d.pa = false → s.ckpt = none →
    (∀ e p, s.homePoison d.pa d.w = some e → (s.blk d.blk).pend.find? (fun p => p.id == d.id) = some p → p.agent = .c → (s.blk d.blk).st ≠ .retired →
      (s.blk d.blk).trapP = none → exec (.deferredOpApply i) s = .next ({ s with deferred := s.deferred.eraseIdx i }.setBlk d.blk { s.blk d.blk with
        pend := (s.blk d.blk).pend.filter (fun q => q.id != d.id), trapP := some { cause := 5, detail := e, taddr := taddrWord 0 p.addr, age := p.id, now := true } })) ∧
    (s.homePoison d.pa d.w = none → ∃ t, exec (.deferredOpApply i) s = .next t ∧ t.deferred = s.deferred.eraseIdx i ∧ t.blocks = s.blocks ∧
      t.mem.num d.pa d.w = (rmwResult d.op (8 * d.w) (BitVec.ofNat _ (s.mem.num d.pa d.w)) (BitVec.ofNat _ d.x.toNat) 0).toNat ∧
      ∀ a, a < d.pa ∨ d.pa + d.w ≤ a → Mem.get t.mem a = Mem.get s.mem a))

/-- R18, R21, R86, R301, R321, R373: a trap that waits is taken once the older tile instructions are complete and the control lane's instruction is over (log 93), also while its block is being saved, and then the save goes
on. A draining block whose tile instructions, commands, queries and reductions are complete, with no register still owed a value (log 87), flushes its counters and retires. A pending stop lands at a strip
boundary, told by a STOP record and, where asked, a DUMP. The release of a frozen block ends its launch. An encoding of no instruction is ILLEGAL (1) with its DETAIL.
(The strip of a STOP: log 40; the release of a frozen block: log 47. That an unallocated encoding's ILLEGAL is taken at once, whatever its major, is the model's choice: log 28,
log 42, log 71.) -/
def Obligations.BlockEntriesAndEnds : Prop :=
  ∀ (s : State) (blk : Nat), s.asleep = false →
    let b := s.blk blk
    (∀ t, b.trapP = some t → b.restoring = false → b.stopped = false →
      let older := t.now = false ∧ ∃ f ∈ b.flights, f.fin = false ∧ f.id < t.age
      let r := (s.setBlk blk { b with trapP := none }).takeTrap blk t
      (b.laneHeld = true → exec (.trapEntry blk) s = .next s) ∧
      (b.laneHeld = false → b.st = .ready ∨ (∃ w, b.st = .waiting w) ∨ b.st = .retiring →
        (older → exec (.trapEntry blk) s = .next s) ∧ (¬older → exec (.trapEntry blk) s = .next r)) ∧
      (b.laneHeld = false → b.st = .saving → ¬older → (r.blk blk).st = .ready → exec (.trapEntry blk) s =
        .next (r.setBlk blk { r.blk blk with st := .saving, held := (r.blk blk).recs.length }))) ∧
    (b.st = .retiring → b.exitIssued = true →
      let done := b.trapP = none ∧ TilesDone b ∧ ReductionsSent b ∧ b.marks = [] ∧ b.fqs = [] ∧ (∀ c ∈ b.cmds, c.delivered = true) ∧
        ∀ p ∈ b.pend, p.dest = none ∧ (p.agent = .e → 3 ≤ p.done)
      let s1 := s.flushBbx blk
      let b1 := s1.blk blk
      let s2 := s1.setBlk blk { b1 with
        st := .retired, flights := [], recs := [], cmds := [], marks := [], fqs := [], fences := [], rows := 0, dem := 0, cleatWait := none, trapP := none
        dueTrap := none, arrived := none, stopReq := none, stopped := false, pend := b1.pend.filter (fun p => !p.isRead && !p.isShared) }
      (¬done → exec (.drainComplete blk) s = .next s) ∧
      (done → exec (.drainComplete blk) s = .next ((s2.modLch b.launch (fun x => { x with retired := x.retired + 1 })).settleCore b.core))) ∧
    (s.stopHere blk = false ∨ ¬TilesDone b ∨ ¬ReductionsSent b → exec (.debugStop blk) s = .next s) ∧
    (s.stopHere blk = true → TilesDone b → ReductionsSent b →
      let s1 := s.record (s.slotsOf b.ctx 0) 0x09 1 b.core b.slot ((s.lch b.launch).who b.blkid) [b.pc.toNat, b.strip.toNat, b.ordinal]
      exec (.debugStop blk) s = .next ((if b.stopReq = some true then s1.dumpRecord b else s1).setBlk blk
        { b with st := .waiting .stop, stopReq := none, stopped := true })) ∧
    (b.st ≠ .frozen → exec (.frozenRelease blk) s = .next s) ∧
    (b.st = .frozen → ∃ t, exec (.frozenRelease blk) s = .next t ∧ LaunchEnded s t blk) ∧
    ∀ d, exec (.unallocatedEncoding d) s = illegal s d.toNat

/-- R275, R277, R279, R280, R284, R294: the next record of a queue is fetched: its launch has the record's fields, RIDX counts on; a record that fails a check halts its queue with
the check's ERR, a read that faults stops its context. A fetched launch starts in its queue's order once its claims find free monitors, the lowest ones, and in deterministic mode notes the free places, the memory and the poison its first epoch opens with; it completes once its
blocks have retired with every access performed, and those ordered before them: its claims are free, its completion word is written, and the trace told.
(Errors of a record between two readings: log 45; what completion waits for: log 43.) -/
def Obligations.LaunchFetchedStartedCompleted : Prop :=
  ∀ s : State, s.asleep = false →
    (∀ c q, CanFetch s c q →
      let y := (s.ctx c).queue q
      let at_ := y.base.toNat + y.ridx.toNat % 2 ^ y.log2sz.toNat * 128
      (∀ va s1, (Eng.read c 0x01 at_ 128).run s = (.error (.fault va), s1) → exec (.recordFetch c q) s =
        .next (s1.modCtx c (fun x => { x with state := 2, fq := BitVec.ofNat 4 q, faddr := BitVec.ofNat 56 va }))) ∧
      (∀ bs s1, (Eng.read c 0x01 at_ 128).run s = (.ok bs, s1) →
        let ds := dwords bs 16
        let halted := fun (t : State) (n : Nat) => Host.Outcome.next (φ := Fault) (ρ := Refusal)
          (t.modQueue c q (fun y => { y with halt := true, err := BitVec.ofNat 8 n }))
        (∀ n, recordError (s.ctx c).pmax.toNat ds = some n → exec (.recordFetch c q) s = halted s1 n) ∧
        (recordError (s.ctx c).pmax.toNat ds = none → recKind ds ≠ 2 →
          (∀ n s2, (Eng.checkKernel c ds).run s1 = (.error (.err n), s2) → exec (.recordFetch c q) s = halted s2 n) ∧
          (∀ hdr s2, (Eng.checkKernel c ds).run s1 = (.ok hdr, s2) → exec (.recordFetch c q) s =
            .next (({ s2 with nextId := s2.nextId + 1 }.setLch s2.nextId (recordLaunch c q y.ridx.toNat bs hdr)).modQueue c q
              (fun y => { y with ridx := y.ridx + 1 })))))) ∧
    (∀ l x, Tab.get s.launches l = some x → x.st = .fetched → x.kind ≠ 2 →
      let before := fun (e : Nat × Launch) => e ∈ s.launches ∧ e.1 < l ∧ e.2.ctx = x.ctx ∧ e.2.queue = x.queue
      let mine := ((List.range 16).filter (fun m => !s.ssms.contains m)).take x.monc
      (16 < s.ssms.length + x.monc ∨ (∃ e, before e ∧ (e.2.st = .fetched ∨ (x.barr = true ∧ x.member = none ∧ e.2.st ≠ .completed))) →
        exec (.launchStart l) s = .next s) ∧
      (s.ssms.length + x.monc ≤ 16 → (∀ e, before e → e.2.st ≠ .fetched ∧ (x.barr = true → e.2.st = .completed)) →
        let y := { x with st := .started, startedAt := s.nextId, ssms := mine, claims := List.replicate x.monc {} }
        exec (.launchStart l) s = .next (launchTraced ({ s with nextId := s.nextId + 1, ssms := mine.foldl addNum s.ssms }.setLch l
          (if x.det = true then { y with
            free := (List.range 16).map (s.freePlaces x.ctx), snap := s.mem, snapBad := s.poison.map (fun p => (p, (s.homePoison (p * 64) 64).getD 0)) }
           else y)) x 0x01 x.entry.toNat))) ∧
    (∀ l, let x := s.lch l
      x.st = .started → x.kind ≠ 2 → x.member = none →
      let ended := x.made = x.total ∧ (∀ e ∈ s.ofLaunch l, e.2.st = .retired ∧ e.2.pend = [] ∧ SeenDone s e.2 9) ∧ ∀ d ∈ s.deferred, d.launch ≠ l
      let s1 := ((s.enterReserved l).dropLaunch l).modLch l (fun x => { x with st := .completed })
      (¬ended → exec (.launchComplete l) s = .next s) ∧
      (ended → x.cwaddr = 0 → exec (.launchComplete l) s = .next (launchTraced s1 x 0x02 x.retired)) ∧
      (ended → x.cwaddr ≠ 0 →
        (∀ s2, s1.engineWrite x.ctx x.cwaddr (leBytes 8 x.cwval.toNat) = .ok s2 → exec (.launchComplete l) s = .next (launchTraced s2 x 0x02 x.retired)) ∧
        (∀ va, s1.engineWrite x.ctx x.cwaddr (leBytes 8 x.cwval.toNat) = .error va → exec (.launchComplete l) s =
          .next (launchTraced (s1.modCtx x.ctx (fun y => { y with state := 2, fq := BitVec.ofNat 4 x.queue, faddr := BitVec.ofNat 56 x.cwaddr })) x 0x02 x.retired))) ∧
      (ended → ∀ t, exec (.launchComplete l) s = .next t → (t.lch l).st = .completed ∧ (t.lch l).ssms = [] ∧ ∀ m ∈ x.ssms, m ∉ t.ssms))

/-- R47, R241, R278, R286, R287, R304 to R306, R355: the first candidate that fits on a die is placed: its next block starts with the state of R47 on the core and slot chosen, or a
Saved one begins its restore. A candidate passed over for 1 ms reserves the cluster that needs the fewest blocks removed. A block that is being saved stops its tile instructions
once their records fit beside those held (log 74); one whose accesses, commands and queries are complete, and that can have seen no write not performed at .dev, is then written to its frame and Saved; where no frame is free for an evacuation, or the frame cannot be written, its launch ends. A restore
reads the frame back, or ends the launch where it cannot be read or is unsound.
(Which zone and slot: log 46; which frame: log 6; fields a resume does not read: log 76; when a restore ends: log 77; what an acquire carries: log 96.) -/
def Obligations.BlocksPlacedSavedRestored : Prop :=
  ∀ s : State, s.asleep = false →
    (∀ die, 2 ≤ die → exec (.blockPlace die) s = .fault .noSuchUnit) ∧
    (∀ die, die < 2 → s.quiet = true → exec (.blockPlace die) s = .next s) ∧
    (∀ die cand rest cl cores, die < 2 → s.quiet = false → s.candidates = cand :: rest → s.placeFor [die] [] cand = some (cl, cores) →
      let l := cand.launch
      let x := s.lch l
      (∀ core, cand.saved = [] → cores = [core] → (∀ e ∈ s.blocks, e.1 ≠ s.nextId) →
        ∃ t, exec (.blockPlace die) s = .next t ∧
          t.blk s.nextId = { firstBlock x l x.made with
            core, slot := s.freeSlot core, dem := s.demOf x.heat, placedAt := s.nextId + 1, readyAt := s.clock
            seenHalf := s.halfWrites, seenDirty := s.dirty.map (fun e => e.1)
            stopReq := if x.stopNew = true then some false else none } ∧
          (∀ j, j ≠ s.nextId → t.blk j = s.blk j) ∧ t.lch l = { x with made := x.made + 1, passed := none, cluster := none }) ∧
      (∀ i core, cand.saved = [i] → cores = [core] →
        ∃ t, exec (.blockPlace die) s = .next t ∧
          t.blk i = { s.blk i with core, slot := s.freeSlot core, dem := s.demOf (s.lch (s.blk i).launch).heat, placedAt := s.nextId, readyAt := s.clock
                                   seenHalf := s.halfWrites, seenDirty := s.dirty.map (fun e => e.1)
                                   passedAt := none, cluster := none, restoring := true, heldBack := false } ∧
          (∀ j, j ≠ i → t.blk j = s.blk j) ∧ t.launches = s.launches)) ∧
    (∀ n cand since, s.candidates.find? (fun c => c.name == n) = some cand → s.candPassed cand = some since → s.candCluster cand = none →
      let x := s.lch cand.launch
      let open_ := fun (cl : Nat) => cl < 48 ∧ (s.zone (cl / 2)).state = 0 ∧ ((s.zone (cl / 2)).ownv = false ∨ (s.zone (cl / 2)).ownedBy x = true)
      (s.qtb < since + 1000000 → exec (.clusterReservation n) s = .next s) ∧
      (since + 1000000 ≤ s.qtb → ∀ cl k, open_ cl → s.clusterRemovals cand cl = some k →
        (∀ c m, open_ c → s.clusterRemovals cand c = some m → k < m ∨ (k = m ∧ cl ≤ c)) →
        exec (.clusterReservation n) s = .next (s.setCand cand (some since) (some cl)))) ∧
    (∀ blk, (s.blk blk).st = .saving →
      let s1 := s.flushBbx blk
      let b := s1.blk blk
      let settled := (s.blk blk).trapP = none ∧ (s.blk blk).flights = [] ∧ (∀ c ∈ (s.blk blk).cmds, c.delivered = true) ∧ (s.blk blk).fqs = [] ∧ (s.blk blk).pend = [] ∧
        s.passed (s.blk blk).core = [] ∧ s.halfWrites = []
      let ended := fun (t : State) => { t with saves := t.saves.filter (fun e => e.2 != blk) }
      let tells := (s.blk blk).trapP = none ∧ (s.blk blk).stopRecs.length ≤ 8
      ((s.blk blk).flights ≠ [] → (tells → exec (.saveComplete blk) s = .next (s.stopTiles blk)) ∧ (¬tells → exec (.saveComplete blk) s = .next s)) ∧
      ((s.blk blk).flights = [] → ¬settled → exec (.saveComplete blk) s = .next s) ∧
      (settled → b.frame = none → (s1.ctx b.ctx).freeFrame = none →
        (b.reason = 17 → exec (.saveComplete blk) s = .next ((ended s1).terminate blk 4 0)) ∧ (b.reason ≠ 17 → exec (.saveComplete blk) s = .next s)) ∧
      (settled → ∀ f, b.frame.or (s1.ctx b.ctx).freeFrame = some f →
        let s2 := (s1.modCtx b.ctx (fun c => { c with frames := addNum c.frames f })).modBlk blk (fun b => { b with frame := some f })
        (s2.writeFrame blk f ⟨b.reason, 0, 1⟩ = none →
          exec (.saveComplete blk) s = .next ((ended (s2.modBlk blk (fun b => { b with frame := none }))).terminate blk 3 0)) ∧
        (∀ s3, s2.writeFrame blk f ⟨b.reason, 0, 1⟩ = some s3 →
          let s4 := s3.blkRecord b 0x04 1 [b.reason, f]
          exec (.saveComplete blk) s = .next ((ended (s4.modBlk blk (fun b => { b with
            st := .saved, restoring := false, dem := 0, passedAt := none, recs := b.recs.map (fun f => f.unplaced.turned s4.clock) }))).settleCore b.core)))) ∧
    (∀ blk, (s.blk blk).st = .saved → (s.blk blk).restoring = true →
      let b := s.blk blk
      (b.frame.bind (fun f => s.readFrame blk f) = none → exec (.restoreComplete blk) s = .next (s.terminate blk 3 0)) ∧
      (∀ f m s1, b.frame = some f → s.readFrame blk f = some (m, s1) →
        (s1.frameBad b m = true ∨ frameBlock b m = none → exec (.restoreComplete blk) s = .next (s1.terminate blk 8 0)) ∧
        (∀ b1, s1.frameBad b m = false → frameBlock b m = some b1 →
          let through := match b1.passed with
            | none => b1
            | some a => { pops b1 a.src.toList with pc := b1.pc + BitVec.ofNat 56 a.len }
          let s2 := (s1.setBlk blk { through with st := if b1.stopped = true then .waiting .stop else .ready, restoring := true }).acquire blk 7
          (b1.intrap = true → exec (.restoreComplete blk) s = .next (s2.replay blk b1.held)) ∧
          (b1.intrap = false → exec (.restoreComplete blk) s = .next ((s2.replay blk 0).setBlk blk { (s2.replay blk 0).blk blk with eptNs := 0 })))))

/-- R274, R275, R283: a queue opens with its indices, counts and status 0, unless it is open or a record fetched from it has not started; closing and DESTROY discard the records it
holds and those reserved for it, counted in DISC; RESUME ends a halt, skipping and counting the failing record but after a terminated launch (ERR 0x10); a write of LQWIDX is
discarded when the queue would hold more than its ring, or leave no free place for a record reserved for it. A unit the device does not have is a fault.
(ERR after RESUME: log 45.) -/
def Obligations.LaunchQueueRegisters : Prop :=
  ∀ (s : State) (c q : Nat) (v : Dword), s.asleep = false →
    (64 ≤ c ∨ 16 ≤ q → exec (.lqOpen c q) s = .fault .noSuchUnit ∧ exec (.lqClose c q) s = .fault .noSuchUnit ∧ exec (.lqDestroy c q) s = .fault .noSuchUnit ∧
      exec (.lqResume c q) s = .fault .noSuchUnit ∧ exec (.lqwidxWrite c q v) s = .fault .noSuchUnit ∧ exec (.recordFetch c q) s = .fault .noSuchUnit) ∧
    (c < 64 → q < 16 →
      let y := (s.ctx c).queue q
      let upd := fun (f : LaunchQueue → LaunchQueue) => Host.Outcome.next (φ := Fault) (ρ := Refusal) (s.modQueue c q f)
      let closed := ({ s with launches := s.launches.map (fun (e : Nat × Launch) => (e.1, if e.2.ctx = c then { e.2 with resv := e.2.resv.filter (fun r => r.queue != q) } else e.2)) }).modQueue c q
        (fun y => { y with open_ := false, disc := BitVec.ofNat 32 ((y.widx - y.ridx).toNat + s.reserved c q), ridx := y.widx })
      exec (.lqOpen c q) s = (if y.open_ = true ∨ fetchedOf s c q ≠ [] then .next s
        else upd (fun y => { y with open_ := true, widx := 0, ridx := 0, disc := 0, err := 0, halt := false })) ∧
      exec (.lqClose c q) s = (if y.open_ = true then .next closed else .next s) ∧ exec (.lqDestroy c q) s = .next closed ∧
      exec (.lqResume c q) s = (if y.open_ = false ∨ y.halt = false then .next s
        else if y.err = 0x10 then upd (fun y => { y with halt := false }) else upd (fun y => { y with halt := false, ridx := y.ridx + 1, disc := y.disc + 1 })) ∧
      exec (.lqwidxWrite c q v) s = (if v.extractLsb' 32 32 = 0 ∧ (v.truncate 32 - y.ridx).toNat + s.reserved c q ≤ 2 ^ y.log2sz.toNat then upd (fun y => { y with widx := v.truncate 32 })
        else .next s))

/-- R284, R285, R306, R315, R362: a write of CTXCTL with no reserved value sets EN, PMAX and the gap, and EN from 0 to 1 leaves the faulted state; with CRST, or at a context reset,
every queue closes, fetched records are discarded and counted, started launches lose their blocks, and the state is resetting until it is done. An invalidation
discards the translations of its range and is done once every older access to it is performed, a deferred one applied; a code flush discards verified entries and code caches.
(What a context reset ends first: log 48; when an invalidation is done: log 54.) -/
def Obligations.ContextRegisters : Prop :=
  ∀ (s : State) (c : Nat) (v : Dword), s.asleep = false →
    (64 ≤ c → exec (.ctxEnable c v) s = .fault .noSuchUnit ∧ exec (.contextReset c) s = .fault .noSuchUnit ∧ exec (.contextResetDone c) s = .fault .noSuchUnit ∧
      exec (.translationInvalidate c v) s = .fault .noSuchUnit ∧ exec (.invalidationDone c) s = .fault .noSuchUnit ∧ exec (.codeFlush c) s = .fault .noSuchUnit ∧
      exec (.codeFlushDone c) s = .fault .noSuchUnit) ∧
    (c < 64 →
      let x := s.ctx c
      let upd := fun (f : Context → Context) => Host.Outcome.next (φ := Fault) (ρ := Refusal) (s.modCtx c f)
      let lo := invStart v
      let set := fun (x : Context) => { x with
        en := v.getLsbD 31, pmax := v.extractLsb' 16 5, pregap := v.extractLsb' 8 5
        state := if v.getLsbD 31 = true ∧ x.en = false ∧ x.state = 2 then 0 else x.state }
      (ctxctlReserved v → exec (.ctxEnable c v) s = .next s) ∧
      (¬ctxctlReserved v → v.getLsbD 0 = false → exec (.ctxEnable c v) s = upd set) ∧
      (¬ctxctlReserved v → v.getLsbD 0 = true → exec (.ctxEnable c v) s = exec (.contextReset c) (s.modCtx c set)) ∧
      (x.state = 3 → exec (.contextReset c) s = .next s ∧ exec (.contextResetDone c) s = upd (fun x => { x with state := 0 })) ∧
      (x.state ≠ 3 → exec (.contextResetDone c) s = .next s) ∧
      (x.state ≠ 3 → s.blocks.Pairwise (fun a b => a.1 ≠ b.1) → ∃ t, exec (.contextReset c) s = .next t ∧ (t.ctx c).state = 3 ∧
        (∀ q, q < 16 → let y := x.queue q
          ((t.ctx c).queue q).open_ = false ∧ ((t.ctx c).queue q).ridx = y.widx ∧ ((t.ctx c).queue q).widx = y.widx ∧
          ((t.ctx c).queue q).disc = BitVec.ofNat 32 ((y.widx - y.ridx).toNat + s.reserved c q) + BitVec.ofNat 32 (fetchedOf s c q).length) ∧
        ∀ l y, Tab.get s.launches l = some y → y.ctx = c →
          (y.st = .fetched → (t.lch l).st = .completed ∧ (t.lch l).terminated = true) ∧ (y.st = .started → ∀ j, (t.blk j).launch = l → (t.blk j).st = .retired)) ∧
      (v.extractLsb' 56 4 ≠ 0 ∨ v.extractLsb' 0 18 ≠ 0 ∨ lo % invLength v ≠ 0 ∨ x.invRun ≠ none → exec (.translationInvalidate c v) s = .next s) ∧
      (v.extractLsb' 56 4 = 0 → v.extractLsb' 0 18 = 0 → lo % invLength v = 0 → x.invRun = none → exec (.translationInvalidate c v) s =
        .next { s.modCtx c (fun x => { x with invSize := v.extractLsb' 60 2, invVa := BitVec.ofNat 56 lo, invRun := some ((v.extractLsb' 60 2).toNat, lo) }) with
          tlbs := s.tlbs.filter (fun t => !(t.ctx == c && t.vpn * 2 ^ levelShift t.level < lo + invLength v && lo < (t.vpn + 1) * 2 ^ levelShift t.level)) }) ∧
      (x.invRun = none → exec (.invalidationDone c) s = .next s) ∧
      (∀ size first, x.invRun = some (size, first) →
       let ended := ∀ e ∈ s.blocks, e.2.ctx = c → (∀ k ∈ e.2.cmds, k.delivered = true) ∧
         ∀ p ∈ e.2.pend, p.isShared = true ∨ (7 ≤ p.done ∧ ∀ d ∈ s.deferred, d.blk = e.1 → d.id ≠ p.id) ∨ p.addr + p.size ≤ first ∨ first + invBytes size ≤ p.addr
       (ended → exec (.invalidationDone c) s = upd (fun x => { x with invRun := none })) ∧ (¬ended → exec (.invalidationDone c) s = .next s)) ∧
      exec (.codeFlush c) s = (if x.codeDone = true
        then .next ({ s with icache := s.icache.filter (fun e => e.ctx != c) }.modCtx c (fun x => { x with verified := [], codeDone := false })) else .next s) ∧
      exec (.codeFlushDone c) s = (if x.codeDone = true then .next s else upd (fun x => { x with codeDone := true })))

/-- R8, R9, R346, R385: a host write of a register acts as that register's event, or sets it; while the host port is down or a warm reset is in progress it does nothing. A write by secure
firmware sets WCORE, whose bits take effect on the cores that hold no block, or a bound of a secure region; one with a reserved bit set is discarded. -/
def Obligations.RegisterWrites : Prop :=
  ∀ (s : State) (v : Dword),
    (∀ off, s.hostUp = false ∨ s.resetting = true ∨ off % 8 ≠ 0 → exec (.registerWrite off v) s = .next s) ∧
    (s.asleep = false → s.hostUp = true →
      (∀ c q, c < 64 → q < 16 → exec (.registerWrite (0x100110 + c * 0x1000 + q * 0x40) v) s = exec (.lqwidxWrite c q v) s) ∧
      (∀ c, c < 64 → exec (.registerWrite (0x100000 + c * 0x1000) v) s = exec (.ctxEnable c v) s) ∧
      (∀ z, z < 24 → exec (.registerWrite (0x60000 + z * 0x40) v) s = exec (.zfatWrite z v) s ∧
        exec (.registerWrite (0x60038 + z * 0x40) v) s = exec (.zvalveWrite z v) s) ∧
      (∀ n, n < 32 → exec (.registerWrite (0x70800 + n * 0x40) v) s = exec (.tsctlWrite n v) s) ∧
      exec (.registerWrite 0x60800 v) s = exec (.csupplyWrite v) s ∧
      exec (.registerWrite 0x70310 v) s = (if v.extractLsb' 6 58 = 0 then .next { s with dbgctx := v.truncate 6 } else .next s)) ∧
    (∀ n off, n < 16 → s.resetting = false →
      (off = 0x280 + 16 * n → exec (.worldRegisterWrite off v) s = (if v.extractLsb' 52 10 = 0 ∧ v.extractLsb' 0 18 = 0
        then .next { s with wrgn := s.wrgn.setIfInBounds n (v, (s.wrgn[n]?.getD (0, 0)).2) } else .next s)) ∧
      (off = 0x288 + 16 * n → exec (.worldRegisterWrite off v) s = (if v.extractLsb' 52 12 = 0 ∧ v.extractLsb' 0 18 = 0
        then .next { s with wrgn := s.wrgn.setIfInBounds n ((s.wrgn[n]?.getD (0, 0)).1, v) } else .next s)) ∧
      (n < 3 → off = 0x200 + 8 * n → ∃ cores, exec (.worldRegisterWrite off v) s = .next { s with wcore := s.wcore.setIfInBounds n v, secure := cores } ∧
        ∀ c, c < 192 → (c ∈ cores ↔ if (s.onCore c).isEmpty = true then ((s.wcore.setIfInBounds n v)[c / 64]?.getD 0).getLsbD (c % 64) = true else c ∈ s.secure))) ∧
    (s.resetting = true → ∀ off, exec (.worldRegisterWrite off v) s = .next s)

/-- R236, R238, R256, R317, R320, R332, R334, R345: while the host port is up and HBM does not rest, a host read of at most 4,096 bytes gives the bytes at their offsets, marked
poisoned where a sector is; a write of at most 512 bytes changes its bytes alone, clears the poison of the sectors it covers, or poisons those it touches; an AtomicOp changes its location and
answers the old value. A request of more bytes, above the memory, in a secure region or misaligned is answered as unsupported, and does nothing; one whose line finds no place in the write
queue waits. The port trains only where the bring-up has reached it. An eviction drops a copy from L1, or carries a line's dirty sectors to HBM; memory keeps its bytes. That the host is no
secure master is the model's reading (log 81). (The write queue, and how a refusal shows: log 12 and log 62; what blocks have under way on sectors about to be poisoned: log 93.) -/
def Obligations.HostMemoryAccesses : Prop :=
  ∀ s : State,
    (∀ up, exec (.hostPortLinkChange up) s = .next { s with hostUp := up && s.mgmt.step == 0 }) ∧
    (s.hostUp = false ∨ s.resetting = true → (∀ off n, exec (.hostMemoryRead off n) s = .next s) ∧ (∀ off bs ep, exec (.hostMemoryWrite off bs ep) s = .next s) ∧
      ∀ off op w x y, exec (.hostAtomicop off op w x y) s = .next s) ∧
    (s.hostUp = true → s.resetting = false →
      let reaches := fun (off n : Nat) => off + n ≤ devMem ∧ ∀ b, b = off ∨ b = off + n - 1 → s.regionSecure (s.devid.toNat * 2 ^ 45 + b) = false
      let refused := Host.Outcome.next (φ := Fault) (ρ := Refusal) { s with hostRead := [], hostPoison := false, hostUnsupported := true }
      let placed := fun (off n : Nat) => ∀ p, touches off n p → s.queueFull (p * 64) = false
      (∀ off n, 0 < n → (n ≤ 4096 → reaches off n → exec (.hostMemoryRead off n) s =
          .next { s with hostRead := (List.range n).map (fun i => Mem.get s.mem (off + i)), hostPoison := poisoned s off n, hostUnsupported := false }) ∧
        (4096 < n ∨ ¬reaches off n → exec (.hostMemoryRead off n) s = refused)) ∧
      (∀ off bs ep, bs ≠ [] → bs.length ≤ 512 → reaches off bs.length → placed off bs.length → (ep = true → Unawaited s off bs.length) → ∃ t, exec (.hostMemoryWrite off bs ep) s = .next t ∧
        (∀ a, Mem.get t.mem a = if off ≤ a ∧ a < off + bs.length then bs.getD (a - off) 0 else Mem.get s.mem a) ∧
        (∀ p, p ∈ t.poison ↔ (ep = true ∧ touches off bs.length p) ∨ (p ∈ s.poison ∧ ¬covers off bs.length p)) ∧
        t = { s with mem := t.mem, poison := t.poison, dirty := t.dirty, poisonL2 := t.poisonL2, wq := t.wq, free := t.free, hostUnsupported := false }) ∧
      (∀ off bs ep, bs ≠ [] → 512 < bs.length ∨ ¬reaches off bs.length → exec (.hostMemoryWrite off bs ep) s = refused) ∧
      (∀ off bs ep, bs ≠ [] → bs.length ≤ 512 → reaches off bs.length → ¬placed off bs.length → exec (.hostMemoryWrite off bs ep) s = .next s) ∧
      (∀ off op w x y, let n := if w = true then 4 else 8
        (¬reaches off n ∨ off % n ≠ 0 → exec (.hostAtomicop off op w x y) s = refused) ∧
        (reaches off n → off % n = 0 → s.queueFull off = true → exec (.hostAtomicop off op w x y) s = .next s) ∧
        (reaches off n → off % n = 0 → s.queueFull off = false → ∃ t, exec (.hostAtomicop off op w x y) s = .next t ∧
          t.mem.num off n = (rmwResult (atomicOpOf op) (8 * n) (BitVec.ofNat _ (s.mem.num off n)) (BitVec.ofNat _ x.toNat) (BitVec.ofNat _ y.toNat)).toNat ∧
          (∀ a, a < off ∨ off + n ≤ a → Mem.get t.mem a = Mem.get s.mem a) ∧ t.hostRead = leBytes n (s.mem.num off n) ∧ t.hostPoison = poisoned s off n ∧
          t = { s with
            mem := t.mem, dirty := t.dirty, wq := t.wq, free := t.free, hostRead := t.hostRead, hostPoison := t.hostPoison, hostUnsupported := false }))) ∧
    (s.asleep = false →
      (∀ core sector, 192 ≤ core → exec (.l1Eviction core sector) s = .fault .noSuchUnit) ∧
      (∀ core sector, core < 192 → ∃ l1, exec (.l1Eviction core sector) s = .next { s with l1 } ∧
        ∀ c p, ({ s with l1 } : State).l1Copy c p =
          if p = sector ∧ s.l1Core c (p * 64) = s.l1Core core (sector * 64) then none else s.l1Copy c p) ∧
      ∀ line, exec (.l2Eviction line) s = .next { s with dirty := s.dirty.filter (fun e => e.1 / 4 != line) })

/-- R342, R368, R381, R383, R384, R386, R388: without VAUX no command is answered; the recovery state refuses (3) all but REGRD of PARTID and CMID and FWUPD. Else each answers 1 to an invalid
operand and 2 when busy, with no effect, or 0 with its effect: REGRD's dword, all ones in a warm reset; REGWR as a host write; WARMRST with cause 2; QSTEP's step of the QTB, told to every enabled session; the slew
limit, which a slew under way keeps; the device number, while no context is enabled; a route of one or two links; an image staged for its class; a measurement of 64 bytes with its signature; a
part of the certificate chain of slot 0, and to any other request what SPDM says (log 20). The host port carries a request while it is up.
(Details of FWUPD, DEVID and ROUTE: log 56; the slew: log 90.) -/
def Obligations.SideBandCommands : Prop :=
  ∀ s : State,
    (∀ i, isCommand i = true → s.mgmt.step = 1 → exec i s = .next s) ∧
    (∀ i, isCommand i = true → inRecovery i = false → s.mgmt.step ≠ 1 → s.mgmt.recovery = true → exec i s = answered s 3) ∧
    (s.mgmt.step ≠ 1 → s.mgmt.recovery = false →
      (∀ off, exec (.regrd off) s = answered s 0 (if s.resetting = true then BitVec.allOnes 64 else BitVec.ofNat 64 (s.regRead off))) ∧
      (∀ off v, ∃ t, exec (.registerWrite off v) { s with hostUp := true } = .next t ∧ exec (.regwr off v) s = answered { t with hostUp := s.hostUp } 0) ∧
      exec .warmrst s = answered (warmStarted s 2) 0 ∧
      (∀ ns, exec (.qstep ns) s = if ns = 0 then answered s 1 else
        answered ({ s with qtb := s.qtb + ns }.record ((List.range 32).filter (fun n => (s.slotOf n).en)) 0x0C 1 0xFF 0 0 [s.qtb, s.qtb + ns]) 0) ∧
      (∀ ppm, exec (.slewmax ppm) s = if ppm = 0 ∨ 65535 < ppm then answered s 1 else answered { s with slewMax := ppm, qtbSlew := max (-(ppm : Int)) (min ppm s.qtbSlew) } 0) ∧
      (∀ n, exec (.devid n) s = if 64 ≤ n then answered s 1 else if (List.range 64).any (fun c => (s.ctx c).en) = true then answered s 2 else answered { s with devid := BitVec.ofNat 6 n } 0) ∧
      (∀ dev ls, exec (.route dev ls) s = if dev < 64 ∧ (ls.length = 1 ∨ ls.length = 2) ∧ (∀ n ∈ ls, n < 12) ∧ ls.Nodup
        then answered { s with routes := Tab.put s.routes dev (ls.map (fun n => n + 16)) } 0 else answered s 1) ∧
      (∀ img, exec (.fwupd img) s = let c := (img.getD 0 0).toNat
        if img.length < 8192 ∨ c = 0 ∨ 3 < c then answered s 1
        else answered { s with mgmt := { s.mgmt with staged := s.mgmt.staged.filter (fun x => (x.getD 0 0).toNat != c) ++ [img] } } 0) ∧
      (∀ host, (host = true → s.hostUp = true) →
        (∀ i, exec (.spdmRequest ⟨host, .measurement i⟩) s = if i = 0 ∨ 6 < i then answered s 1
          else let m := shake256 (s.measured i) 64; answered s 0 0 (m ++ Config.mldsaSign m)) ∧
        (∀ slot off n, exec (.spdmRequest ⟨host, .certificate slot off n⟩) s =
          if slot = 0 then answered s 0 0 ((Config.certChain.drop off).take n) else answered s 1) ∧
        ∀ bs, exec (.spdmRequest ⟨host, .other bs⟩) s = answered s 0 0 (Config.spdmAnswer bs))) ∧
    (s.hostUp = false → ∀ ask, exec (.spdmRequest ⟨true, ask⟩) s = .next s) ∧
    (s.mgmt.step ≠ 1 → ∀ off, off = 0x008 → s.resetting = false → exec (.regrd off) s = answered s 0 0x0000000900010001)

/-- R387: CKPT is busy while a checkpoint runs; a quiesced one abandons the restores under way and starts the save of every other resident block, but frozen, saving and draining ones. CKSTAT answers its state. Once it can run, the copy goes on
in ascending offset, from where it stands by as many sectors as a turn names (the model's own: log 1) or to its end: the image in host memory is the device's memory byte for byte, its poison with it, every other byte unchanged; the end is
signalled. A quiesced one waits until no block but frozen ones is resident, every command is complete, and every write is performed at .device. (Layout of CKSTAT's answer, and the operand checks: log 31.)
(Restores under way: log 32.) -/
def Obligations.CheckpointCopiesMemory : Prop :=
  ∀ s : State, s.mgmt.step ≠ 1 → s.mgmt.recovery = false →
    (∀ live dst len, (∃ k, s.ckpt = some k ∧ k.running = true) ∨ s.resetting = true → exec (.ckpt live dst len) s = answered s 2) ∧
    (∀ live dst len, s.resetting = false → (∀ k, s.ckpt = some k → k.running = false) →
      (len < devMem ∨ dst % 64 ≠ 0 ∨ 2 ^ 51 ≤ dst + devMem → exec (.ckpt live dst len) s = answered s 1) ∧
      (devMem ≤ len → dst % 64 = 0 → dst + devMem < 2 ^ 51 →
        let s1 := { s with ckpt := some { live, dst, len } }
        (live = true → exec (.ckpt live dst len) s = answered s1 0) ∧
        (live = false → s.blocks.Pairwise (fun a b => a.1 ≠ b.1) → (∀ e ∈ s.blocks, ∀ f ∈ e.2.flights, f.unit = none) → ∃ t, exec (.ckpt live dst len) s = answered t 0 ∧ t.ckpt = s1.ckpt ∧ t.mem = s.mem ∧
          (∀ e ∈ s.blocks, (e.2.onCore = true → e.2.restoring = true → (t.blk e.1).st = .saved ∧ (t.blk e.1).restoring = false) ∧
            (e.2.saveable = true → (t.blk e.1).st = .saving ∧ (t.blk e.1).reason = 16) ∧
            (e.2.onCore = false ∨ (e.2.restoring = false ∧ e.2.saveable = false) → t.blk e.1 = e.2))))) ∧
    (let k := s.ckpt.getD { live := false, dst := 0, len := 0, running := false }
     exec .ckstat s = answered s 0 (bit k.running ++ bit k.error ++ BitVec.ofNat 62 k.pos)) ∧
    (s.asleep = false → ∀ k, s.ckpt = some k → k.running = true →
      let still := s.hostUp = true ∧ (k.live = true ∨ ∀ e ∈ s.blocks, (e.2.onCore = false ∨ e.2.st = .frozen) ∧
        (∀ c ∈ e.2.cmds, c.delivered = true) ∧ ∀ p ∈ e.2.pend, p.isRead = true ∨ p.isShared = true ∨ 7 ≤ p.done)
      let lo := min (k.pos / 64 * 64) devMem
      let copied := fun (hi : Nat) (t : State) =>
        (∀ a, Mem.get t.mem a = if hostBase + k.dst + lo ≤ a ∧ a < hostBase + k.dst + hi then Mem.get s.mem (a - (hostBase + k.dst)) else Mem.get s.mem a) ∧
        (k.dst % 64 = 0 → ∀ p, p ∈ t.poison ↔
          if (hostBase + k.dst + lo) / 64 ≤ p ∧ p < (hostBase + k.dst + hi) / 64 then p - (hostBase + k.dst) / 64 ∈ s.poison else p ∈ s.poison)
      (¬still → exec .checkpointComplete s = .next s ∧ ∀ n, runTurn (.copy n) s = .next s) ∧
      (still → (∃ t, exec .checkpointComplete s = .next t ∧ copied devMem t ∧
          t = { s with mem := t.mem, poison := t.poison, ckpt := some { k with running := false, pos := devMem }, msix := s.msix ++ [4] }) ∧
        ∀ n, ∃ t, runTurn (.copy n) s = .next t ∧ copied (min (lo + 64 * n) devMem) t ∧
          t = { s with mem := t.mem, poison := t.poison, ckpt := some { k with pos := min (lo + 64 * n) devMem } }))

/-- R337, R339 to R341, R344: the flit at the head of a running link's wire. One that fails its CRC is discarded, counted and answered by a NAK; when its failing lanes lie in one half whose failures within 1 ms reach DEGN, the link
retrains onto the other half, or, already degraded, goes down, to go on later from the first number not accepted. One whose number is not the expected is discarded; the expected one is accepted: the number advances, the
acknowledgement it carries frees the other direction's buffer, and its message is delivered, once; one that finds no place for its answer, or at its port, waits. Each is acknowledged at once. A NAK resends every flit from the named one on, in order. A retrain ends with a replay from the oldest unacknowledged flit, at full width
after both halves pass; a link that is down does so once its flits have moved to another, and a device none of whose links comes up leaves the domain. Which message a flit holds, and the acknowledgement with no number, are the model's (log 11, log 80). -/
def Obligations.LinkFlitsAndRetrains : Prop :=
  ∀ (s : State) (n : Nat) (d : Bool), s.asleep = false →
    let l := s.link n
    let x := l.dir d
    let up := l.live n = true ∧ l.target = none
    let calm := ∀ m, m < 28 → (s.link m).moving = false
    (28 ≤ n → (∀ ok lanes, exec (.flitReceive n d ok lanes) s = .fault .noSuchUnit) ∧ exec (.nakReceive n d) s = .fault .noSuchUnit ∧
      exec (.retrainComplete n) s = .fault .noSuchUnit ∧ (∀ pass, exec (.linkRewiden n pass) s = .fault .noSuchUnit) ∧ exec (.linkCounterClear n) s = .fault .noSuchUnit) ∧
    (n < 28 →
      let upd := fun (f : Link → Link) => Host.Outcome.next (φ := Fault) (ρ := Refusal) (s.modLink n f)
      (∀ ok lanes, x.wire = [] ∨ ¬up → exec (.flitReceive n d ok lanes) s = .next s) ∧
      (∀ f rest lanes, up → x.wire = f :: rest →
        let k := if isHawser n = true then lanes.toNat % 16 else lanes.toNat
        let s1 := s.modLink n (fun l => { l.setDir d { x with wire := rest, nak := some x.expect } with
          crcerr := min (l.crcerr + 1) 0xFFFFFFFF, laneerr := l.laneerr ||| BitVec.ofNat 64 k })
        let bad := exec (.flitReceive n d false lanes) s
        let good := exec (.flitReceive n d true lanes) s
        (halfOf n k = none → bad = .next s1) ∧
        (∀ h, halfOf n k = some h →
          let fs := s.qtb :: (if h = true then l.fails1 else l.fails0).filter (fun t => s.qtb ≤ t + 1000000)
          (fs.length < l.degn → bad = .next (s1.modLink n (fun l => if h = true then { l with fails1 := fs } else { l with fails0 := fs }))) ∧
          (l.degn ≤ fs.length → l.half = 0 →
            bad = .next (s1.modLink n (fun l => { l with fails0 := [], fails1 := [], target := some (if h = true then 1 else 2), retrain := min (l.retrain + 1) 0xFFFF }))) ∧
          (l.degn ≤ fs.length → l.half ≠ 0 → ∃ t, bad = .next t ∧ (t.link n).half = 3 ∧ (t.link n).up = false ∧
            ∀ e, ((t.link n).dir e).wire = [] ∧ ((t.link n).dir e).next = (l.dir e).expect ∧ ((t.link n).dir e).expect = (l.dir e).expect)) ∧
        (f.msg ≠ .idle → f.seq ≠ x.expect → good = upd (fun l => (l.setDir d { x with wire := rest }).setDir (!d) (telling (l.dir (!d)) x.expect f.dev))) ∧
        (calm → f.msg = .idle → good = upd (fun l => (l.setDir d { x with wire := rest }).setDir (!d) (acknowledged (l.dir (!d)) f.ack))) ∧
        (calm → f.seq = x.expect → d = true → isHawser n = true →
          let told := s.modLink n (fun l => (l.setDir d { x with wire := rest, expect := (x.expect + 1) % 4096 }).setDir (!d)
            (telling (acknowledged (l.dir (!d)) f.ack) ((x.expect + 1) % 4096) f.dev))
          (∀ c dev mask, f.msg = .arrive c dev mask → good = .next { told with remoteArr := s.remoteArr ++ [(c, dev, mask)] }) ∧
          (∀ dev off bs, bs ≠ [] → f.msg = .farStore dev off bs false →
            (256 ≤ l.d0.buf.length ∨ s.queueFull off = true → good = .next s) ∧
            (l.d0.buf.length < 256 → s.queueFull off = false → off + bs.length ≤ devMem →
              (∀ b, b = off ∨ b = off + bs.length - 1 → s.regionSecure (s.devid.toNat * 2 ^ 45 + b) = false) → ∃ t, good = .next t ∧ t.blocks = s.blocks ∧
              (∃ g, (t.link n).d0.buf = (acknowledged l.d0 f.ack).buf ++ [g] ∧ g.seq = l.d0.next ∧ g.msg = .reply 0 0 [] none) ∧
              ∀ a, Mem.get t.mem a = if off ≤ a ∧ a < off + bs.length then bs.getD (a - off) 0 else Mem.get s.mem a)))) ∧
      ((x.nak = none ∨ ¬up) → exec (.nakReceive n d) s = .next s) ∧
      (∀ k, x.nak = some k → up → exec (.nakReceive n d) s =
        upd (fun l => { l.setDir d { x with nak := none, wire := x.wire ++ (acknowledged x k).buf } with replay := min (l.replay + 1) 0xFFFFFFFF })) ∧
      ((l.target = none ∨ l.target = some 0) → exec (.retrainComplete n) s = .next s) ∧
      (∀ h, calm → l.target = some h → h = 1 ∨ h = 2 → exec (.retrainComplete n) s = upd (fun l => resumed { l with half := h })) ∧
      (∀ pass, l.target ≠ some 0 ∨ l.moving = true → exec (.linkRewiden n pass) s = .next s) ∧
      (calm → l.target = some 0 →
        ((∀ e ∈ s.routes, ∃ m ∈ e.2, m = n ∨ (s.link m).live m = true) →
          exec (.linkRewiden n true) s = upd (fun l => resumed { l with retrain := min (l.retrain + 1) 0xFFFF, half := 0, up := isHawser n })) ∧
        ((∀ e ∈ s.routes, ∃ m ∈ e.2, (s.link m).live m = true) →
          exec (.linkRewiden n false) s = upd (fun l => resumed { l with retrain := min (l.retrain + 1) 0xFFFF })) ∧
        ∃ t, exec (.linkRewiden n false) s = .next t ∧
          ∀ e ∈ s.routes, (∀ m ∈ e.2, (s.link m).live m = false ∧ (m = n ∨ (s.link m).target = none)) → Tab.get t.routes e.1 = none) ∧
      exec (.linkCounterClear n) s = upd (fun l => { l with retrain := 0, crcerr := 0, replay := 0, laneerr := 0 }))

/-- R317, R319, R323, R378 to R380: a corrected error is counted and changes nothing else; an uncorrectable one is logged, with its source and outcome, and poisons the granule it strikes, discards a cache
entry, restarts an MMAV, terminates a block with reason 9 or starts a warm reset; a clear ends the counts and the V bits, and RSTCTL.WARM starts a warm reset with cause 3, but for a write
during a warm reset or after a failed bring-up; the
clock steps by 100 MHz between 700 and 1,400: down at a limit of the package's power or a core rail's current, up where each is 5 % below it. The QTB and every timer
pass time whatever the clock; the 4,096 cycles of a promotion are periods of the clock in force as they pass. (A launch's queue and a context's CTXSAVEN are those of their registers:
R274, R306. What blocks have under way on a sector about to be poisoned: log 93.)
(Source, outcome and which cache entry: log 51; the nominal clock as the upper limit: log 55.) -/
def Obligations.ErrorsAreContained : Prop :=
  ∀ s : State,
    exec .correctedError s = .next { s with ce := if s.ce = 0xFFFFFFFF then s.ce else s.ce + 1 } ∧
    (s.asleep = true → exec .errctlClr s = .next s ∧ exec .rstctlWarm s = .next s) ∧
    (s.asleep = false → exec .errctlClr s = .next { s with ce := 0, ue := 0, errLog := s.errLog.map (fun e => (e.1, e.2 &&& 0x7FFFFFFFFFFFFFFF)) } ∧
      exec .rstctlWarm s = .next (warmStarted s 3)) ∧
    (∀ w i0 i1 : BitVec 16, exec (.powerLimit w (i0, i1)) s = .next { s with
      pkgPower := w
      clkMHz := if 2400 ≤ w.toNat ∨ 1950 ≤ i0.toNat ∨ 1950 ≤ i1.toNat then max 700 (s.clkMHz - 100)
        else if w.toNat ≤ 2280 ∧ i0.toNat * 100 ≤ 1950 * 95 ∧ i1.toNat * 100 ≤ 1950 * 95 then min 1400 (s.clkMHz + 100) else s.clkMHz }) ∧
    (s.clkMHz < 65536 → s.regRead 0x038 % 65536 = s.clkMHz) ∧
    (∀ mhz ns, { s with clkMHz := mhz }.tick ns = { s.tick ns with clkMHz := mhz, clock := s.clock + ns * mhz }) ∧
    (s.asleep = false → ∀ blk mhz, WaitsToIssue s blk →
      let b := s.blk blk
      exec (.slotPromotion b.core b.slot) { s with clkMHz := mhz } =
        .next (if s.clock - b.readyAt < 4096 * 1000 then { s with clkMHz := mhz } else ({ s with clkMHz := mhz } : State).setBlk blk { b with promoted := true })) ∧
    (s.asleep = false →
      (∀ o, o < devMem →
        let pa := s.devid.toNat * 2 ^ 45 + o
        let at_ := BitVec.ofNat 52 (pa / 64 * 64)
        Unawaited s o 1 →
        (∃ ps, exec (.uncorrectableError (.hbm pa)) s = .next (logged { s with poison := ps } 1 0 at_) ∧ ∀ p, p ∈ ps ↔ p = o / 64 ∨ p ∈ s.poison) ∧
        (∃ ps pl, exec (.uncorrectableError (.l2 pa)) s = .next (logged { s with poison := ps, poisonL2 := pl } 2 0 at_) ∧ (∀ p, p ∈ ps ↔ p = o / 64 ∨ p ∈ s.poison) ∧
          ∀ p, p ∈ pl ↔ p = o / 64 ∨ p ∈ s.poisonL2) ∧
        (∀ core, core < 192 → (s.l1Copy core (o / 64)).isSome = true → ∃ l1, exec (.uncorrectableError (.l1 core pa)) s = .next (logged { s with l1 } 3 0 at_) ∧
          ({ s with l1 } : State).l1Copy core (o / 64) = some [])) ∧
      (∀ blk off, let b := s.blk blk
        b.st ≠ .retired → b.st ≠ .saved →
        (off < b.hdr.shared → ∃ ps, exec (.uncorrectableError (.sharedStore blk off)) s = .next (logged (s.setBlk blk { b with poisonSh := ps }) 4 0 0) ∧
          ∀ p, p ∈ ps ↔ p = off / 4 ∨ p ∈ b.poisonSh) ∧
        (off < b.hdr.acc → ∃ ps, exec (.uncorrectableError (.accStore blk off)) s = .next (logged (s.setBlk blk { b with poisonAcc := ps }) 5 0 0) ∧
          ∀ p, p ∈ ps ↔ p = off / 4 ∨ p ∈ b.poisonAcc) ∧
        (off % 1024 < b.hdr.lane → off < 131072 → ∃ ps, exec (.uncorrectableError (.laneStore blk off)) s = .next (logged (s.setBlk blk { b with poisonLane := ps }) 6 0 0) ∧
          ∀ p, p ∈ ps ↔ p = off / 4 ∨ p ∈ b.poisonLane)) ∧
      (∀ core, core < 192 →
        let held := fun (t : Tlb) => t.core = some core ∨ (t.core = none ∧ t.die = dieOf core)
        let struck := fun (ic : List Code) (tl : List Tlb) =>
          exec (.uncorrectableError (.cacheEntry core)) s = .next { logged s 0xF 1 0 with icache := ic, tlbs := tl }
        ((∃ e ∈ s.icache, e.core = core) → ∃ e ∈ s.icache, e.core = core ∧ struck (s.icache.erase e) s.tlbs) ∧
        ((∀ e ∈ s.icache, e.core ≠ core) → (∃ t ∈ s.tlbs, held t) → ∃ t ∈ s.tlbs, held t ∧ struck s.icache (s.tlbs.erase t)) ∧
        ((∀ e ∈ s.icache, e.core ≠ core) → (∀ t ∈ s.tlbs, ¬held t) → struck s.icache s.tlbs)) ∧
      (∀ blk, let b := s.blk blk
        let mmav := ∃ f ∈ b.flights, f.fin = false ∧ isMmav f.instr = true
        (mmav → exec (.uncorrectableError (.cleat blk)) s = .next (logged (s.setBlk blk { b with flights := b.flights.map restarted }) 0xF 2 0)) ∧
        (¬mmav → exec (.uncorrectableError (.cleat blk)) s = .next s) ∧
        (b.st ≠ .retired → ∃ t, exec (.uncorrectableError (.blockState blk)) s = .next t ∧ LaunchEnded s t blk ∧ t.errIdx = s.errIdx + 1 ∧
          (b.ctx < 64 → (s.lch b.launch).queue < 16 → (s.ctx b.ctx).saven < 2 ^ 16 → (s.ctx b.ctx).term.getLsbD 63 = false → (t.ctx b.ctx).term.getLsbD 63 = true ∧ (t.ctx b.ctx).term.extractLsb' 8 8 = 9))) ∧
      exec (.uncorrectableError .deviceState) s = .next (warmStarted (logged s 0xF 4 0) 1))

/-- R9, R258, R324, R325, R376, R381, R382: at the end of a warm reset no cache holds anything; a surviving context keeps its registers, queues, launches and blocks; one that does not is disabled, its queues closed, its
launches and blocks terminated with reason 7; a sector not yet in the HBM array survives whole or is lost; the registers
of zones, coolant, time and debug are reset, the sensors read on, a purge, a re-prime check or a closed zone stays, and the flit layer starts afresh (log 53). A zone that its readings find
open has their events (log 78): what holds where they are calm is said apart. (A launch's name is its own, its queue that of its register, R274; a block's context is its launch's.) A cold reset leaves no block and no launch, the first failing step named,
keeps the fused SVNs and the stored coolant configuration, starts a warm reset with cause 5 where every sennit module is down, and opens a zone that passes its check with the test flow max(ALLOC, FLOOR, 100).
(An empty memory: log 3; the recovery state and images: log 56; groups of the check: log 82.) -/
def Obligations.ResetsEnd : Prop :=
  ∀ s : State,
    (s.resetting = false → exec .warmResetComplete s = .next s) ∧
    (s.resetting = true → s.blocks.Pairwise (fun a b => a.1 ≠ b.1) → s.launches.Pairwise (fun a b => a.1 ≠ b.1) →
      (∀ e ∈ s.launches, e.2.queue < 16) → (∀ e ∈ s.blocks, e.2.ctx = (s.lch e.2.launch).ctx) →
      ∃ t, exec .warmResetComplete s = .next t ∧ t.resetting = false ∧
      (∀ z, z < 24 → let y := s.zone z
        (t.zone z).ownv = false ∧ (t.zone z).ceil = 0 ∧ (t.zone z).floor = 0 ∧ (t.zone z).alloc = 0 ∧
        (t.zone z).outlet = y.outlet ∧ (t.zone z).inlet = y.inlet ∧ (t.zone z).flow = y.flow ∧ (t.zone z).drydet = y.drydet ∧ (t.zone z).leakdet = y.leakdet ∧
        (y.state < 2 → y.leaked = false → y.leakdet = true ∨ y.drydet = true ∨ (0x460 : BitVec 12).toInt ≤ y.outlet.toInt → (t.zone z).state = 1)) ∧
      ((∀ z, z < 24 → (s.zone z).leakdet = false ∧ (s.zone z).drydet = false ∧ (s.zone z).outlet.toInt < (0x3C0 : BitVec 12).toInt) →
      t.dirty = [] ∧ t.poisonL2 = [] ∧ t.l1 = [] ∧ t.tlbs = [] ∧ t.icache = [] ∧ t.deferred = [] ∧ t.wq = [] ∧ t.fused = [] ∧ t.saves = [] ∧ t.msix.getLast? = some 2 ∧
      t.qtb = s.qtb ∧ t.ce = s.ce ∧ t.ue = s.ue ∧ t.errIdx = s.errIdx ∧ t.errLog = s.errLog ∧ t.rstCause = s.rstCause ∧ t.devid = s.devid ∧ t.wcore = s.wcore ∧
      t.wrgn = s.wrgn ∧ t.supply = 0 ∧ t.cdem = 0x20100804 ∧ t.tcrit = 0x460 ∧ t.tmax = 0x3C0 ∧ t.reprime = 2 ∧ t.slewMax = 500 ∧ t.qtbOffset = 0 ∧ t.qtbSlew = 0 ∧
      t.dbgctx = 0 ∧ (∀ n, n < 8 → (t.bp n).en = false) ∧
      (∀ z, z < 24 → let y := s.zone z
        (t.zone z).state = (if y.state = 2 ∨ y.state = 3 ∨ y.state = 4 then y.state else if y.leaked = true then 4 else 0) ∧
        (t.zone z).overtemp = false ∧ (t.zone z).flowlow = false ∧ (t.zone z).dry = false ∧ (t.zone z).leak = false) ∧
      (∀ n, n < 28 → (t.link n).d0 = {} ∧ (t.link n).d1 = {} ∧ if n < 16 then (t.link n).half = (s.link n).half ∧ (t.link n).crcerr = (s.link n).crcerr
        else (t.link n).up = false ∧ (t.link n).crcerr = 0 ∧ ((t.link n).target = some 0 ↔ (s.link n).up = true)) ∧
      (∀ c, c < 64 → (c ∈ s.survivors →
          t.ctx c = { s.ctx c with invRun := none, codeDone := true, state := if (s.ctx c).state = 3 then 0 else (s.ctx c).state } ∧
          (∀ e ∈ s.blocks, e.2.ctx = c → t.blk e.1 = survived e.2) ∧ ∀ l x, Tab.get s.launches l = some x → x.ctx = c → Tab.get t.launches l = some x) ∧
        (c ∉ s.survivors → (t.ctx c).en = false ∧ (t.ctx c).ptb = 0 ∧ (t.ctx c).term.getLsbD 63 = true ∧ (t.ctx c).term.extractLsb' 8 8 = 7 ∧
          (∀ q, q < 16 → ((t.ctx c).queue q).open_ = false ∧ ((t.ctx c).queue q).ridx = ((t.ctx c).queue q).widx) ∧
          ∀ l x, Tab.get s.launches l = some x → x.ctx = c → (t.lch l).st = .completed ∧ (x.st ≠ .completed → ∀ j, (t.blk j).launch = l → (t.blk j).st = .retired))) ∧
      ((∀ n, n < 32 → (s.slotOf n).en = false) → (∀ e ∈ s.blocks, e.2.pend = []) → s.dirty.Pairwise (fun a b => a.1 ≠ b.1) → (∀ e ∈ s.dirty, e.2.length = 64) →
        (∀ e ∈ s.dirty, (∀ i, i < 64 → Mem.get t.mem (e.1 * 64 + i) = Mem.get s.mem (e.1 * 64 + i)) ∨ ∀ i, i < 64 → Mem.get t.mem (e.1 * 64 + i) = e.2.getD i 0) ∧
        ∀ a, (∀ e ∈ s.dirty, e.1 ≠ a / 64) → Mem.get t.mem a = Mem.get s.mem a))) ∧
    (∀ r, let n := failedStep r s.mgmt
      ∃ t, exec (.coldReset r) s = .next t ∧ t.blocks = [] ∧ t.launches = [] ∧ t.qtb = 0 ∧ t.devid = 0 ∧ t.ctxs = Vector.replicate 64 {} ∧
        (let alone := n = 0 ∧ (List.range 16).all (fun m => (r.modules.lookup m).getD 0 == 3) = true
         t.rstCause = (if alone then 5 else 0) ∧ (t.resetting = true ↔ alone)) ∧
        (∀ a, Mem.get t.mem a = if a < devMem then 0 else Mem.get s.mem a) ∧ t.stepping = s.stepping ∧
        t.mgmt.svn = s.mgmt.svn ∧ t.mgmt.stored = s.mgmt.stored ∧ t.mgmt.step = n ∧ (t.mgmt.recovery = true ↔ n ≠ 0 ∧ n ≠ 1) ∧
        (n = 0 → t.hostUp = r.hostTrains ∧
          (∀ c, s.mgmt.stored = some c → t.supply = c.supply ∧ t.cdem = c.cdem) ∧ (s.mgmt.stored = none → t.supply = 4000) ∧
          ∀ z, z < 24 → let e := s.mgmt.cool.zones.getD z (400, 0, 0)
            (t.zone z).ceil = e.1 ∧ (t.zone z).floor = e.2.1 ∧ (t.zone z).alloc = e.2.2 ∧
            (t.zone z).state = match zoneReading r s.mgmt.cool z with
              | some (flow, dry, leak) => if dry = false ∧ leak = false ∧ max e.2.1 (max (max e.2.2 e.2.1) 100 - 16) ≤ flow.toNat then 0 else 4
              | none => 4) ∧
        (n ≠ 0 → t.hostUp = false))

/-- R349, R352, R353, R382: a write of ZFAT0 is discarded whole where it breaks FLOOR ≤ ALLOC ≤ CEIL ≤ 400 or the supply, or sets a reserved bit, and of CSUPPLY where it is below the allocated sum; both are
stored. A write of ZVALVE sets AUTO, and POS only with AUTO 0 in an open zone. In an open zone OVERTEMP and FLOWLOW hold admissions or evacuate, DRY and LEAK evacuate; elsewhere an
event sets its bit (DRY only the sensor's output in a purging or re-priming zone), and LEAK closes the valve, and a purging or re-priming zone. A hold ends 2 °C below TMAX, or with the flow at FLOOR.
(LEAK in a zone that is not open: log 33; temperatures as signed numbers: log 52.) -/
def Obligations.CoolantRegistersAndSensors : Prop :=
  ∀ (s : State) (z : Nat),
    (24 ≤ z → (∀ v, exec (.zfatWrite z v) s = .fault .noSuchUnit ∧ exec (.zvalveWrite z v) s = .fault .noSuchUnit) ∧ exec (.dry z) s = .fault .noSuchUnit ∧
      exec (.leak z) s = .fault .noSuchUnit ∧ ∀ t w n, exec (.overtemp z t) s = .fault .noSuchUnit ∧ exec (.holdRelease z t w) s = .fault .noSuchUnit ∧
      exec (.flowlow z w n) s = .fault .noSuchUnit) ∧
    (z < 24 →
      let y := s.zone z
      let upd := fun (t : State) (f : Zone → Zone) => t.modZone z f
      let idle := y.state = 2 ∨ y.state = 3
      (s.asleep = false → ∀ v : Dword,
        let f := fun (lo len : Nat) => (v.extractLsb' lo len).toNat
        let bad := f 62 1 ≠ 0 ∨ f 52 4 ≠ 0 ∨ f 27 5 ≠ 0 ∨ f 0 9 < f 9 9 ∨ f 18 9 < f 0 9 ∨ 400 < f 18 9 ∨ s.supply < otherFlow s z + f 0 9
        (bad → exec (.zfatWrite z v) s = .next s) ∧
        (¬bad → ∃ t, exec (.zfatWrite z v) s = .next t ∧
          t.zone z = { y with ownv := v.getLsbD 63, ownctx := f 56 6, ownq := f 48 4, ownidx := f 32 16, ceil := f 18 9, floor := f 9 9, alloc := f 0 9 } ∧
          (∀ n, n ≠ z → t.zone n = s.zone n) ∧ t = { s with zones := t.zones, mgmt := { s.mgmt with stored := t.mgmt.stored } } ∧
          t.mgmt.stored.map (fun c => c.zones.getD z (0, 0, 0)) = some (f 18 9, f 9 9, f 0 9)) ∧
        (4000 < v.toNat ∨ v.toNat < otherFlow s 24 → exec (.csupplyWrite v) s = .next s) ∧
        (v.toNat ≤ 4000 → otherFlow s 24 ≤ v.toNat → ∃ t, exec (.csupplyWrite v) s = .next t ∧ t.supply = v.toNat ∧ t.mgmt.stored.map CoolCfg.supply = some v.toNat ∧
          t = { s with supply := v.toNat, mgmt := { s.mgmt with stored := t.mgmt.stored } }) ∧
        (f 32 32 ≠ 0 ∨ f 10 21 ≠ 0 → exec (.zvalveWrite z v) s = .next s) ∧
        (f 32 32 = 0 → f 10 21 = 0 → exec (.zvalveWrite z v) s =
          .next (upd s (fun y => { y with auto := v.getLsbD 31, pos := if v.getLsbD 31 = false ∧ y.state = 0 then v.truncate 10 else y.pos })))) ∧
      (∀ outlet : BitVec 12,
        let s1 := upd s (fun y => { y with outlet, overtemp := true })
        let s2 := told (upd s (fun y => { y with outlet, overtemp := true, holdT := y.holdT || decide (s.tmax.toInt ≤ outlet.toInt) })) z 8
        (outlet.toInt < s.tmax.toInt → outlet.toInt < s.tcrit.toInt → exec (.overtemp z outlet) s = .next s) ∧
        (s.tmax.toInt ≤ outlet.toInt ∨ s.tcrit.toInt ≤ outlet.toInt →
          (y.state ≠ 0 → exec (.overtemp z outlet) s = .next s1) ∧
          (y.state = 0 → outlet.toInt < s.tcrit.toInt → exec (.overtemp z outlet) s = .next s2) ∧
          (y.state = 0 → s.tcrit.toInt ≤ outlet.toInt → ∃ t, exec (.overtemp z outlet) s = .next t ∧ Marked s2 t z))) ∧
      (∀ outlet flow, exec (.holdRelease z outlet flow) s = .next (upd s (fun y => { y with
        outlet := outlet, flow := flow, holdT := if outlet.toInt < s.tmax.toInt - 32 then false else y.holdT, holdF := if y.floor ≤ flow.toNat then false else y.holdF }))) ∧
      (∀ flow ms, let none_ := idle ∨ y.floor ≤ flow.toNat ∨ y.alloc = 0 ∨ ms < 2
        let s2 := told (upd s (fun y => { y with flow := flow, flowlow := true, holdF := true })) z 9
        (none_ → exec (.flowlow z flow ms) s = .next s) ∧
        (¬none_ → y.state ≠ 0 → exec (.flowlow z flow ms) s = .next (upd s (fun y => { y with flow := flow, flowlow := true }))) ∧
        (¬none_ → y.state = 0 → ms < 20 → exec (.flowlow z flow ms) s = .next s2) ∧
        (¬none_ → y.state = 0 → 20 ≤ ms → ∃ t, exec (.flowlow z flow ms) s = .next t ∧ Marked s2 t z)) ∧
      (let s1 := upd s (fun y => { y with drydet := true, dry := true })
       (idle → exec (.dry z) s = .next (upd s (fun y => { y with drydet := true }))) ∧ (¬idle → y.state ≠ 0 → exec (.dry z) s = .next s1) ∧
       (y.state = 0 → ∃ t, exec (.dry z) s = .next t ∧ Marked (told s1 z 10) t z)) ∧
      (let s1 := told (upd s (fun y => { y with leakdet := true, leaked := true, leak := true, pos := 0 })) z 11
       (idle → exec (.leak z) s = .next (upd s1 (fun y => { y with state := 4, since := s.qtb }))) ∧ (¬idle → y.state ≠ 0 → exec (.leak z) s = .next s1) ∧
       (y.state = 0 → ∃ t, exec (.leak z) s = .next t ∧ Marked s1 t z)))

/-- R354, R355: an evacuating zone is gated once every block has stopped its tile instructions, or 150 µs after detection; once it is empty its purge begins, or, leaking, it
closes; not empty 10 ms after detection, it starts a warm reset with cause 4. After 800 ms the purge ends in the re-prime check; after 200 ms the zone opens, purges again, or closes.
A zone that opens at an outlet temperature of a threshold has its event (log 78).
(A frozen block: log 47; a leak at the end of the check: log 52; the valve between these positions: log 78.) -/
def Obligations.EvacuationSequence : Prop :=
  ∀ (s : State) (z : Nat),
    (24 ≤ z → exec (.zoneLaneGate z) s = .fault .noSuchUnit ∧ exec (.zoneEmpty z) s = .fault .noSuchUnit ∧ exec (.zoneEvacDeadline z) s = .fault .noSuchUnit ∧
      exec (.zonePurgeComplete z) s = .fault .noSuchUnit ∧ ∀ w d l, exec (.zoneReprimeComplete z w d l) s = .fault .noSuchUnit) ∧
    (z < 24 →
      let y := s.zone z
      let upd := fun (f : Zone → Zone) => Host.Outcome.next (φ := Fault) (ρ := Refusal) (s.modZone z f)
      let now := BitVec.ofNat 64 s.qtb
      (s.asleep = false →
        let stopped := ∀ e ∈ s.blocks, e.2.onCore = true → zoneOf e.2.core = z → e.2.st = .frozen ∨ ∀ f ∈ e.2.flights, f.fin = true
        let gate := y.state = 1 ∧ y.gated = false ∧ (stopped ∨ y.tdet.toNat + 150000 ≤ s.qtb)
        let empty := y.state = 1 ∧ y.gated = true ∧ ∀ e ∈ s.blocks, e.2.onCore = true → zoneOf e.2.core = z → e.2.st = .frozen
        (gate → exec (.zoneLaneGate z) s = upd (fun y => { y with gated := true, tgate := now })) ∧
        (¬gate → exec (.zoneLaneGate z) s = .next s) ∧
        (empty → exec (.zoneEmpty z) s = upd (fun y => if y.leaked = true then { y with tout := now, state := 4, since := s.qtb }
          else { y with tout := now, state := 2, since := s.qtb, pos := 1023 })) ∧
        (¬empty → exec (.zoneEmpty z) s = .next s) ∧
        exec (.zoneEvacDeadline z) s = (if y.state = 1 ∧ y.tdet.toNat + 10000000 ≤ s.qtb then .next (warmStarted s 4) else .next s)) ∧
      exec (.zonePurgeComplete z) s = (if y.state = 2 ∧ y.since + 800000000 ≤ s.qtb
        then upd (fun y => { y with state := 3, since := s.qtb, attempt := (y.attempt + 1) % 16, pos := 0 }) else .next s) ∧
      ∀ flow dry leak, let ended := y.state = 3 ∧ y.since + 200000000 ≤ s.qtb
        let pass := dry = false ∧ max y.floor (y.alloc - 16) ≤ flow.toNat
        (¬ended → exec (.zoneReprimeComplete z flow dry leak) s = .next s) ∧
        (ended → leak = false → ¬pass → exec (.zoneReprimeComplete z flow dry leak) s = upd (fun y =>
          let y := { y with flow := flow, drydet := dry, leakdet := false, since := s.qtb }
          if y.attempt < s.reprime.toNat then { y with state := 2, pos := 1023 } else { y with state := 4 })) ∧
        (ended → leak = false → pass →
          let s1 := s.modZone z (fun y => { y with
            flow := flow, drydet := false, leakdet := false, since := s.qtb, state := 0, gated := false, holdF := false
            holdT := if y.outlet.toInt < s.tmax.toInt - 32 then false else y.holdT })
          exec (.zoneReprimeComplete z flow dry leak) s =
            if s.tmax.toInt ≤ y.outlet.toInt ∨ s.tcrit.toInt ≤ y.outlet.toInt then exec (.overtemp z y.outlet) s1 else .next s1) ∧
        (ended → leak = true → ∃ t, exec (.zoneReprimeComplete z flow dry leak) s = .next t ∧ (t.zone z).state = 4 ∧ (t.zone z).leak = true ∧ (t.zone z).leakdet = true ∧
          (t.zone z).pos = 0))

/-- R150, R368 to R370, R373, R376: a write of TSCTL with no reserved value sets the slot's fields, clears its indices where EN goes from 0 to 1, and where it ends writes a TRUNC of reason 5 if records are held
(free); a flush adds the counters of the session's blocks into their arrays, and DONE follows it. DBGSTOP leaves a stop pending for every block of the debug context that is not stopped, those not yet placed too; DBGREL lets the
stopped ones go on. A measured offset is shown saturated and removed by slewing toward it within SLEWMAX (the rate, and which sign is ahead, are free: log 90).
(Indices where EN goes to 1, and the sessions of a flush: log 40.) -/
def Obligations.TraceAndDebugRegisters : Prop :=
  ∀ s : State, s.asleep = false →
    (∀ n, 32 ≤ n → (∀ v, exec (.tsctlWrite n v) s = .fault .noSuchUnit) ∧ exec (.traceFlush n) s = .fault .noSuchUnit ∧ exec (.traceFlushDone n) s = .fault .noSuchUnit) ∧
    (∀ n v, n < 32 →
      let t := s.slotOf n
      let s0 := { s with free := s.free + 1 }
      let set := fun (u : TraceSlot) => { u with
        en := v.getLsbD 63, id := bitsOf v 48 8, ctx := bitsOf v 40 6, mode := bitsOf v 32 2, sper := bitsOf v 16 16, kinds := bitsOf v 0 16 }
      (tsctlDiscarded t v → exec (.tsctlWrite n v) s = .next s) ∧
      (¬tsctlDiscarded t v →
        ((t.en = true ↔ v.getLsbD 63 = true) → exec (.tsctlWrite n v) s = .next (s.modSlot n set)) ∧
        (t.en = false → v.getLsbD 63 = true → exec (.tsctlWrite n v) s =
          .next (s.modSlot n (fun u => { set u with closed := false, widx := 0, ridx := 0, drop := 0, lost := 0, lastStamp := 0, counts := [] }))) ∧
        (t.en = true → v.getLsbD 63 = false → exec (.tsctlWrite n v) s = .next (s0.modSlot n set) ∨ exec (.tsctlWrite n v) s = .next ((s0.trunc n 5).modSlot n set)))) ∧
    (∀ n, n < 32 → exec (.traceFlushDone n) s = .next (s.modSlot n (fun t => { t with done := true })) ∧
      ((s.slotOf n).en = false ∨ (∀ e ∈ s.blocks, e.2.bbx = []) → exec (.traceFlush n) s = .next (s.modSlot n (fun t => { t with done := false }))) ∧
      (s.blocks.Pairwise (fun a b => a.1 ≠ b.1) → ∃ t, exec (.traceFlush n) s = .next t ∧ (t.slotOf n).done = false ∧
        ∀ e ∈ s.blocks, t.blk e.1 = { e.2 with bbx := if (s.slotOf n).en = true ∧ n ∈ s.sessionOf (s.lch e.2.launch) then [] else e.2.bbx })) ∧
    (s.blocks.Pairwise (fun a b => a.1 ≠ b.1) →
      (∃ t, exec .dbgstop s = .next t ∧
        t = { s with blocks := t.blocks, launches := s.launches.map (fun (e : Nat × Launch) =>
          (e.1, if e.2.ctx = s.dbgctx.toNat ∧ e.2.st = .started then { e.2 with stopNew := true } else e.2)) } ∧
        ∀ e ∈ s.blocks, t.blk e.1 = if e.2.ctx = s.dbgctx.toNat ∧ e.2.st ≠ .retired ∧ e.2.stopped = false
          then { e.2 with stopReq := some (decide (e.2.stopReq = some true)) } else e.2) ∧
      ∃ t, exec .dbgrel s = .next t ∧ t = { s with blocks := t.blocks } ∧
        ∀ e ∈ s.blocks, t.blk e.1 = if e.2.ctx = s.dbgctx.toNat ∧ e.2.stopped = true
          then { e.2 with stopped := false, st := if e.2.st = .waiting .stop then .ready else e.2.st } else e.2) ∧
    ∀ src off, (src = 0 ∨ src = 3 → exec (.qtbOffsetMeasure src off) s = .next s) ∧
      (src ≠ 0 → src ≠ 3 → ∃ slew rem : Int, exec (.qtbOffsetMeasure src off) s =
          .next { s with
            qtbSrc := src, qtbOffset := max (-2147483648) (min 2147483647 off), qtbLast := (off :: s.qtbLast).take 3
            qtbRem := rem, qtbSlew := slew, free := s.free + 1 } ∧
        (rem = off * 1000000 ∨ rem = -(off * 1000000)) ∧ 0 ≤ slew * rem ∧ slew.natAbs ≤ s.slewMax ∧ (off ≠ 0 → s.slewMax ≠ 0 → slew ≠ 0) ∧ (off = 0 → slew = 0))

/-- R77, R86, R90, R125, R128, R291, R314, R373: a core's turn runs exec of the instruction that the words at the pc of the block first in its order decode to, captured by the active loop levels; when it
has issued, the breakpoints on its address trigger and the order moves on. One that stalls leaves the turn to the next slot, and the state as it was; one that awaits what it has noted, a port or
the deterministic hold has not issued, and is tried again (log 77). Words that decode to none take the trap of an
unallocated encoding; a word that cannot be fetched, or a pc that is no multiple of 4, traps, %taddr holding the address; an instruction at the last position of a loop body that is no ENDLP is
ILLEGAL: that of a major 0x20 to 0x3E waits for the older tile instructions, which is the model's choice (log 28). Words are fetched as their bytes stand in memory, or as an instruction cache holds the instruction whole. A lane group's turn runs exec of the lane instruction at its pc; an event's turn
runs exec of the event. A turn one of whose walks finds no slot does not come about, and the block notes the address (R314; log 83). (A stalled slot, and code cached whole: log 92 and log 89.) -/
def Obligations.StepRunsDecodedInstruction : Prop :=
  (∀ (s : State) (rest : List Turn) (c blk : Nat) (more : List Nat), s.agenda = .core c :: rest → c < 192 → s.asleep = false →
    let s0 := { s with agenda := rest }
    s0.order c = blk :: more → s0.mustLeave blk = none →
    let s1 := { issuing s0 blk with cur := blk }
    let b := s1.blk blk
    let alone := more = [] ∧ (s0.blk blk).restoring = false ∧ s.starved = none
    b.dueTrap = none → s1.stopHere blk = false →
    (b.pc.toNat % 4 ≠ 0 → Comes s s0 blk alone (issuedBy (s1.takeTrap blk { cause := 2, taddr := taddrOf 0 b.pc.toNat }) blk)) ∧
    (∀ e s2, s1.fetchInstr blk b.pc = (.error e, s2) →
      Comes s s0 blk alone (issuedBy (s2.takeTrap blk { cause := e.fault.cause, detail := e.fault.detail, taddr := taddrOf 0 e.va }) blk)) ∧
    ∀ w0 w1 w2 s2, s1.fetchInstr blk b.pc = (.ok (w0, w1, w2), s2) →
      let s3 := s2.modBlk blk (fun b => b.capture b.pc.toNat (w0, w1, w2))
      let at_ := s3.blk blk
      (∀ n, decodeWords w0 w1 w2 = .error n → ∃ t, exec (.unallocatedEncoding (BitVec.ofNat 16 (0x8000 + n))) s3 = .next t ∧ Comes s s0 blk alone (issuedBy t blk)) ∧
      ∀ i, decodeWords w0 w1 w2 = .ok i →
        (i = .endlp ∨ s3.atLast blk b.pc = false →
          (∀ u, exec i s3 = .next u →
            let v := { u with blocked := none }
            let tried := portOrHold (v.blk blk) ∨ (u.blocked ≠ none ∧ (v.blk blk).laneHeld = false)
            (u.blocked ≠ some false → ¬tried → Comes s s0 blk alone (issuedBy (v.breakPc blk at_.ctx at_.pc.toNat at_.ordinal) blk)) ∧
            (u.blocked = some false → alone → step s = .next s0) ∧
            (u.blocked ≠ some false → tried → alone → Comes s s0 blk alone v)) ∧
          (∀ e, exec i s3 = .fault e → step s = .fault e) ∧ ∀ e, exec i s3 = .refused e → step s = .refused e) ∧
        (i ≠ .endlp → s3.atLast blk b.pc = true → let major := (w0.extractLsb' 2 6).toNat
          (major < 0x20 ∨ major = 0x3F → Comes s s0 blk alone (issuedBy (s3.takeTrap blk { cause := 1, detail := 0x4802 }) blk)) ∧
          (0x20 ≤ major → major ≤ 0x3E → Comes s s0 blk alone (issuedBy (lateTrapOf s3 { cause := 1, detail := 0x4802 }) blk)))) ∧
  (∀ (s s' : State) (m : Master) (core va : Nat) (x : Xl) (len : Word → Nat), (∀ e ∈ s.icache, e.core ≠ core ∨ e.ctx ≠ m.ctx ∨ e.addr ≠ va) →
    s.translate m { x := true } va = (.ok x, s') → s'.homePoison x.rkey 4 = none →
    let w := BitVec.ofNat 32 (s'.mem.num x.rkey 4)
    (len w = 0 → (s.fetchCode m core va len).1 = .ok [w]) ∧
    (∀ y s2, len w = 1 → s'.translate m { x := true } ((va + 4) % 2 ^ 56) = (.ok y, s2) → s2.homePoison y.rkey 4 = none →
      (s.fetchCode m core va len).1 = .ok [w, BitVec.ofNat 32 (s2.mem.num y.rkey 4)])) ∧
  (∀ (s : State) (m : Master) (core : Nat) (e : Code) (es : List Code) (len : Word → Nat), s.icache = e :: es → e.core = core → e.ctx = m.ctx → e.rev = isaRev → e.op = true →
    e.words.length = 1 + len (e.words.headD 0) → (s.fetchCode m core e.addr len).1 = .ok e.words) ∧
  (∀ (s : State) (rest : List Turn) (blk id : Nat), s.agenda = .lane blk id :: rest → ({ s with agenda := rest } : State).laneReady blk id = true →
    let s1 := { issuing { s with agenda := rest } blk with cur := blk, curFlight := id }
    ∀ f x, s1.running = some (f, x) → x.els ≠ [] → ∀ ws s2, s1.fetchCode (s1.blk blk).master (s1.blk blk).core x.lpc.toNat (fun _ => 0) = (.ok ws, s2) →
      ∀ i, decodeLane (ws.headD 0) = .ok i → TurnsInto s { s with agenda := rest } (fun _ t => t) (exec i s2)) ∧
  (∀ (s : State) (rest : List Turn) (i : Instr), s.agenda = .ev i :: rest → encode i = [] →
    TurnsInto s { s with agenda := rest } (fun va t => match i with
      | .waitaWake blk => t.modBlk blk (fun b => { b with walkWait := some va })
      | _ => t) (exec i { s with agenda := rest }))

/-- R78 to R90, R222 (the words of the spec's encoding examples): each decodes to the instruction it stands for; a first word of LEN 11 and an unallocated function value are illegal at the bit R86 names,
and so is major 0x00 at every length. -/
def Obligations.SpecWordsDecode : Prop :=
  decodeWords 0x0040C504 0 0 = .ok (.add .w32 5 3 4) ∧
  decodeWords 0xFFFF4548 0 0 = .ok (.bnz .w32 0x3FFFD 5) ∧
  decodeWords 0x00A24771 0xC0380000 0 = .ok (.amoAdd (.w64 { Mods.zero with ord := 3, scope := 7 }) false 7 9 10) ∧
  decodeWords 0x002043C1 0x00000240 0 = .ok (.tadd (.w64 { Mods.zero with pmode := 1, psel := 2 }) 3 1 2) ∧
  decodeWords 0x00000C2A 0 0x12345678 = .ok (.li (.w96 Mods.zero 0x12345678) 0 12) ∧
  decodeWords 0x00820186 0 4 = .ok (.tld (.w96 Mods.zero 4) 0 8 1 8) ∧
  decodeWords 0x0C000078 0 0 = .ok (.nop .w32) ∧ decodeWords 0x00198058 0 0 = .ok (.loopn 3 6 0) ∧ decodeWords 0x00010658 0 0 = .ok (.loopn 0 4 6) ∧
  decodeLane 0x5040450C = .ok (.lmul 0x14 4 1 5) ∧ decodeLane 0x0C818720 = .ok (.lxor 3 8 6 7) ∧ decodeLane 0x00000080 = .ok .lend ∧
  decodeWords 0x5440C504 0 0 = .error 26 ∧
  (∀ w0 w1 w2 : Word, w0.extractLsb' 0 2 = 3 → decodeWords w0 w1 w2 = .error 0) ∧
  (∀ w0 w1 w2 : Word, w0.extractLsb' 0 2 ≠ 3 → w0.extractLsb' 2 6 = 0 → decodeWords w0 w1 w2 = .error 2)

/-- R78 to R82, R87 to R90 (decode and encode agree): every well-formed instruction, with every operand at every value its encoding admits, is what the decoder reads from its encoding, and the bytes
after it are left over; every well-formed lane instruction is what the lane decoder reads from its word. -/
def Obligations.EncodedInstructionDecodes : Prop :=
  (∀ (i : Instr) (rest : List Byte), i.wf = true → (instrRaw i).isSome = true → decode (encodeBytes i ++ rest) = .ok (i, rest)) ∧
  (∀ (i : Instr) (w : Word), i.wf = true → laneWord i = some w → encode i = [w] ∧ decodeLane w = .ok i)

/-- Every step keeps the canonical form of memory (the model's own: log 3): addresses strictly rising, no entry equal to what an unlisted byte reads as, so that equal memories are equal data. -/
def Obligations.StepKeepsMemoryCanonical : Prop :=
  ∀ s s' : State, s.MemOk → Steps s s' → s'.MemOk

/-- R284, R349, R368, R369, R379 (values the spec gives at reset): memory is canonical; no block or launch exists, every context is disabled with PMAX 0x1F and a gap of 8; the registers of identity, time, coolant and
errors have the reset values of their tables; every session slot and breakpoint is disabled. -/
def Obligations.ResetState : Prop :=
  State.reset.MemOk ∧ State.reset.blocks = [] ∧ State.reset.launches = [] ∧ State.reset.qtb = 0 ∧ State.reset.devid = 0 ∧ State.reset.rstCause = 0 ∧
  State.reset.ce = 0 ∧ State.reset.ue = 0 ∧ State.reset.errIdx = 0 ∧ State.reset.clkMHz = 1400 ∧ State.reset.slewMax = 500 ∧ State.reset.supply = 0 ∧
  State.reset.cdem = 0x20100804 ∧ State.reset.tcrit = 0x460 ∧ State.reset.tmax = 0x3C0 ∧ State.reset.reprime = 2 ∧ State.reset.dbgctx = 0 ∧
  (∀ c, c < 64 → (State.reset.ctx c).en = false ∧ (State.reset.ctx c).pmax = 0x1F ∧ (State.reset.ctx c).pregap = 8 ∧ (State.reset.ctx c).state = 0 ∧
    ∀ q, q < 16 → ((State.reset.ctx c).queue q).open_ = false ∧ ((State.reset.ctx c).queue q).halt = false) ∧
  (∀ z, z < 24 → (State.reset.zone z).state = 0 ∧ (State.reset.zone z).alloc = 0 ∧ (State.reset.zone z).auto = true ∧ (State.reset.zone z).pos = 0) ∧
  (∀ n, n < 32 → (State.reset.slotOf n).en = false ∧ (State.reset.slotOf n).log2 = 12 ∧ (State.reset.slotOf n).done = true) ∧
  (∀ n, n < 8 → (State.reset.bp n).en = false) ∧ State.reset.regRead 0x008 = 0x0000000900010001
end

