-- ==== Sys2Proof/Laws/Store.lean ====
section
/-! SUPPORT. Laws of the plain containers: memory keeps its canonical form, a read after a write, tables. -/

namespace Sys2Proof.Machine

/-! The canonical form. -/

theorem Mem.wfFrom_mono {m : Mem} : ∀ {lo lo' : Nat}, lo' ≤ lo → Mem.wfFrom lo m = true → Mem.wfFrom lo' m = true := by
  induction m with
  | nil => intros; rfl
  | cons c m _ =>
    intro lo lo' h w
    simp only [Mem.wfFrom, Bool.and_eq_true, decide_eq_true_eq] at *
    exact ⟨⟨by omega, w.1.2⟩, w.2⟩

/-- Entries of two runs, the first below mid and the second from it. -/
theorem Mem.wfFrom_append {m n : Mem} {mid : Nat} (hn : Mem.wfFrom mid n = true) :
    ∀ {lo : Nat}, Mem.wfFrom lo m = true → (∀ c ∈ m, c.1 < mid) → lo ≤ mid → Mem.wfFrom lo (m ++ n) = true := by
  induction m with
  | nil => intro lo _ _ h; exact Mem.wfFrom_mono h hn
  | cons c m ih =>
    intro lo w b _
    simp only [Mem.wfFrom, List.cons_append, Bool.and_eq_true, decide_eq_true_eq, List.mem_cons, forall_eq_or_imp] at *
    exact ⟨w.1, ih w.2 b.2 b.1⟩

theorem Mem.wfFrom_filter {m : Mem} (p : Host.Cell → Bool) : ∀ {lo : Nat}, Mem.wfFrom lo m = true → Mem.wfFrom lo (m.filter p) = true := by
  induction m with
  | nil => intros; rfl
  | cons c m ih =>
    intro lo w
    simp only [Mem.wfFrom, Bool.and_eq_true, decide_eq_true_eq] at w
    by_cases h : p c
    · simp only [List.filter_cons, h, if_true, Mem.wfFrom, Bool.and_eq_true, decide_eq_true_eq]
      exact ⟨w.1, ih w.2⟩
    · simp only [List.filter_cons, h, Bool.false_eq_true, if_false]
      exact Mem.wfFrom_mono (by omega) (ih w.2)

/-- A run whose entries all lie from hi on is in canonical form from hi on. -/
theorem Mem.wfFrom_raise {m : Mem} {hi : Nat} : ∀ {lo : Nat}, Mem.wfFrom lo m = true → (∀ c ∈ m, hi ≤ c.1) → Mem.wfFrom hi m = true := by
  cases m with
  | nil => intros; rfl
  | cons c m =>
    intro lo w b
    simp only [Mem.wfFrom, Bool.and_eq_true, decide_eq_true_eq, List.mem_cons, forall_eq_or_imp] at *
    exact ⟨⟨b.1, w.1.2⟩, w.2⟩

theorem Mem.wfFrom_ofBytes : ∀ (bs : List Byte) (a : Nat), Mem.wfFrom a (Mem.ofBytes a bs) = true := by
  intro bs
  induction bs with
  | nil => intro a; rfl
  | cons b bs ih =>
    intro a
    simp only [Mem.ofBytes]
    split
    · exact Mem.wfFrom_mono (by omega) (ih (a + 1))
    · rename_i h
      simpa [Mem.wfFrom, ih (a + 1)] using h

theorem Mem.ofBytes_bounds : ∀ (bs : List Byte) (a : Nat), ∀ c ∈ Mem.ofBytes a bs, a ≤ c.1 ∧ c.1 < a + bs.length := by
  intro bs
  induction bs with
  | nil => intro a c h; simp [Mem.ofBytes] at h
  | cons b bs ih =>
    intro a c h
    simp only [Mem.ofBytes] at h
    simp only [List.length_cons]
    split at h
    · have := ih (a + 1) c h; omega
    · rcases List.mem_cons.1 h with h | h
      · subst h; simp
      · have := ih (a + 1) c h; omega

theorem Mem.below_bounds {m : Mem} {a : Nat} : ∀ c ∈ m.below a, c.1 < a := by
  intro c h; simpa using (List.mem_filter.1 h).2

theorem Mem.from_bounds {m : Mem} {a : Nat} : ∀ c ∈ m.from_ a, a ≤ c.1 := by
  intro c h; simpa using (List.mem_filter.1 h).2

/-- Three runs: below lo, inside [lo, hi), from hi on. -/
theorem Mem.wf_splice {m x : Mem} {lo hi : Nat} (hm : m.wf = true) (hx : Mem.wfFrom lo x = true) (bx : ∀ c ∈ x, c.1 < hi) (le : lo ≤ hi) :
    Mem.wf (m.below lo ++ x ++ m.from_ hi) = true := by
  have h2 : Mem.wfFrom hi (m.from_ hi) = true := Mem.wfFrom_raise (Mem.wfFrom_filter _ hm) Mem.from_bounds
  rw [List.append_assoc]
  exact Mem.wfFrom_append (Mem.wfFrom_append h2 hx bx le) (Mem.wfFrom_filter _ hm) Mem.below_bounds (Nat.zero_le _)

/-- Writing keeps the canonical form. -/
theorem Mem.wf_write {m : Mem} (hm : m.wf = true) (a : Nat) (bs : List Byte) : (m.write a bs).wf = true :=
  Mem.wf_splice hm (Mem.wfFrom_ofBytes bs a) (fun c h => (Mem.ofBytes_bounds bs a c h).2) (Nat.le_add_right _ _)

theorem Mem.wf_from {m : Mem} (hm : m.wf = true) (a : Nat) : (m.from_ a).wf = true := Mem.wfFrom_filter _ hm

theorem Mem.wfFrom_within (hi : Nat) : ∀ (m : Mem) (lo : Nat), Mem.wfFrom lo (Mem.within hi lo m) = true := by
  intro m
  induction m with
  | nil => intro lo; rfl
  | cons c m ih =>
    intro lo
    simp only [Mem.within]
    split
    · rename_i h
      simp only [Bool.and_eq_true, decide_eq_true_eq] at h
      simpa [Mem.wfFrom, h.1.1, ih] using h.2
    · exact ih lo

theorem Mem.within_bounds (hi : Nat) : ∀ (m : Mem) (lo : Nat), ∀ c ∈ Mem.within hi lo m, c.1 < hi := by
  intro m
  induction m with
  | nil => intro lo c h; simp [Mem.within] at h
  | cons d m ih =>
    intro lo c h
    simp only [Mem.within] at h
    split at h
    · rename_i g
      simp only [Bool.and_eq_true, decide_eq_true_eq] at g
      rcases List.mem_cons.1 h with h | h
      · subst h; exact g.1.2
      · exact ih _ c h
    · exact ih _ c h

/-! A read after a write. -/

theorem Mem.get_append (m n : Mem) (k : Nat) (h : ∀ c ∈ m, c.1 ≠ k) : Mem.get (m ++ n) k = Mem.get n k := by
  induction m with
  | nil => rfl
  | cons c m ih =>
    simp only [List.mem_cons, forall_eq_or_imp] at h
    simp [Mem.get, h.1, ih h.2]

theorem Mem.get_append_left (m n : Mem) (k : Nat) (h : ∀ c ∈ n, c.1 ≠ k) : Mem.get (m ++ n) k = Mem.get m k := by
  induction m with
  | nil =>
    simp only [List.nil_append]
    induction n with
    | nil => rfl
    | cons c n ih => simp only [List.mem_cons, forall_eq_or_imp] at h; simp [Mem.get, h.1] ; simpa [Mem.get] using ih h.2
  | cons c m ih => simp [Mem.get, ih]

theorem Mem.get_filter (m : Mem) (p : Host.Cell → Bool) (k : Nat) (h : ∀ b, p (k, b) = true) : Mem.get (m.filter p) k = Mem.get m k := by
  induction m with
  | nil => rfl
  | cons c m ih =>
    obtain ⟨j, b⟩ := c
    by_cases e : j = k
    · subst e; simp [h b, Mem.get]
    · by_cases hp : p (j, b) <;> simp [hp, Mem.get, e, ih]

theorem Mem.get_ofBytes : ∀ (bs : List Byte) (a k : Nat), a ≤ k → k < a + bs.length → Mem.get (Mem.ofBytes a bs) k = bs.getD (k - a) 0 := by
  intro bs
  induction bs with
  | nil => intro a k h1 h2; simp at h2; omega
  | cons b bs ih =>
    intro a k h1 h2
    simp only [List.length_cons] at h2
    simp only [Mem.ofBytes]
    rcases Nat.eq_or_lt_of_le h1 with e | e
    · subst e
      split
      · rename_i hb
        subst hb
        have := Mem.get_append (Mem.ofBytes (a + 1) bs) [] a (fun c hc => by have := Mem.ofBytes_bounds bs (a + 1) c hc; omega)
        simpa [Mem.get] using this
      · simp [Mem.get]
    · have hs : (b :: bs).getD (k - a) 0 = bs.getD (k - (a + 1)) 0 := by
        obtain ⟨j, rfl⟩ : ∃ j, k = a + 1 + j := ⟨k - (a + 1), by omega⟩
        simp [show a + 1 + j - a = j + 1 by omega, show a + 1 + j - (a + 1) = j by omega]
      rw [hs]
      split
      · exact ih (a + 1) k (by omega) (by omega)
      · have : a ≠ k := by omega
        simp [Mem.get, this, ih (a + 1) k (by omega) (by omega)]

/-- A byte outside a write reads as before. -/
theorem Mem.get_write_out (m : Mem) (a k : Nat) (bs : List Byte) (h : k < a ∨ a + bs.length ≤ k) : Mem.get (m.write a bs) k = Mem.get m k := by
  unfold Mem.write
  have hb : ∀ c ∈ Mem.ofBytes a bs, c.1 ≠ k := fun c hc => by have := Mem.ofBytes_bounds bs a c hc; omega
  rcases h with h | h
  · rw [Mem.get_append_left _ _ _ (fun c hc => by have := Mem.from_bounds c hc; omega), Mem.get_append_left _ _ _ hb]
    exact Mem.get_filter _ _ _ (by simp [h])
  · rw [Mem.get_append _ _ _ (fun c hc => by
      rcases List.mem_append.1 hc with hc | hc
      · have := Mem.below_bounds c hc; omega
      · exact hb c hc)]
    exact Mem.get_filter _ _ _ (by simp [h])

/-- A byte inside a write reads as written. -/
theorem Mem.get_write_in (m : Mem) (a k : Nat) (bs : List Byte) (h1 : a ≤ k) (h2 : k < a + bs.length) : Mem.get (m.write a bs) k = bs.getD (k - a) 0 := by
  unfold Mem.write
  rw [Mem.get_append_left _ _ _ (fun c hc => by have := Mem.from_bounds c hc; omega),
    Mem.get_append _ _ _ (fun c hc => by have := Mem.below_bounds c hc; omega)]
  exact Mem.get_ofBytes bs a k h1 h2

/-! Tables. -/

@[simp] theorem Tab.get_put {α : Type} (t : Tab α) (k : Nat) (v : α) : Tab.get (Tab.put t k v) k = some v := by
  induction t with
  | nil => simp [Tab.put, Tab.get]
  | cons e t ih =>
    obtain ⟨j, x⟩ := e
    simp only [Tab.get] at ih
    simp only [Tab.put]
    split
    · simp [Tab.get]
    · split
      · simp [Tab.get]
      · rename_i h
        simp [Tab.get, List.lookup_cons, ih, show (k == j) = false by simpa using h]

theorem Tab.get_put_ne {α : Type} (t : Tab α) (k j : Nat) (v : α) (h : j ≠ k) : Tab.get (Tab.put t k v) j = Tab.get t j := by
  induction t with
  | nil => simp [Tab.put, Tab.get, List.lookup_cons, show (j == k) = false by simpa using h]
  | cons e t ih =>
    obtain ⟨i, x⟩ := e
    simp only [Tab.get] at ih
    simp only [Tab.put]
    split
    · simp [Tab.get, List.lookup_cons, show (j == k) = false by simpa using h]
    · split
      · rename_i h2
        subst h2
        simp [Tab.get, List.lookup_cons, show (j == k) = false by simpa using h]
      · simp [Tab.get, List.lookup_cons, ih]

@[simp] theorem Tab.put_put {α : Type} (t : Tab α) (k : Nat) (v w : α) : Tab.put (Tab.put t k v) k w = Tab.put t k w := by
  induction t with
  | nil => simp [Tab.put]
  | cons e t ih =>
    obtain ⟨j, x⟩ := e
    simp only [Tab.put]
    split
    · simp [Tab.put]
    · split
      · simp [Tab.put]
      · rename_i h1 h2
        simp [Tab.put, h1, h2, ih]

end Sys2Proof.Machine
end

