-- ==== Sys2Proof/Laws/Images.lean ====
section
/-! SUPPORT. Laws of the operations that fill memory wholesale: a frame's quarter written to a page, a checkpoint's copy. -/

namespace Sys2Proof.Machine

/-- Moving entries up keeps them rising. -/
theorem Mem.wfFrom_map (k : Nat) : ∀ (m : Mem) (lo : Nat), Mem.wfFrom lo m = true → Mem.wfFrom (lo + k) (m.map (fun c => (c.1 + k, c.2))) = true := by
  intro m
  induction m with
  | nil => intros; rfl
  | cons c m ih =>
    intro lo h
    simp only [Mem.wfFrom, List.map_cons, Bool.and_eq_true, decide_eq_true_eq] at h ⊢
    refine ⟨⟨by omega, h.1.2⟩, ?_⟩
    have := ih _ h.2
    rwa [show c.1 + k + 1 = c.1 + 1 + k by omega]

/-- A frame's quarter written to a page keeps the canonical form. -/
theorem State.pageFill_wf {s : State} (h : s.mem.wf = true) (k : Nat) (m : Mem) (bad : List Nat) : (s.pageFill k m bad).mem.wf = true :=
  Mem.wf_splice h (Mem.wfFrom_within _ _ _) (Mem.within_bounds _ _ _) (Nat.le_add_right _ _)

/-- A checkpoint's copy keeps the canonical form. -/
theorem State.copyOut_wf {s : State} (h : s.mem.wf = true) (dst lo hi : Nat) (le : lo ≤ hi) : (s.copyOut dst lo hi).mem.wf = true := by
  refine Mem.wf_splice h ?_ ?_ (by omega)
  · have := Mem.wfFrom_map (hostBase + dst) ((s.mem.from_ lo).below hi) lo
      (Mem.wfFrom_filter _ (Mem.wfFrom_raise (Mem.wf_from h lo) Mem.from_bounds))
    rwa [Nat.add_comm] at this
  · intro c hc
    obtain ⟨x, hx, rfl⟩ := List.mem_map.1 hc
    have := Mem.below_bounds x hx
    simp only
    omega

end Sys2Proof.Machine
end

