-- ==== Sys2Proof/Laws/State.lean ====
section
/-! SUPPORT. What each update of the state leaves alone: one lemma per field per update, and reading back what was put. -/

namespace Sys2Proof.Machine

/-! Blocks and launches read back. -/

@[simp] theorem State.blk_setBlk (s : State) (b : Nat) (x : Block) : (s.setBlk b x).blk b = x := by simp [State.blk, State.setBlk]
theorem State.blk_setBlk_ne (s : State) (b j : Nat) (x : Block) (h : j ≠ b) : (s.setBlk b x).blk j = s.blk j := by
  simp [State.blk, State.setBlk, Tab.get_put_ne _ _ _ _ h]
@[simp] theorem State.setBlk_setBlk (s : State) (b : Nat) (x y : Block) : (s.setBlk b x).setBlk b y = s.setBlk b y := by simp [State.setBlk]
@[simp] theorem State.me_setMe (s : State) (x : Block) : (s.setMe x).me = x := by simp [State.me, State.setMe, State.blk, State.setBlk]
@[simp] theorem State.setMe_setMe (s : State) (x y : Block) : (s.setMe x).setMe y = s.setMe y := by simp [State.setMe, State.setBlk]
@[simp] theorem State.me_modMe (s : State) (f : Block → Block) : (s.modMe f).me = f s.me := by simp [State.modMe]
@[simp] theorem State.modMe_modMe (s : State) (f g : Block → Block) : (s.modMe f).modMe g = s.modMe (fun b => g (f b)) := by simp [State.modMe]
@[simp] theorem State.modMe_setMe (s : State) (x : Block) (f : Block → Block) : (s.setMe x).modMe f = s.setMe (f x) := by simp [State.modMe]
@[simp] theorem State.lch_setLch (s : State) (l : Nat) (x : Launch) : (s.setLch l x).lch l = x := by simp [State.lch, State.setLch]
theorem State.lch_setLch_ne (s : State) (l j : Nat) (x : Launch) (h : j ≠ l) : (s.setLch l x).lch j = s.lch j := by
  simp [State.lch, State.setLch, Tab.get_put_ne _ _ _ _ h]
@[simp] theorem State.blk_setLch (s : State) (l b : Nat) (x : Launch) : (s.setLch l x).blk b = s.blk b := rfl
@[simp] theorem State.lch_setBlk (s : State) (l b : Nat) (x : Block) : (s.setBlk b x).lch l = s.lch l := rfl
@[simp] theorem State.lch_setMe (s : State) (l : Nat) (x : Block) : (s.setMe x).lch l = s.lch l := rfl
@[simp] theorem State.me_setLch (s : State) (l : Nat) (x : Launch) : (s.setLch l x).me = s.me := rfl
@[simp] theorem State.cur_setMe (s : State) (x : Block) : (s.setMe x).cur = s.cur := rfl
@[simp] theorem State.ctx_setBlk (s : State) (b c : Nat) (x : Block) : (s.setBlk b x).ctx c = s.ctx c := rfl
@[simp] theorem State.ctx_setMe (s : State) (c : Nat) (x : Block) : (s.setMe x).ctx c = s.ctx c := rfl
@[simp] theorem State.zone_setBlk (s : State) (b z : Nat) (x : Block) : (s.setBlk b x).zone z = s.zone z := rfl
@[simp] theorem State.zone_setMe (s : State) (z : Nat) (x : Block) : (s.setMe x).zone z = s.zone z := rfl
@[simp] theorem State.ctx_modCtx (s : State) (c : Nat) (f : Context → Context) (h : c < 64) : (s.modCtx c f).ctx c = f (s.ctx c) := by
  simp [State.modCtx, State.ctx, h]
theorem State.ctx_modCtx_ne (s : State) (c j : Nat) (f : Context → Context) (h : j ≠ c) : (s.modCtx c f).ctx j = s.ctx j := by
  simp [State.modCtx, State.ctx, Vector.getElem?_setIfInBounds_ne (Ne.symm h)]
@[simp] theorem Context.queue_set (x : Context) (q : Nat) (y : LaunchQueue) (h : q < 16) :
    ({ x with queues := x.queues.setIfInBounds q y } : Context).queue q = y := by simp [Context.queue, h]
@[simp] theorem State.zone_modZone (s : State) (z : Nat) (f : Zone → Zone) (h : z < 24) : (s.modZone z f).zone z = f (s.zone z) := by
  simp [State.modZone, State.zone, h]
theorem State.zone_modZone_ne (s : State) (z j : Nat) (f : Zone → Zone) (h : j ≠ z) : (s.modZone z f).zone j = s.zone j := by
  simp [State.modZone, State.zone, Vector.getElem?_setIfInBounds_ne (Ne.symm h)]
@[simp] theorem State.slotOf_modSlot (s : State) (n : Nat) (f : TraceSlot → TraceSlot) (h : n < 32) : (s.modSlot n f).slotOf n = f (s.slotOf n) := by
  simp [State.modSlot, State.slotOf, h]
@[simp] theorem State.link_modLink (s : State) (n : Nat) (f : Link → Link) (h : n < 28) : (s.modLink n f).link n = f (s.link n) := by
  simp [State.modLink, State.link, h]

/-! Registers read back. -/

@[simp] theorem Block.reg_zero (b : Block) : b.reg 0 = 0 := rfl
@[simp] theorem Block.setReg_zero (b : Block) (v : Dword) : b.setReg 0 v = b := rfl
theorem Block.reg_setReg (b : Block) (r : R6) (v : Dword) (h : r ≠ 0) : (b.setReg r v).reg r = v := by
  unfold Block.reg Block.setReg
  rw [if_neg h, if_neg h]
  exact Vector.getElem_set_self _
theorem Block.reg_setReg_ne (b : Block) (r j : R6) (v : Dword) (h : j ≠ r) : (b.setReg r v).reg j = b.reg j := by
  simp only [Block.reg, Block.setReg]
  split
  · rfl
  · split
    · rfl
    · exact Vector.getElem_set_ne (x := v) r.isLt j.isLt (fun e => h (BitVec.eq_of_toNat_eq e.symm))
@[simp] theorem Block.cond_zero (b : Block) : b.cond 0 = true := rfl
@[simp] theorem Block.setCond_zero (b : Block) (v : Bool) : b.setCond 0 v = b := rfl
@[simp] theorem Block.mergeFlags_zero (b : Block) : b.mergeFlags 0 = b := by simp [Block.mergeFlags]
theorem Block.tsrOf_setTsr (b : Block) (n : Nat) (t : Tsr) (h : n < 64) : (b.setTsr n t).tsrOf n = t := by simp [Block.tsrOf, Block.setTsr, h]
theorem Block.tsrOf_setTsr_ne (b : Block) (n j : Nat) (t : Tsr) (h : j ≠ n) : (b.setTsr n t).tsrOf j = b.tsrOf j := by
  simp [Block.tsrOf, Block.setTsr, Vector.getElem?_setIfInBounds_ne (Ne.symm h)]
theorem Block.qcwOf_setQcw (b : Block) (n : Nat) (q : Qcw) (h : n < 16) : (b.setQcw n q).qcwOf n = q := by simp [Block.qcwOf, Block.setQcw, h]
theorem Block.qcwOf_setQcw_ne (b : Block) (n j : Nat) (q : Qcw) (h : j ≠ n) : (b.setQcw n q).qcwOf j = b.qcwOf j := by
  simp [Block.qcwOf, Block.setQcw, Vector.getElem?_setIfInBounds_ne (Ne.symm h)]

/-! Updates of the device. -/

@[simp] theorem State.setBlk_agenda (s : State) (b : Nat) (x : Block) : (s.setBlk b x).agenda = s.agenda := rfl
@[simp] theorem State.setBlk_cur (s : State) (b : Nat) (x : Block) : (s.setBlk b x).cur = s.cur := rfl
@[simp] theorem State.setBlk_blocked (s : State) (b : Nat) (x : Block) : (s.setBlk b x).blocked = s.blocked := rfl
@[simp] theorem State.setBlk_starved (s : State) (b : Nat) (x : Block) : (s.setBlk b x).starved = s.starved := rfl
@[simp] theorem State.setBlk_curFlight (s : State) (b : Nat) (x : Block) : (s.setBlk b x).curFlight = s.curFlight := rfl
@[simp] theorem State.setBlk_free (s : State) (b : Nat) (x : Block) : (s.setBlk b x).free = s.free := rfl
@[simp] theorem State.setBlk_nextId (s : State) (b : Nat) (x : Block) : (s.setBlk b x).nextId = s.nextId := rfl
@[simp] theorem State.setBlk_qtb (s : State) (b : Nat) (x : Block) : (s.setBlk b x).qtb = s.qtb := rfl
@[simp] theorem State.setBlk_qtbOffset (s : State) (b : Nat) (x : Block) : (s.setBlk b x).qtbOffset = s.qtbOffset := rfl
@[simp] theorem State.setBlk_qtbSlew (s : State) (b : Nat) (x : Block) : (s.setBlk b x).qtbSlew = s.qtbSlew := rfl
@[simp] theorem State.setBlk_qtbRem (s : State) (b : Nat) (x : Block) : (s.setBlk b x).qtbRem = s.qtbRem := rfl
@[simp] theorem State.setBlk_qtbFrac (s : State) (b : Nat) (x : Block) : (s.setBlk b x).qtbFrac = s.qtbFrac := rfl
@[simp] theorem State.setBlk_qtbLast (s : State) (b : Nat) (x : Block) : (s.setBlk b x).qtbLast = s.qtbLast := rfl
@[simp] theorem State.setBlk_qtbSrc (s : State) (b : Nat) (x : Block) : (s.setBlk b x).qtbSrc = s.qtbSrc := rfl
@[simp] theorem State.setBlk_slewMax (s : State) (b : Nat) (x : Block) : (s.setBlk b x).slewMax = s.slewMax := rfl
@[simp] theorem State.setBlk_clkMHz (s : State) (b : Nat) (x : Block) : (s.setBlk b x).clkMHz = s.clkMHz := rfl
@[simp] theorem State.setBlk_pkgPower (s : State) (b : Nat) (x : Block) : (s.setBlk b x).pkgPower = s.pkgPower := rfl
@[simp] theorem State.setBlk_mem (s : State) (b : Nat) (x : Block) : (s.setBlk b x).mem = s.mem := rfl
@[simp] theorem State.setBlk_poison (s : State) (b : Nat) (x : Block) : (s.setBlk b x).poison = s.poison := rfl
@[simp] theorem State.setBlk_dirty (s : State) (b : Nat) (x : Block) : (s.setBlk b x).dirty = s.dirty := rfl
@[simp] theorem State.setBlk_poisonL2 (s : State) (b : Nat) (x : Block) : (s.setBlk b x).poisonL2 = s.poisonL2 := rfl
@[simp] theorem State.setBlk_l1 (s : State) (b : Nat) (x : Block) : (s.setBlk b x).l1 = s.l1 := rfl
@[simp] theorem State.setBlk_tlbs (s : State) (b : Nat) (x : Block) : (s.setBlk b x).tlbs = s.tlbs := rfl
@[simp] theorem State.setBlk_walks (s : State) (b : Nat) (x : Block) : (s.setBlk b x).walks = s.walks := rfl
@[simp] theorem State.setBlk_icache (s : State) (b : Nat) (x : Block) : (s.setBlk b x).icache = s.icache := rfl
@[simp] theorem State.setBlk_deferred (s : State) (b : Nat) (x : Block) : (s.setBlk b x).deferred = s.deferred := rfl
@[simp] theorem State.setBlk_wq (s : State) (b : Nat) (x : Block) : (s.setBlk b x).wq = s.wq := rfl
@[simp] theorem State.setBlk_launches (s : State) (b : Nat) (x : Block) : (s.setBlk b x).launches = s.launches := rfl
@[simp] theorem State.setBlk_ctxs (s : State) (b : Nat) (x : Block) : (s.setBlk b x).ctxs = s.ctxs := rfl
@[simp] theorem State.setBlk_ssms (s : State) (b : Nat) (x : Block) : (s.setBlk b x).ssms = s.ssms := rfl
@[simp] theorem State.setBlk_fused (s : State) (b : Nat) (x : Block) : (s.setBlk b x).fused = s.fused := rfl
@[simp] theorem State.setBlk_saves (s : State) (b : Nat) (x : Block) : (s.setBlk b x).saves = s.saves := rfl
@[simp] theorem State.setBlk_rrNext (s : State) (b : Nat) (x : Block) : (s.setBlk b x).rrNext = s.rrNext := rfl
@[simp] theorem State.setBlk_links (s : State) (b : Nat) (x : Block) : (s.setBlk b x).links = s.links := rfl
@[simp] theorem State.setBlk_routes (s : State) (b : Nat) (x : Block) : (s.setBlk b x).routes = s.routes := rfl
@[simp] theorem State.setBlk_remoteArr (s : State) (b : Nat) (x : Block) : (s.setBlk b x).remoteArr = s.remoteArr := rfl
@[simp] theorem State.setBlk_told (s : State) (b : Nat) (x : Block) : (s.setBlk b x).told = s.told := rfl
@[simp] theorem State.setBlk_farColls (s : State) (b : Nat) (x : Block) : (s.setBlk b x).farColls = s.farColls := rfl
@[simp] theorem State.setBlk_hostUp (s : State) (b : Nat) (x : Block) : (s.setBlk b x).hostUp = s.hostUp := rfl
@[simp] theorem State.setBlk_msix (s : State) (b : Nat) (x : Block) : (s.setBlk b x).msix = s.msix := rfl
@[simp] theorem State.setBlk_refuses (s : State) (b : Nat) (x : Block) : (s.setBlk b x).refuses = s.refuses := rfl
@[simp] theorem State.setBlk_zones (s : State) (b : Nat) (x : Block) : (s.setBlk b x).zones = s.zones := rfl
@[simp] theorem State.setBlk_supply (s : State) (b : Nat) (x : Block) : (s.setBlk b x).supply = s.supply := rfl
@[simp] theorem State.setBlk_cdem (s : State) (b : Nat) (x : Block) : (s.setBlk b x).cdem = s.cdem := rfl
@[simp] theorem State.setBlk_tcrit (s : State) (b : Nat) (x : Block) : (s.setBlk b x).tcrit = s.tcrit := rfl
@[simp] theorem State.setBlk_tmax (s : State) (b : Nat) (x : Block) : (s.setBlk b x).tmax = s.tmax := rfl
@[simp] theorem State.setBlk_reprime (s : State) (b : Nat) (x : Block) : (s.setBlk b x).reprime = s.reprime := rfl
@[simp] theorem State.setBlk_devid (s : State) (b : Nat) (x : Block) : (s.setBlk b x).devid = s.devid := rfl
@[simp] theorem State.setBlk_rstCause (s : State) (b : Nat) (x : Block) : (s.setBlk b x).rstCause = s.rstCause := rfl
@[simp] theorem State.setBlk_ce (s : State) (b : Nat) (x : Block) : (s.setBlk b x).ce = s.ce := rfl
@[simp] theorem State.setBlk_ue (s : State) (b : Nat) (x : Block) : (s.setBlk b x).ue = s.ue := rfl
@[simp] theorem State.setBlk_errIdx (s : State) (b : Nat) (x : Block) : (s.setBlk b x).errIdx = s.errIdx := rfl
@[simp] theorem State.setBlk_errLog (s : State) (b : Nat) (x : Block) : (s.setBlk b x).errLog = s.errLog := rfl
@[simp] theorem State.setBlk_stepping (s : State) (b : Nat) (x : Block) : (s.setBlk b x).stepping = s.stepping := rfl
@[simp] theorem State.setBlk_wcore (s : State) (b : Nat) (x : Block) : (s.setBlk b x).wcore = s.wcore := rfl
@[simp] theorem State.setBlk_wrgn (s : State) (b : Nat) (x : Block) : (s.setBlk b x).wrgn = s.wrgn := rfl
@[simp] theorem State.setBlk_secure (s : State) (b : Nat) (x : Block) : (s.setBlk b x).secure = s.secure := rfl
@[simp] theorem State.setBlk_resetting (s : State) (b : Nat) (x : Block) : (s.setBlk b x).resetting = s.resetting := rfl
@[simp] theorem State.setBlk_survivors (s : State) (b : Nat) (x : Block) : (s.setBlk b x).survivors = s.survivors := rfl
@[simp] theorem State.setBlk_mgmt (s : State) (b : Nat) (x : Block) : (s.setBlk b x).mgmt = s.mgmt := rfl
@[simp] theorem State.setBlk_ckpt (s : State) (b : Nat) (x : Block) : (s.setBlk b x).ckpt = s.ckpt := rfl
@[simp] theorem State.setBlk_traces (s : State) (b : Nat) (x : Block) : (s.setBlk b x).traces = s.traces := rfl
@[simp] theorem State.setBlk_bps (s : State) (b : Nat) (x : Block) : (s.setBlk b x).bps = s.bps := rfl
@[simp] theorem State.setBlk_dbgctx (s : State) (b : Nat) (x : Block) : (s.setBlk b x).dbgctx = s.dbgctx := rfl
@[simp] theorem State.setBlk_hostRead (s : State) (b : Nat) (x : Block) : (s.setBlk b x).hostRead = s.hostRead := rfl
@[simp] theorem State.setBlk_hostPoison (s : State) (b : Nat) (x : Block) : (s.setBlk b x).hostPoison = s.hostPoison := rfl
@[simp] theorem State.setBlk_hostUnsupported (s : State) (b : Nat) (x : Block) : (s.setBlk b x).hostUnsupported = s.hostUnsupported := rfl
@[simp] theorem State.setBlk_clock (s : State) (b : Nat) (x : Block) : (s.setBlk b x).clock = s.clock := rfl

@[simp] theorem State.setMe_agenda (s : State) (x : Block) : (s.setMe x).agenda = s.agenda := rfl
@[simp] theorem State.setMe_blocked (s : State) (x : Block) : (s.setMe x).blocked = s.blocked := rfl
@[simp] theorem State.setMe_starved (s : State) (x : Block) : (s.setMe x).starved = s.starved := rfl
@[simp] theorem State.setMe_curFlight (s : State) (x : Block) : (s.setMe x).curFlight = s.curFlight := rfl
@[simp] theorem State.setMe_free (s : State) (x : Block) : (s.setMe x).free = s.free := rfl
@[simp] theorem State.setMe_nextId (s : State) (x : Block) : (s.setMe x).nextId = s.nextId := rfl
@[simp] theorem State.setMe_qtb (s : State) (x : Block) : (s.setMe x).qtb = s.qtb := rfl
@[simp] theorem State.setMe_qtbOffset (s : State) (x : Block) : (s.setMe x).qtbOffset = s.qtbOffset := rfl
@[simp] theorem State.setMe_qtbSlew (s : State) (x : Block) : (s.setMe x).qtbSlew = s.qtbSlew := rfl
@[simp] theorem State.setMe_qtbRem (s : State) (x : Block) : (s.setMe x).qtbRem = s.qtbRem := rfl
@[simp] theorem State.setMe_qtbFrac (s : State) (x : Block) : (s.setMe x).qtbFrac = s.qtbFrac := rfl
@[simp] theorem State.setMe_qtbLast (s : State) (x : Block) : (s.setMe x).qtbLast = s.qtbLast := rfl
@[simp] theorem State.setMe_qtbSrc (s : State) (x : Block) : (s.setMe x).qtbSrc = s.qtbSrc := rfl
@[simp] theorem State.setMe_slewMax (s : State) (x : Block) : (s.setMe x).slewMax = s.slewMax := rfl
@[simp] theorem State.setMe_clkMHz (s : State) (x : Block) : (s.setMe x).clkMHz = s.clkMHz := rfl
@[simp] theorem State.setMe_pkgPower (s : State) (x : Block) : (s.setMe x).pkgPower = s.pkgPower := rfl
@[simp] theorem State.setMe_mem (s : State) (x : Block) : (s.setMe x).mem = s.mem := rfl
@[simp] theorem State.setMe_poison (s : State) (x : Block) : (s.setMe x).poison = s.poison := rfl
@[simp] theorem State.setMe_dirty (s : State) (x : Block) : (s.setMe x).dirty = s.dirty := rfl
@[simp] theorem State.setMe_poisonL2 (s : State) (x : Block) : (s.setMe x).poisonL2 = s.poisonL2 := rfl
@[simp] theorem State.setMe_l1 (s : State) (x : Block) : (s.setMe x).l1 = s.l1 := rfl
@[simp] theorem State.setMe_tlbs (s : State) (x : Block) : (s.setMe x).tlbs = s.tlbs := rfl
@[simp] theorem State.setMe_walks (s : State) (x : Block) : (s.setMe x).walks = s.walks := rfl
@[simp] theorem State.setMe_icache (s : State) (x : Block) : (s.setMe x).icache = s.icache := rfl
@[simp] theorem State.setMe_deferred (s : State) (x : Block) : (s.setMe x).deferred = s.deferred := rfl
@[simp] theorem State.setMe_wq (s : State) (x : Block) : (s.setMe x).wq = s.wq := rfl
@[simp] theorem State.setMe_launches (s : State) (x : Block) : (s.setMe x).launches = s.launches := rfl
@[simp] theorem State.setMe_ctxs (s : State) (x : Block) : (s.setMe x).ctxs = s.ctxs := rfl
@[simp] theorem State.setMe_ssms (s : State) (x : Block) : (s.setMe x).ssms = s.ssms := rfl
@[simp] theorem State.setMe_fused (s : State) (x : Block) : (s.setMe x).fused = s.fused := rfl
@[simp] theorem State.setMe_saves (s : State) (x : Block) : (s.setMe x).saves = s.saves := rfl
@[simp] theorem State.setMe_rrNext (s : State) (x : Block) : (s.setMe x).rrNext = s.rrNext := rfl
@[simp] theorem State.setMe_links (s : State) (x : Block) : (s.setMe x).links = s.links := rfl
@[simp] theorem State.setMe_routes (s : State) (x : Block) : (s.setMe x).routes = s.routes := rfl
@[simp] theorem State.setMe_remoteArr (s : State) (x : Block) : (s.setMe x).remoteArr = s.remoteArr := rfl
@[simp] theorem State.setMe_told (s : State) (x : Block) : (s.setMe x).told = s.told := rfl
@[simp] theorem State.setMe_farColls (s : State) (x : Block) : (s.setMe x).farColls = s.farColls := rfl
@[simp] theorem State.setMe_hostUp (s : State) (x : Block) : (s.setMe x).hostUp = s.hostUp := rfl
@[simp] theorem State.setMe_msix (s : State) (x : Block) : (s.setMe x).msix = s.msix := rfl
@[simp] theorem State.setMe_refuses (s : State) (x : Block) : (s.setMe x).refuses = s.refuses := rfl
@[simp] theorem State.setMe_zones (s : State) (x : Block) : (s.setMe x).zones = s.zones := rfl
@[simp] theorem State.setMe_supply (s : State) (x : Block) : (s.setMe x).supply = s.supply := rfl
@[simp] theorem State.setMe_cdem (s : State) (x : Block) : (s.setMe x).cdem = s.cdem := rfl
@[simp] theorem State.setMe_tcrit (s : State) (x : Block) : (s.setMe x).tcrit = s.tcrit := rfl
@[simp] theorem State.setMe_tmax (s : State) (x : Block) : (s.setMe x).tmax = s.tmax := rfl
@[simp] theorem State.setMe_reprime (s : State) (x : Block) : (s.setMe x).reprime = s.reprime := rfl
@[simp] theorem State.setMe_devid (s : State) (x : Block) : (s.setMe x).devid = s.devid := rfl
@[simp] theorem State.setMe_rstCause (s : State) (x : Block) : (s.setMe x).rstCause = s.rstCause := rfl
@[simp] theorem State.setMe_ce (s : State) (x : Block) : (s.setMe x).ce = s.ce := rfl
@[simp] theorem State.setMe_ue (s : State) (x : Block) : (s.setMe x).ue = s.ue := rfl
@[simp] theorem State.setMe_errIdx (s : State) (x : Block) : (s.setMe x).errIdx = s.errIdx := rfl
@[simp] theorem State.setMe_errLog (s : State) (x : Block) : (s.setMe x).errLog = s.errLog := rfl
@[simp] theorem State.setMe_stepping (s : State) (x : Block) : (s.setMe x).stepping = s.stepping := rfl
@[simp] theorem State.setMe_wcore (s : State) (x : Block) : (s.setMe x).wcore = s.wcore := rfl
@[simp] theorem State.setMe_wrgn (s : State) (x : Block) : (s.setMe x).wrgn = s.wrgn := rfl
@[simp] theorem State.setMe_secure (s : State) (x : Block) : (s.setMe x).secure = s.secure := rfl
@[simp] theorem State.setMe_resetting (s : State) (x : Block) : (s.setMe x).resetting = s.resetting := rfl
@[simp] theorem State.setMe_survivors (s : State) (x : Block) : (s.setMe x).survivors = s.survivors := rfl
@[simp] theorem State.setMe_mgmt (s : State) (x : Block) : (s.setMe x).mgmt = s.mgmt := rfl
@[simp] theorem State.setMe_ckpt (s : State) (x : Block) : (s.setMe x).ckpt = s.ckpt := rfl
@[simp] theorem State.setMe_traces (s : State) (x : Block) : (s.setMe x).traces = s.traces := rfl
@[simp] theorem State.setMe_bps (s : State) (x : Block) : (s.setMe x).bps = s.bps := rfl
@[simp] theorem State.setMe_dbgctx (s : State) (x : Block) : (s.setMe x).dbgctx = s.dbgctx := rfl
@[simp] theorem State.setMe_hostRead (s : State) (x : Block) : (s.setMe x).hostRead = s.hostRead := rfl
@[simp] theorem State.setMe_hostPoison (s : State) (x : Block) : (s.setMe x).hostPoison = s.hostPoison := rfl
@[simp] theorem State.setMe_hostUnsupported (s : State) (x : Block) : (s.setMe x).hostUnsupported = s.hostUnsupported := rfl
@[simp] theorem State.setMe_clock (s : State) (x : Block) : (s.setMe x).clock = s.clock := rfl

@[simp] theorem State.setLch_agenda (s : State) (l : Nat) (x : Launch) : (s.setLch l x).agenda = s.agenda := rfl
@[simp] theorem State.setLch_cur (s : State) (l : Nat) (x : Launch) : (s.setLch l x).cur = s.cur := rfl
@[simp] theorem State.setLch_blocked (s : State) (l : Nat) (x : Launch) : (s.setLch l x).blocked = s.blocked := rfl
@[simp] theorem State.setLch_starved (s : State) (l : Nat) (x : Launch) : (s.setLch l x).starved = s.starved := rfl
@[simp] theorem State.setLch_curFlight (s : State) (l : Nat) (x : Launch) : (s.setLch l x).curFlight = s.curFlight := rfl
@[simp] theorem State.setLch_free (s : State) (l : Nat) (x : Launch) : (s.setLch l x).free = s.free := rfl
@[simp] theorem State.setLch_nextId (s : State) (l : Nat) (x : Launch) : (s.setLch l x).nextId = s.nextId := rfl
@[simp] theorem State.setLch_qtb (s : State) (l : Nat) (x : Launch) : (s.setLch l x).qtb = s.qtb := rfl
@[simp] theorem State.setLch_qtbOffset (s : State) (l : Nat) (x : Launch) : (s.setLch l x).qtbOffset = s.qtbOffset := rfl
@[simp] theorem State.setLch_qtbSlew (s : State) (l : Nat) (x : Launch) : (s.setLch l x).qtbSlew = s.qtbSlew := rfl
@[simp] theorem State.setLch_qtbRem (s : State) (l : Nat) (x : Launch) : (s.setLch l x).qtbRem = s.qtbRem := rfl
@[simp] theorem State.setLch_qtbFrac (s : State) (l : Nat) (x : Launch) : (s.setLch l x).qtbFrac = s.qtbFrac := rfl
@[simp] theorem State.setLch_qtbLast (s : State) (l : Nat) (x : Launch) : (s.setLch l x).qtbLast = s.qtbLast := rfl
@[simp] theorem State.setLch_qtbSrc (s : State) (l : Nat) (x : Launch) : (s.setLch l x).qtbSrc = s.qtbSrc := rfl
@[simp] theorem State.setLch_slewMax (s : State) (l : Nat) (x : Launch) : (s.setLch l x).slewMax = s.slewMax := rfl
@[simp] theorem State.setLch_clkMHz (s : State) (l : Nat) (x : Launch) : (s.setLch l x).clkMHz = s.clkMHz := rfl
@[simp] theorem State.setLch_pkgPower (s : State) (l : Nat) (x : Launch) : (s.setLch l x).pkgPower = s.pkgPower := rfl
@[simp] theorem State.setLch_mem (s : State) (l : Nat) (x : Launch) : (s.setLch l x).mem = s.mem := rfl
@[simp] theorem State.setLch_poison (s : State) (l : Nat) (x : Launch) : (s.setLch l x).poison = s.poison := rfl
@[simp] theorem State.setLch_dirty (s : State) (l : Nat) (x : Launch) : (s.setLch l x).dirty = s.dirty := rfl
@[simp] theorem State.setLch_poisonL2 (s : State) (l : Nat) (x : Launch) : (s.setLch l x).poisonL2 = s.poisonL2 := rfl
@[simp] theorem State.setLch_l1 (s : State) (l : Nat) (x : Launch) : (s.setLch l x).l1 = s.l1 := rfl
@[simp] theorem State.setLch_tlbs (s : State) (l : Nat) (x : Launch) : (s.setLch l x).tlbs = s.tlbs := rfl
@[simp] theorem State.setLch_walks (s : State) (l : Nat) (x : Launch) : (s.setLch l x).walks = s.walks := rfl
@[simp] theorem State.setLch_icache (s : State) (l : Nat) (x : Launch) : (s.setLch l x).icache = s.icache := rfl
@[simp] theorem State.setLch_deferred (s : State) (l : Nat) (x : Launch) : (s.setLch l x).deferred = s.deferred := rfl
@[simp] theorem State.setLch_wq (s : State) (l : Nat) (x : Launch) : (s.setLch l x).wq = s.wq := rfl
@[simp] theorem State.setLch_blocks (s : State) (l : Nat) (x : Launch) : (s.setLch l x).blocks = s.blocks := rfl
@[simp] theorem State.setLch_ctxs (s : State) (l : Nat) (x : Launch) : (s.setLch l x).ctxs = s.ctxs := rfl
@[simp] theorem State.setLch_ssms (s : State) (l : Nat) (x : Launch) : (s.setLch l x).ssms = s.ssms := rfl
@[simp] theorem State.setLch_fused (s : State) (l : Nat) (x : Launch) : (s.setLch l x).fused = s.fused := rfl
@[simp] theorem State.setLch_saves (s : State) (l : Nat) (x : Launch) : (s.setLch l x).saves = s.saves := rfl
@[simp] theorem State.setLch_rrNext (s : State) (l : Nat) (x : Launch) : (s.setLch l x).rrNext = s.rrNext := rfl
@[simp] theorem State.setLch_links (s : State) (l : Nat) (x : Launch) : (s.setLch l x).links = s.links := rfl
@[simp] theorem State.setLch_routes (s : State) (l : Nat) (x : Launch) : (s.setLch l x).routes = s.routes := rfl
@[simp] theorem State.setLch_remoteArr (s : State) (l : Nat) (x : Launch) : (s.setLch l x).remoteArr = s.remoteArr := rfl
@[simp] theorem State.setLch_told (s : State) (l : Nat) (x : Launch) : (s.setLch l x).told = s.told := rfl
@[simp] theorem State.setLch_farColls (s : State) (l : Nat) (x : Launch) : (s.setLch l x).farColls = s.farColls := rfl
@[simp] theorem State.setLch_hostUp (s : State) (l : Nat) (x : Launch) : (s.setLch l x).hostUp = s.hostUp := rfl
@[simp] theorem State.setLch_msix (s : State) (l : Nat) (x : Launch) : (s.setLch l x).msix = s.msix := rfl
@[simp] theorem State.setLch_refuses (s : State) (l : Nat) (x : Launch) : (s.setLch l x).refuses = s.refuses := rfl
@[simp] theorem State.setLch_zones (s : State) (l : Nat) (x : Launch) : (s.setLch l x).zones = s.zones := rfl
@[simp] theorem State.setLch_supply (s : State) (l : Nat) (x : Launch) : (s.setLch l x).supply = s.supply := rfl
@[simp] theorem State.setLch_cdem (s : State) (l : Nat) (x : Launch) : (s.setLch l x).cdem = s.cdem := rfl
@[simp] theorem State.setLch_tcrit (s : State) (l : Nat) (x : Launch) : (s.setLch l x).tcrit = s.tcrit := rfl
@[simp] theorem State.setLch_tmax (s : State) (l : Nat) (x : Launch) : (s.setLch l x).tmax = s.tmax := rfl
@[simp] theorem State.setLch_reprime (s : State) (l : Nat) (x : Launch) : (s.setLch l x).reprime = s.reprime := rfl
@[simp] theorem State.setLch_devid (s : State) (l : Nat) (x : Launch) : (s.setLch l x).devid = s.devid := rfl
@[simp] theorem State.setLch_rstCause (s : State) (l : Nat) (x : Launch) : (s.setLch l x).rstCause = s.rstCause := rfl
@[simp] theorem State.setLch_ce (s : State) (l : Nat) (x : Launch) : (s.setLch l x).ce = s.ce := rfl
@[simp] theorem State.setLch_ue (s : State) (l : Nat) (x : Launch) : (s.setLch l x).ue = s.ue := rfl
@[simp] theorem State.setLch_errIdx (s : State) (l : Nat) (x : Launch) : (s.setLch l x).errIdx = s.errIdx := rfl
@[simp] theorem State.setLch_errLog (s : State) (l : Nat) (x : Launch) : (s.setLch l x).errLog = s.errLog := rfl
@[simp] theorem State.setLch_stepping (s : State) (l : Nat) (x : Launch) : (s.setLch l x).stepping = s.stepping := rfl
@[simp] theorem State.setLch_wcore (s : State) (l : Nat) (x : Launch) : (s.setLch l x).wcore = s.wcore := rfl
@[simp] theorem State.setLch_wrgn (s : State) (l : Nat) (x : Launch) : (s.setLch l x).wrgn = s.wrgn := rfl
@[simp] theorem State.setLch_secure (s : State) (l : Nat) (x : Launch) : (s.setLch l x).secure = s.secure := rfl
@[simp] theorem State.setLch_resetting (s : State) (l : Nat) (x : Launch) : (s.setLch l x).resetting = s.resetting := rfl
@[simp] theorem State.setLch_survivors (s : State) (l : Nat) (x : Launch) : (s.setLch l x).survivors = s.survivors := rfl
@[simp] theorem State.setLch_mgmt (s : State) (l : Nat) (x : Launch) : (s.setLch l x).mgmt = s.mgmt := rfl
@[simp] theorem State.setLch_ckpt (s : State) (l : Nat) (x : Launch) : (s.setLch l x).ckpt = s.ckpt := rfl
@[simp] theorem State.setLch_traces (s : State) (l : Nat) (x : Launch) : (s.setLch l x).traces = s.traces := rfl
@[simp] theorem State.setLch_bps (s : State) (l : Nat) (x : Launch) : (s.setLch l x).bps = s.bps := rfl
@[simp] theorem State.setLch_dbgctx (s : State) (l : Nat) (x : Launch) : (s.setLch l x).dbgctx = s.dbgctx := rfl
@[simp] theorem State.setLch_hostRead (s : State) (l : Nat) (x : Launch) : (s.setLch l x).hostRead = s.hostRead := rfl
@[simp] theorem State.setLch_hostPoison (s : State) (l : Nat) (x : Launch) : (s.setLch l x).hostPoison = s.hostPoison := rfl
@[simp] theorem State.setLch_hostUnsupported (s : State) (l : Nat) (x : Launch) : (s.setLch l x).hostUnsupported = s.hostUnsupported := rfl
@[simp] theorem State.setLch_clock (s : State) (l : Nat) (x : Launch) : (s.setLch l x).clock = s.clock := rfl

@[simp] theorem State.modCtx_agenda (s : State) (c : Nat) (f : Context → Context) : (s.modCtx c f).agenda = s.agenda := rfl
@[simp] theorem State.modCtx_cur (s : State) (c : Nat) (f : Context → Context) : (s.modCtx c f).cur = s.cur := rfl
@[simp] theorem State.modCtx_blocked (s : State) (c : Nat) (f : Context → Context) : (s.modCtx c f).blocked = s.blocked := rfl
@[simp] theorem State.modCtx_starved (s : State) (c : Nat) (f : Context → Context) : (s.modCtx c f).starved = s.starved := rfl
@[simp] theorem State.modCtx_curFlight (s : State) (c : Nat) (f : Context → Context) : (s.modCtx c f).curFlight = s.curFlight := rfl
@[simp] theorem State.modCtx_free (s : State) (c : Nat) (f : Context → Context) : (s.modCtx c f).free = s.free := rfl
@[simp] theorem State.modCtx_nextId (s : State) (c : Nat) (f : Context → Context) : (s.modCtx c f).nextId = s.nextId := rfl
@[simp] theorem State.modCtx_qtb (s : State) (c : Nat) (f : Context → Context) : (s.modCtx c f).qtb = s.qtb := rfl
@[simp] theorem State.modCtx_qtbOffset (s : State) (c : Nat) (f : Context → Context) : (s.modCtx c f).qtbOffset = s.qtbOffset := rfl
@[simp] theorem State.modCtx_qtbSlew (s : State) (c : Nat) (f : Context → Context) : (s.modCtx c f).qtbSlew = s.qtbSlew := rfl
@[simp] theorem State.modCtx_qtbRem (s : State) (c : Nat) (f : Context → Context) : (s.modCtx c f).qtbRem = s.qtbRem := rfl
@[simp] theorem State.modCtx_qtbFrac (s : State) (c : Nat) (f : Context → Context) : (s.modCtx c f).qtbFrac = s.qtbFrac := rfl
@[simp] theorem State.modCtx_qtbLast (s : State) (c : Nat) (f : Context → Context) : (s.modCtx c f).qtbLast = s.qtbLast := rfl
@[simp] theorem State.modCtx_qtbSrc (s : State) (c : Nat) (f : Context → Context) : (s.modCtx c f).qtbSrc = s.qtbSrc := rfl
@[simp] theorem State.modCtx_slewMax (s : State) (c : Nat) (f : Context → Context) : (s.modCtx c f).slewMax = s.slewMax := rfl
@[simp] theorem State.modCtx_clkMHz (s : State) (c : Nat) (f : Context → Context) : (s.modCtx c f).clkMHz = s.clkMHz := rfl
@[simp] theorem State.modCtx_pkgPower (s : State) (c : Nat) (f : Context → Context) : (s.modCtx c f).pkgPower = s.pkgPower := rfl
@[simp] theorem State.modCtx_mem (s : State) (c : Nat) (f : Context → Context) : (s.modCtx c f).mem = s.mem := rfl
@[simp] theorem State.modCtx_poison (s : State) (c : Nat) (f : Context → Context) : (s.modCtx c f).poison = s.poison := rfl
@[simp] theorem State.modCtx_dirty (s : State) (c : Nat) (f : Context → Context) : (s.modCtx c f).dirty = s.dirty := rfl
@[simp] theorem State.modCtx_poisonL2 (s : State) (c : Nat) (f : Context → Context) : (s.modCtx c f).poisonL2 = s.poisonL2 := rfl
@[simp] theorem State.modCtx_l1 (s : State) (c : Nat) (f : Context → Context) : (s.modCtx c f).l1 = s.l1 := rfl
@[simp] theorem State.modCtx_tlbs (s : State) (c : Nat) (f : Context → Context) : (s.modCtx c f).tlbs = s.tlbs := rfl
@[simp] theorem State.modCtx_walks (s : State) (c : Nat) (f : Context → Context) : (s.modCtx c f).walks = s.walks := rfl
@[simp] theorem State.modCtx_icache (s : State) (c : Nat) (f : Context → Context) : (s.modCtx c f).icache = s.icache := rfl
@[simp] theorem State.modCtx_deferred (s : State) (c : Nat) (f : Context → Context) : (s.modCtx c f).deferred = s.deferred := rfl
@[simp] theorem State.modCtx_wq (s : State) (c : Nat) (f : Context → Context) : (s.modCtx c f).wq = s.wq := rfl
@[simp] theorem State.modCtx_blocks (s : State) (c : Nat) (f : Context → Context) : (s.modCtx c f).blocks = s.blocks := rfl
@[simp] theorem State.modCtx_launches (s : State) (c : Nat) (f : Context → Context) : (s.modCtx c f).launches = s.launches := rfl
@[simp] theorem State.modCtx_ssms (s : State) (c : Nat) (f : Context → Context) : (s.modCtx c f).ssms = s.ssms := rfl
@[simp] theorem State.modCtx_fused (s : State) (c : Nat) (f : Context → Context) : (s.modCtx c f).fused = s.fused := rfl
@[simp] theorem State.modCtx_saves (s : State) (c : Nat) (f : Context → Context) : (s.modCtx c f).saves = s.saves := rfl
@[simp] theorem State.modCtx_rrNext (s : State) (c : Nat) (f : Context → Context) : (s.modCtx c f).rrNext = s.rrNext := rfl
@[simp] theorem State.modCtx_links (s : State) (c : Nat) (f : Context → Context) : (s.modCtx c f).links = s.links := rfl
@[simp] theorem State.modCtx_routes (s : State) (c : Nat) (f : Context → Context) : (s.modCtx c f).routes = s.routes := rfl
@[simp] theorem State.modCtx_remoteArr (s : State) (c : Nat) (f : Context → Context) : (s.modCtx c f).remoteArr = s.remoteArr := rfl
@[simp] theorem State.modCtx_told (s : State) (c : Nat) (f : Context → Context) : (s.modCtx c f).told = s.told := rfl
@[simp] theorem State.modCtx_farColls (s : State) (c : Nat) (f : Context → Context) : (s.modCtx c f).farColls = s.farColls := rfl
@[simp] theorem State.modCtx_hostUp (s : State) (c : Nat) (f : Context → Context) : (s.modCtx c f).hostUp = s.hostUp := rfl
@[simp] theorem State.modCtx_msix (s : State) (c : Nat) (f : Context → Context) : (s.modCtx c f).msix = s.msix := rfl
@[simp] theorem State.modCtx_refuses (s : State) (c : Nat) (f : Context → Context) : (s.modCtx c f).refuses = s.refuses := rfl
@[simp] theorem State.modCtx_zones (s : State) (c : Nat) (f : Context → Context) : (s.modCtx c f).zones = s.zones := rfl
@[simp] theorem State.modCtx_supply (s : State) (c : Nat) (f : Context → Context) : (s.modCtx c f).supply = s.supply := rfl
@[simp] theorem State.modCtx_cdem (s : State) (c : Nat) (f : Context → Context) : (s.modCtx c f).cdem = s.cdem := rfl
@[simp] theorem State.modCtx_tcrit (s : State) (c : Nat) (f : Context → Context) : (s.modCtx c f).tcrit = s.tcrit := rfl
@[simp] theorem State.modCtx_tmax (s : State) (c : Nat) (f : Context → Context) : (s.modCtx c f).tmax = s.tmax := rfl
@[simp] theorem State.modCtx_reprime (s : State) (c : Nat) (f : Context → Context) : (s.modCtx c f).reprime = s.reprime := rfl
@[simp] theorem State.modCtx_devid (s : State) (c : Nat) (f : Context → Context) : (s.modCtx c f).devid = s.devid := rfl
@[simp] theorem State.modCtx_rstCause (s : State) (c : Nat) (f : Context → Context) : (s.modCtx c f).rstCause = s.rstCause := rfl
@[simp] theorem State.modCtx_ce (s : State) (c : Nat) (f : Context → Context) : (s.modCtx c f).ce = s.ce := rfl
@[simp] theorem State.modCtx_ue (s : State) (c : Nat) (f : Context → Context) : (s.modCtx c f).ue = s.ue := rfl
@[simp] theorem State.modCtx_errIdx (s : State) (c : Nat) (f : Context → Context) : (s.modCtx c f).errIdx = s.errIdx := rfl
@[simp] theorem State.modCtx_errLog (s : State) (c : Nat) (f : Context → Context) : (s.modCtx c f).errLog = s.errLog := rfl
@[simp] theorem State.modCtx_stepping (s : State) (c : Nat) (f : Context → Context) : (s.modCtx c f).stepping = s.stepping := rfl
@[simp] theorem State.modCtx_wcore (s : State) (c : Nat) (f : Context → Context) : (s.modCtx c f).wcore = s.wcore := rfl
@[simp] theorem State.modCtx_wrgn (s : State) (c : Nat) (f : Context → Context) : (s.modCtx c f).wrgn = s.wrgn := rfl
@[simp] theorem State.modCtx_secure (s : State) (c : Nat) (f : Context → Context) : (s.modCtx c f).secure = s.secure := rfl
@[simp] theorem State.modCtx_resetting (s : State) (c : Nat) (f : Context → Context) : (s.modCtx c f).resetting = s.resetting := rfl
@[simp] theorem State.modCtx_survivors (s : State) (c : Nat) (f : Context → Context) : (s.modCtx c f).survivors = s.survivors := rfl
@[simp] theorem State.modCtx_mgmt (s : State) (c : Nat) (f : Context → Context) : (s.modCtx c f).mgmt = s.mgmt := rfl
@[simp] theorem State.modCtx_ckpt (s : State) (c : Nat) (f : Context → Context) : (s.modCtx c f).ckpt = s.ckpt := rfl
@[simp] theorem State.modCtx_traces (s : State) (c : Nat) (f : Context → Context) : (s.modCtx c f).traces = s.traces := rfl
@[simp] theorem State.modCtx_bps (s : State) (c : Nat) (f : Context → Context) : (s.modCtx c f).bps = s.bps := rfl
@[simp] theorem State.modCtx_dbgctx (s : State) (c : Nat) (f : Context → Context) : (s.modCtx c f).dbgctx = s.dbgctx := rfl
@[simp] theorem State.modCtx_hostRead (s : State) (c : Nat) (f : Context → Context) : (s.modCtx c f).hostRead = s.hostRead := rfl
@[simp] theorem State.modCtx_hostPoison (s : State) (c : Nat) (f : Context → Context) : (s.modCtx c f).hostPoison = s.hostPoison := rfl
@[simp] theorem State.modCtx_hostUnsupported (s : State) (c : Nat) (f : Context → Context) : (s.modCtx c f).hostUnsupported = s.hostUnsupported := rfl
@[simp] theorem State.modCtx_clock (s : State) (c : Nat) (f : Context → Context) : (s.modCtx c f).clock = s.clock := rfl

@[simp] theorem State.modZone_agenda (s : State) (z : Nat) (f : Zone → Zone) : (s.modZone z f).agenda = s.agenda := rfl
@[simp] theorem State.modZone_cur (s : State) (z : Nat) (f : Zone → Zone) : (s.modZone z f).cur = s.cur := rfl
@[simp] theorem State.modZone_blocked (s : State) (z : Nat) (f : Zone → Zone) : (s.modZone z f).blocked = s.blocked := rfl
@[simp] theorem State.modZone_starved (s : State) (z : Nat) (f : Zone → Zone) : (s.modZone z f).starved = s.starved := rfl
@[simp] theorem State.modZone_curFlight (s : State) (z : Nat) (f : Zone → Zone) : (s.modZone z f).curFlight = s.curFlight := rfl
@[simp] theorem State.modZone_free (s : State) (z : Nat) (f : Zone → Zone) : (s.modZone z f).free = s.free := rfl
@[simp] theorem State.modZone_nextId (s : State) (z : Nat) (f : Zone → Zone) : (s.modZone z f).nextId = s.nextId := rfl
@[simp] theorem State.modZone_qtb (s : State) (z : Nat) (f : Zone → Zone) : (s.modZone z f).qtb = s.qtb := rfl
@[simp] theorem State.modZone_qtbOffset (s : State) (z : Nat) (f : Zone → Zone) : (s.modZone z f).qtbOffset = s.qtbOffset := rfl
@[simp] theorem State.modZone_qtbSlew (s : State) (z : Nat) (f : Zone → Zone) : (s.modZone z f).qtbSlew = s.qtbSlew := rfl
@[simp] theorem State.modZone_qtbRem (s : State) (z : Nat) (f : Zone → Zone) : (s.modZone z f).qtbRem = s.qtbRem := rfl
@[simp] theorem State.modZone_qtbFrac (s : State) (z : Nat) (f : Zone → Zone) : (s.modZone z f).qtbFrac = s.qtbFrac := rfl
@[simp] theorem State.modZone_qtbLast (s : State) (z : Nat) (f : Zone → Zone) : (s.modZone z f).qtbLast = s.qtbLast := rfl
@[simp] theorem State.modZone_qtbSrc (s : State) (z : Nat) (f : Zone → Zone) : (s.modZone z f).qtbSrc = s.qtbSrc := rfl
@[simp] theorem State.modZone_slewMax (s : State) (z : Nat) (f : Zone → Zone) : (s.modZone z f).slewMax = s.slewMax := rfl
@[simp] theorem State.modZone_clkMHz (s : State) (z : Nat) (f : Zone → Zone) : (s.modZone z f).clkMHz = s.clkMHz := rfl
@[simp] theorem State.modZone_pkgPower (s : State) (z : Nat) (f : Zone → Zone) : (s.modZone z f).pkgPower = s.pkgPower := rfl
@[simp] theorem State.modZone_mem (s : State) (z : Nat) (f : Zone → Zone) : (s.modZone z f).mem = s.mem := rfl
@[simp] theorem State.modZone_poison (s : State) (z : Nat) (f : Zone → Zone) : (s.modZone z f).poison = s.poison := rfl
@[simp] theorem State.modZone_dirty (s : State) (z : Nat) (f : Zone → Zone) : (s.modZone z f).dirty = s.dirty := rfl
@[simp] theorem State.modZone_poisonL2 (s : State) (z : Nat) (f : Zone → Zone) : (s.modZone z f).poisonL2 = s.poisonL2 := rfl
@[simp] theorem State.modZone_l1 (s : State) (z : Nat) (f : Zone → Zone) : (s.modZone z f).l1 = s.l1 := rfl
@[simp] theorem State.modZone_tlbs (s : State) (z : Nat) (f : Zone → Zone) : (s.modZone z f).tlbs = s.tlbs := rfl
@[simp] theorem State.modZone_walks (s : State) (z : Nat) (f : Zone → Zone) : (s.modZone z f).walks = s.walks := rfl
@[simp] theorem State.modZone_icache (s : State) (z : Nat) (f : Zone → Zone) : (s.modZone z f).icache = s.icache := rfl
@[simp] theorem State.modZone_deferred (s : State) (z : Nat) (f : Zone → Zone) : (s.modZone z f).deferred = s.deferred := rfl
@[simp] theorem State.modZone_wq (s : State) (z : Nat) (f : Zone → Zone) : (s.modZone z f).wq = s.wq := rfl
@[simp] theorem State.modZone_blocks (s : State) (z : Nat) (f : Zone → Zone) : (s.modZone z f).blocks = s.blocks := rfl
@[simp] theorem State.modZone_launches (s : State) (z : Nat) (f : Zone → Zone) : (s.modZone z f).launches = s.launches := rfl
@[simp] theorem State.modZone_ctxs (s : State) (z : Nat) (f : Zone → Zone) : (s.modZone z f).ctxs = s.ctxs := rfl
@[simp] theorem State.modZone_ssms (s : State) (z : Nat) (f : Zone → Zone) : (s.modZone z f).ssms = s.ssms := rfl
@[simp] theorem State.modZone_fused (s : State) (z : Nat) (f : Zone → Zone) : (s.modZone z f).fused = s.fused := rfl
@[simp] theorem State.modZone_saves (s : State) (z : Nat) (f : Zone → Zone) : (s.modZone z f).saves = s.saves := rfl
@[simp] theorem State.modZone_rrNext (s : State) (z : Nat) (f : Zone → Zone) : (s.modZone z f).rrNext = s.rrNext := rfl
@[simp] theorem State.modZone_links (s : State) (z : Nat) (f : Zone → Zone) : (s.modZone z f).links = s.links := rfl
@[simp] theorem State.modZone_routes (s : State) (z : Nat) (f : Zone → Zone) : (s.modZone z f).routes = s.routes := rfl
@[simp] theorem State.modZone_remoteArr (s : State) (z : Nat) (f : Zone → Zone) : (s.modZone z f).remoteArr = s.remoteArr := rfl
@[simp] theorem State.modZone_told (s : State) (z : Nat) (f : Zone → Zone) : (s.modZone z f).told = s.told := rfl
@[simp] theorem State.modZone_farColls (s : State) (z : Nat) (f : Zone → Zone) : (s.modZone z f).farColls = s.farColls := rfl
@[simp] theorem State.modZone_hostUp (s : State) (z : Nat) (f : Zone → Zone) : (s.modZone z f).hostUp = s.hostUp := rfl
@[simp] theorem State.modZone_msix (s : State) (z : Nat) (f : Zone → Zone) : (s.modZone z f).msix = s.msix := rfl
@[simp] theorem State.modZone_refuses (s : State) (z : Nat) (f : Zone → Zone) : (s.modZone z f).refuses = s.refuses := rfl
@[simp] theorem State.modZone_supply (s : State) (z : Nat) (f : Zone → Zone) : (s.modZone z f).supply = s.supply := rfl
@[simp] theorem State.modZone_cdem (s : State) (z : Nat) (f : Zone → Zone) : (s.modZone z f).cdem = s.cdem := rfl
@[simp] theorem State.modZone_tcrit (s : State) (z : Nat) (f : Zone → Zone) : (s.modZone z f).tcrit = s.tcrit := rfl
@[simp] theorem State.modZone_tmax (s : State) (z : Nat) (f : Zone → Zone) : (s.modZone z f).tmax = s.tmax := rfl
@[simp] theorem State.modZone_reprime (s : State) (z : Nat) (f : Zone → Zone) : (s.modZone z f).reprime = s.reprime := rfl
@[simp] theorem State.modZone_devid (s : State) (z : Nat) (f : Zone → Zone) : (s.modZone z f).devid = s.devid := rfl
@[simp] theorem State.modZone_rstCause (s : State) (z : Nat) (f : Zone → Zone) : (s.modZone z f).rstCause = s.rstCause := rfl
@[simp] theorem State.modZone_ce (s : State) (z : Nat) (f : Zone → Zone) : (s.modZone z f).ce = s.ce := rfl
@[simp] theorem State.modZone_ue (s : State) (z : Nat) (f : Zone → Zone) : (s.modZone z f).ue = s.ue := rfl
@[simp] theorem State.modZone_errIdx (s : State) (z : Nat) (f : Zone → Zone) : (s.modZone z f).errIdx = s.errIdx := rfl
@[simp] theorem State.modZone_errLog (s : State) (z : Nat) (f : Zone → Zone) : (s.modZone z f).errLog = s.errLog := rfl
@[simp] theorem State.modZone_stepping (s : State) (z : Nat) (f : Zone → Zone) : (s.modZone z f).stepping = s.stepping := rfl
@[simp] theorem State.modZone_wcore (s : State) (z : Nat) (f : Zone → Zone) : (s.modZone z f).wcore = s.wcore := rfl
@[simp] theorem State.modZone_wrgn (s : State) (z : Nat) (f : Zone → Zone) : (s.modZone z f).wrgn = s.wrgn := rfl
@[simp] theorem State.modZone_secure (s : State) (z : Nat) (f : Zone → Zone) : (s.modZone z f).secure = s.secure := rfl
@[simp] theorem State.modZone_resetting (s : State) (z : Nat) (f : Zone → Zone) : (s.modZone z f).resetting = s.resetting := rfl
@[simp] theorem State.modZone_survivors (s : State) (z : Nat) (f : Zone → Zone) : (s.modZone z f).survivors = s.survivors := rfl
@[simp] theorem State.modZone_mgmt (s : State) (z : Nat) (f : Zone → Zone) : (s.modZone z f).mgmt = s.mgmt := rfl
@[simp] theorem State.modZone_ckpt (s : State) (z : Nat) (f : Zone → Zone) : (s.modZone z f).ckpt = s.ckpt := rfl
@[simp] theorem State.modZone_traces (s : State) (z : Nat) (f : Zone → Zone) : (s.modZone z f).traces = s.traces := rfl
@[simp] theorem State.modZone_bps (s : State) (z : Nat) (f : Zone → Zone) : (s.modZone z f).bps = s.bps := rfl
@[simp] theorem State.modZone_dbgctx (s : State) (z : Nat) (f : Zone → Zone) : (s.modZone z f).dbgctx = s.dbgctx := rfl
@[simp] theorem State.modZone_hostRead (s : State) (z : Nat) (f : Zone → Zone) : (s.modZone z f).hostRead = s.hostRead := rfl
@[simp] theorem State.modZone_hostPoison (s : State) (z : Nat) (f : Zone → Zone) : (s.modZone z f).hostPoison = s.hostPoison := rfl
@[simp] theorem State.modZone_hostUnsupported (s : State) (z : Nat) (f : Zone → Zone) : (s.modZone z f).hostUnsupported = s.hostUnsupported := rfl
@[simp] theorem State.modZone_clock (s : State) (z : Nat) (f : Zone → Zone) : (s.modZone z f).clock = s.clock := rfl

/-! Updates of a block. -/

@[simp] theorem Block.setReg_launch (b : Block) (r : R6) (v : Dword) : (b.setReg r v).launch = b.launch := by unfold Block.setReg; split <;> rfl
@[simp] theorem Block.setReg_ctx (b : Block) (r : R6) (v : Dword) : (b.setReg r v).ctx = b.ctx := by unfold Block.setReg; split <;> rfl
@[simp] theorem Block.setReg_blkid (b : Block) (r : R6) (v : Dword) : (b.setReg r v).blkid = b.blkid := by unfold Block.setReg; split <;> rfl
@[simp] theorem Block.setReg_core (b : Block) (r : R6) (v : Dword) : (b.setReg r v).core = b.core := by unfold Block.setReg; split <;> rfl
@[simp] theorem Block.setReg_slot (b : Block) (r : R6) (v : Dword) : (b.setReg r v).slot = b.slot := by unfold Block.setReg; split <;> rfl
@[simp] theorem Block.setReg_st (b : Block) (r : R6) (v : Dword) : (b.setReg r v).st = b.st := by unfold Block.setReg; split <;> rfl
@[simp] theorem Block.setReg_hdr (b : Block) (r : R6) (v : Dword) : (b.setReg r v).hdr = b.hdr := by unfold Block.setReg; split <;> rfl
@[simp] theorem Block.setReg_pc (b : Block) (r : R6) (v : Dword) : (b.setReg r v).pc = b.pc := by unfold Block.setReg; split <;> rfl
@[simp] theorem Block.setReg_k (b : Block) (r : R6) (v : Dword) : (b.setReg r v).k = b.k := by unfold Block.setReg; split <;> rfl
@[simp] theorem Block.setReg_tsr (b : Block) (r : R6) (v : Dword) : (b.setReg r v).tsr = b.tsr := by unfold Block.setReg; split <;> rfl
@[simp] theorem Block.setReg_qcw (b : Block) (r : R6) (v : Dword) : (b.setReg r v).qcw = b.qcw := by unfold Block.setReg; split <;> rfl
@[simp] theorem Block.setReg_mode (b : Block) (r : R6) (v : Dword) : (b.setReg r v).mode = b.mode := by unfold Block.setReg; split <;> rfl
@[simp] theorem Block.setReg_fflags (b : Block) (r : R6) (v : Dword) : (b.setReg r v).fflags = b.fflags := by unfold Block.setReg; split <;> rfl
@[simp] theorem Block.setReg_nfin (b : Block) (r : R6) (v : Dword) : (b.setReg r v).nfin = b.nfin := by unfold Block.setReg; split <;> rfl
@[simp] theorem Block.setReg_bflag (b : Block) (r : R6) (v : Dword) : (b.setReg r v).bflag = b.bflag := by unfold Block.setReg; split <;> rfl
@[simp] theorem Block.setReg_mgrant (b : Block) (r : R6) (v : Dword) : (b.setReg r v).mgrant = b.mgrant := by unfold Block.setReg; split <;> rfl
@[simp] theorem Block.setReg_fmask (b : Block) (r : R6) (v : Dword) : (b.setReg r v).fmask = b.fmask := by unfold Block.setReg; split <;> rfl
@[simp] theorem Block.setReg_tcause (b : Block) (r : R6) (v : Dword) : (b.setReg r v).tcause = b.tcause := by unfold Block.setReg; split <;> rfl
@[simp] theorem Block.setReg_tpc (b : Block) (r : R6) (v : Dword) : (b.setReg r v).tpc = b.tpc := by unfold Block.setReg; split <;> rfl
@[simp] theorem Block.setReg_ttile (b : Block) (r : R6) (v : Dword) : (b.setReg r v).ttile = b.ttile := by unfold Block.setReg; split <;> rfl
@[simp] theorem Block.setReg_telem (b : Block) (r : R6) (v : Dword) : (b.setReg r v).telem = b.telem := by unfold Block.setReg; split <;> rfl
@[simp] theorem Block.setReg_taddr (b : Block) (r : R6) (v : Dword) : (b.setReg r v).taddr = b.taddr := by unfold Block.setReg; split <;> rfl
@[simp] theorem Block.setReg_tport (b : Block) (r : R6) (v : Dword) : (b.setReg r v).tport = b.tport := by unfold Block.setReg; split <;> rfl
@[simp] theorem Block.setReg_thr (b : Block) (r : R6) (v : Dword) : (b.setReg r v).thr = b.thr := by unfold Block.setReg; split <;> rfl
@[simp] theorem Block.setReg_eptPeriod (b : Block) (r : R6) (v : Dword) : (b.setReg r v).eptPeriod = b.eptPeriod := by unfold Block.setReg; split <;> rfl
@[simp] theorem Block.setReg_eptNs (b : Block) (r : R6) (v : Dword) : (b.setReg r v).eptNs = b.eptNs := by unfold Block.setReg; split <;> rfl
@[simp] theorem Block.setReg_intrap (b : Block) (r : R6) (v : Dword) : (b.setReg r v).intrap = b.intrap := by unfold Block.setReg; split <;> rfl
@[simp] theorem Block.setReg_resumed (b : Block) (r : R6) (v : Dword) : (b.setReg r v).resumed = b.resumed := by unfold Block.setReg; split <;> rfl
@[simp] theorem Block.setReg_nest (b : Block) (r : R6) (v : Dword) : (b.setReg r v).nest = b.nest := by unfold Block.setReg; split <;> rfl
@[simp] theorem Block.setReg_inest (b : Block) (r : R6) (v : Dword) : (b.setReg r v).inest = b.inest := by unfold Block.setReg; split <;> rfl
@[simp] theorem Block.setReg_shared (b : Block) (r : R6) (v : Dword) : (b.setReg r v).shared = b.shared := by unfold Block.setReg; split <;> rfl
@[simp] theorem Block.setReg_acc (b : Block) (r : R6) (v : Dword) : (b.setReg r v).acc = b.acc := by unfold Block.setReg; split <;> rfl
@[simp] theorem Block.setReg_lane (b : Block) (r : R6) (v : Dword) : (b.setReg r v).lane = b.lane := by unfold Block.setReg; split <;> rfl
@[simp] theorem Block.setReg_flights (b : Block) (r : R6) (v : Dword) : (b.setReg r v).flights = b.flights := by unfold Block.setReg; split <;> rfl
@[simp] theorem Block.setReg_recs (b : Block) (r : R6) (v : Dword) : (b.setReg r v).recs = b.recs := by unfold Block.setReg; split <;> rfl
@[simp] theorem Block.setReg_pend (b : Block) (r : R6) (v : Dword) : (b.setReg r v).pend = b.pend := by unfold Block.setReg; split <;> rfl
@[simp] theorem Block.setReg_trapP (b : Block) (r : R6) (v : Dword) : (b.setReg r v).trapP = b.trapP := by unfold Block.setReg; split <;> rfl
@[simp] theorem Block.setReg_arrived (b : Block) (r : R6) (v : Dword) : (b.setReg r v).arrived = b.arrived := by unfold Block.setReg; split <;> rfl
@[simp] theorem Block.setReg_rows (b : Block) (r : R6) (v : Dword) : (b.setReg r v).rows = b.rows := by unfold Block.setReg; split <;> rfl
@[simp] theorem Block.setReg_exitIssued (b : Block) (r : R6) (v : Dword) : (b.setReg r v).exitIssued = b.exitIssued := by unfold Block.setReg; split <;> rfl
@[simp] theorem Block.setReg_stopped (b : Block) (r : R6) (v : Dword) : (b.setReg r v).stopped = b.stopped := by unfold Block.setReg; split <;> rfl
@[simp] theorem Block.setReg_cleatWait (b : Block) (r : R6) (v : Dword) : (b.setReg r v).cleatWait = b.cleatWait := by unfold Block.setReg; split <;> rfl
@[simp] theorem Block.setReg_stopReq (b : Block) (r : R6) (v : Dword) : (b.setReg r v).stopReq = b.stopReq := by unfold Block.setReg; split <;> rfl
@[simp] theorem Block.setReg_promoted (b : Block) (r : R6) (v : Dword) : (b.setReg r v).promoted = b.promoted := by unfold Block.setReg; split <;> rfl
@[simp] theorem Block.setReg_restoring (b : Block) (r : R6) (v : Dword) : (b.setReg r v).restoring = b.restoring := by unfold Block.setReg; split <;> rfl
@[simp] theorem Block.setReg_cluster (b : Block) (r : R6) (v : Dword) : (b.setReg r v).cluster = b.cluster := by unfold Block.setReg; split <;> rfl
@[simp] theorem Block.setReg_gx (b : Block) (r : R6) (v : Dword) : (b.setReg r v).gx = b.gx := by unfold Block.setReg; split <;> rfl
@[simp] theorem Block.setReg_gy (b : Block) (r : R6) (v : Dword) : (b.setReg r v).gy = b.gy := by unfold Block.setReg; split <;> rfl
@[simp] theorem Block.setReg_gz (b : Block) (r : R6) (v : Dword) : (b.setReg r v).gz = b.gz := by unfold Block.setReg; split <;> rfl
@[simp] theorem Block.setReg_detWait (b : Block) (r : R6) (v : Dword) : (b.setReg r v).detWait = b.detWait := by unfold Block.setReg; split <;> rfl
@[simp] theorem Block.setReg_tags (b : Block) (r : R6) (v : Dword) : (b.setReg r v).tags = b.tags := by unfold Block.setReg; split <;> rfl
@[simp] theorem Block.setReg_poisonSh (b : Block) (r : R6) (v : Dword) : (b.setReg r v).poisonSh = b.poisonSh := by unfold Block.setReg; split <;> rfl
@[simp] theorem Block.setReg_poisonAcc (b : Block) (r : R6) (v : Dword) : (b.setReg r v).poisonAcc = b.poisonAcc := by unfold Block.setReg; split <;> rfl
@[simp] theorem Block.setReg_poisonLane (b : Block) (r : R6) (v : Dword) : (b.setReg r v).poisonLane = b.poisonLane := by unfold Block.setReg; split <;> rfl
@[simp] theorem Block.setReg_held (b : Block) (r : R6) (v : Dword) : (b.setReg r v).held = b.held := by unfold Block.setReg; split <;> rfl
@[simp] theorem Block.setReg_fences (b : Block) (r : R6) (v : Dword) : (b.setReg r v).fences = b.fences := by unfold Block.setReg; split <;> rfl
@[simp] theorem Block.setReg_cmds (b : Block) (r : R6) (v : Dword) : (b.setReg r v).cmds = b.cmds := by unfold Block.setReg; split <;> rfl
@[simp] theorem Block.setReg_marks (b : Block) (r : R6) (v : Dword) : (b.setReg r v).marks = b.marks := by unfold Block.setReg; split <;> rfl
@[simp] theorem Block.setReg_shapes (b : Block) (r : R6) (v : Dword) : (b.setReg r v).shapes = b.shapes := by unfold Block.setReg; split <;> rfl
@[simp] theorem Block.setReg_fqs (b : Block) (r : R6) (v : Dword) : (b.setReg r v).fqs = b.fqs := by unfold Block.setReg; split <;> rfl
@[simp] theorem Block.setReg_fqN (b : Block) (r : R6) (v : Dword) : (b.setReg r v).fqN = b.fqN := by unfold Block.setReg; split <;> rfl
@[simp] theorem Block.setReg_bbx (b : Block) (r : R6) (v : Dword) : (b.setReg r v).bbx = b.bbx := by unfold Block.setReg; split <;> rfl
@[simp] theorem Block.setReg_dueTrap (b : Block) (r : R6) (v : Dword) : (b.setReg r v).dueTrap = b.dueTrap := by unfold Block.setReg; split <;> rfl
@[simp] theorem Block.setReg_passed (b : Block) (r : R6) (v : Dword) : (b.setReg r v).passed = b.passed := by unfold Block.setReg; split <;> rfl
@[simp] theorem Block.setReg_dem (b : Block) (r : R6) (v : Dword) : (b.setReg r v).dem = b.dem := by unfold Block.setReg; split <;> rfl
@[simp] theorem Block.setReg_heldBack (b : Block) (r : R6) (v : Dword) : (b.setReg r v).heldBack = b.heldBack := by unfold Block.setReg; split <;> rfl
@[simp] theorem Block.setReg_frame (b : Block) (r : R6) (v : Dword) : (b.setReg r v).frame = b.frame := by unfold Block.setReg; split <;> rfl
@[simp] theorem Block.setReg_reason (b : Block) (r : R6) (v : Dword) : (b.setReg r v).reason = b.reason := by unfold Block.setReg; split <;> rfl
@[simp] theorem Block.setReg_strip (b : Block) (r : R6) (v : Dword) : (b.setReg r v).strip = b.strip := by unfold Block.setReg; split <;> rfl
@[simp] theorem Block.setReg_lastIssue (b : Block) (r : R6) (v : Dword) : (b.setReg r v).lastIssue = b.lastIssue := by unfold Block.setReg; split <;> rfl
@[simp] theorem Block.setReg_readyAt (b : Block) (r : R6) (v : Dword) : (b.setReg r v).readyAt = b.readyAt := by unfold Block.setReg; split <;> rfl
@[simp] theorem Block.setReg_placedAt (b : Block) (r : R6) (v : Dword) : (b.setReg r v).placedAt = b.placedAt := by unfold Block.setReg; split <;> rfl
@[simp] theorem Block.setReg_passedAt (b : Block) (r : R6) (v : Dword) : (b.setReg r v).passedAt = b.passedAt := by unfold Block.setReg; split <;> rfl
@[simp] theorem Block.setReg_seenHalf (b : Block) (r : R6) (v : Dword) : (b.setReg r v).seenHalf = b.seenHalf := by unfold Block.setReg; split <;> rfl
@[simp] theorem Block.setReg_seenDirty (b : Block) (r : R6) (v : Dword) : (b.setReg r v).seenDirty = b.seenDirty := by unfold Block.setReg; split <;> rfl
@[simp] theorem Block.setReg_defWait (b : Block) (r : R6) (v : Dword) : (b.setReg r v).defWait = b.defWait := by unfold Block.setReg; split <;> rfl
@[simp] theorem Block.setReg_walkWait (b : Block) (r : R6) (v : Dword) : (b.setReg r v).walkWait = b.walkWait := by unfold Block.setReg; split <;> rfl

@[simp] theorem Block.setCond_launch (b : Block) (n : Nat) (v : Bool) : (b.setCond n v).launch = b.launch := by unfold Block.setCond; split <;> rfl
@[simp] theorem Block.setCond_ctx (b : Block) (n : Nat) (v : Bool) : (b.setCond n v).ctx = b.ctx := by unfold Block.setCond; split <;> rfl
@[simp] theorem Block.setCond_blkid (b : Block) (n : Nat) (v : Bool) : (b.setCond n v).blkid = b.blkid := by unfold Block.setCond; split <;> rfl
@[simp] theorem Block.setCond_core (b : Block) (n : Nat) (v : Bool) : (b.setCond n v).core = b.core := by unfold Block.setCond; split <;> rfl
@[simp] theorem Block.setCond_slot (b : Block) (n : Nat) (v : Bool) : (b.setCond n v).slot = b.slot := by unfold Block.setCond; split <;> rfl
@[simp] theorem Block.setCond_st (b : Block) (n : Nat) (v : Bool) : (b.setCond n v).st = b.st := by unfold Block.setCond; split <;> rfl
@[simp] theorem Block.setCond_hdr (b : Block) (n : Nat) (v : Bool) : (b.setCond n v).hdr = b.hdr := by unfold Block.setCond; split <;> rfl
@[simp] theorem Block.setCond_pc (b : Block) (n : Nat) (v : Bool) : (b.setCond n v).pc = b.pc := by unfold Block.setCond; split <;> rfl
@[simp] theorem Block.setCond_s (b : Block) (n : Nat) (v : Bool) : (b.setCond n v).s = b.s := by unfold Block.setCond; split <;> rfl
@[simp] theorem Block.setCond_tsr (b : Block) (n : Nat) (v : Bool) : (b.setCond n v).tsr = b.tsr := by unfold Block.setCond; split <;> rfl
@[simp] theorem Block.setCond_qcw (b : Block) (n : Nat) (v : Bool) : (b.setCond n v).qcw = b.qcw := by unfold Block.setCond; split <;> rfl
@[simp] theorem Block.setCond_mode (b : Block) (n : Nat) (v : Bool) : (b.setCond n v).mode = b.mode := by unfold Block.setCond; split <;> rfl
@[simp] theorem Block.setCond_fflags (b : Block) (n : Nat) (v : Bool) : (b.setCond n v).fflags = b.fflags := by unfold Block.setCond; split <;> rfl
@[simp] theorem Block.setCond_nfin (b : Block) (n : Nat) (v : Bool) : (b.setCond n v).nfin = b.nfin := by unfold Block.setCond; split <;> rfl
@[simp] theorem Block.setCond_bflag (b : Block) (n : Nat) (v : Bool) : (b.setCond n v).bflag = b.bflag := by unfold Block.setCond; split <;> rfl
@[simp] theorem Block.setCond_mgrant (b : Block) (n : Nat) (v : Bool) : (b.setCond n v).mgrant = b.mgrant := by unfold Block.setCond; split <;> rfl
@[simp] theorem Block.setCond_fmask (b : Block) (n : Nat) (v : Bool) : (b.setCond n v).fmask = b.fmask := by unfold Block.setCond; split <;> rfl
@[simp] theorem Block.setCond_tcause (b : Block) (n : Nat) (v : Bool) : (b.setCond n v).tcause = b.tcause := by unfold Block.setCond; split <;> rfl
@[simp] theorem Block.setCond_tpc (b : Block) (n : Nat) (v : Bool) : (b.setCond n v).tpc = b.tpc := by unfold Block.setCond; split <;> rfl
@[simp] theorem Block.setCond_ttile (b : Block) (n : Nat) (v : Bool) : (b.setCond n v).ttile = b.ttile := by unfold Block.setCond; split <;> rfl
@[simp] theorem Block.setCond_telem (b : Block) (n : Nat) (v : Bool) : (b.setCond n v).telem = b.telem := by unfold Block.setCond; split <;> rfl
@[simp] theorem Block.setCond_taddr (b : Block) (n : Nat) (v : Bool) : (b.setCond n v).taddr = b.taddr := by unfold Block.setCond; split <;> rfl
@[simp] theorem Block.setCond_tport (b : Block) (n : Nat) (v : Bool) : (b.setCond n v).tport = b.tport := by unfold Block.setCond; split <;> rfl
@[simp] theorem Block.setCond_thr (b : Block) (n : Nat) (v : Bool) : (b.setCond n v).thr = b.thr := by unfold Block.setCond; split <;> rfl
@[simp] theorem Block.setCond_eptPeriod (b : Block) (n : Nat) (v : Bool) : (b.setCond n v).eptPeriod = b.eptPeriod := by unfold Block.setCond; split <;> rfl
@[simp] theorem Block.setCond_eptNs (b : Block) (n : Nat) (v : Bool) : (b.setCond n v).eptNs = b.eptNs := by unfold Block.setCond; split <;> rfl
@[simp] theorem Block.setCond_intrap (b : Block) (n : Nat) (v : Bool) : (b.setCond n v).intrap = b.intrap := by unfold Block.setCond; split <;> rfl
@[simp] theorem Block.setCond_resumed (b : Block) (n : Nat) (v : Bool) : (b.setCond n v).resumed = b.resumed := by unfold Block.setCond; split <;> rfl
@[simp] theorem Block.setCond_nest (b : Block) (n : Nat) (v : Bool) : (b.setCond n v).nest = b.nest := by unfold Block.setCond; split <;> rfl
@[simp] theorem Block.setCond_inest (b : Block) (n : Nat) (v : Bool) : (b.setCond n v).inest = b.inest := by unfold Block.setCond; split <;> rfl
@[simp] theorem Block.setCond_shared (b : Block) (n : Nat) (v : Bool) : (b.setCond n v).shared = b.shared := by unfold Block.setCond; split <;> rfl
@[simp] theorem Block.setCond_acc (b : Block) (n : Nat) (v : Bool) : (b.setCond n v).acc = b.acc := by unfold Block.setCond; split <;> rfl
@[simp] theorem Block.setCond_lane (b : Block) (n : Nat) (v : Bool) : (b.setCond n v).lane = b.lane := by unfold Block.setCond; split <;> rfl
@[simp] theorem Block.setCond_flights (b : Block) (n : Nat) (v : Bool) : (b.setCond n v).flights = b.flights := by unfold Block.setCond; split <;> rfl
@[simp] theorem Block.setCond_recs (b : Block) (n : Nat) (v : Bool) : (b.setCond n v).recs = b.recs := by unfold Block.setCond; split <;> rfl
@[simp] theorem Block.setCond_pend (b : Block) (n : Nat) (v : Bool) : (b.setCond n v).pend = b.pend := by unfold Block.setCond; split <;> rfl
@[simp] theorem Block.setCond_trapP (b : Block) (n : Nat) (v : Bool) : (b.setCond n v).trapP = b.trapP := by unfold Block.setCond; split <;> rfl
@[simp] theorem Block.setCond_arrived (b : Block) (n : Nat) (v : Bool) : (b.setCond n v).arrived = b.arrived := by unfold Block.setCond; split <;> rfl
@[simp] theorem Block.setCond_rows (b : Block) (n : Nat) (v : Bool) : (b.setCond n v).rows = b.rows := by unfold Block.setCond; split <;> rfl
@[simp] theorem Block.setCond_exitIssued (b : Block) (n : Nat) (v : Bool) : (b.setCond n v).exitIssued = b.exitIssued := by unfold Block.setCond; split <;> rfl
@[simp] theorem Block.setCond_stopped (b : Block) (n : Nat) (v : Bool) : (b.setCond n v).stopped = b.stopped := by unfold Block.setCond; split <;> rfl
@[simp] theorem Block.setCond_cleatWait (b : Block) (n : Nat) (v : Bool) : (b.setCond n v).cleatWait = b.cleatWait := by unfold Block.setCond; split <;> rfl
@[simp] theorem Block.setCond_stopReq (b : Block) (n : Nat) (v : Bool) : (b.setCond n v).stopReq = b.stopReq := by unfold Block.setCond; split <;> rfl
@[simp] theorem Block.setCond_promoted (b : Block) (n : Nat) (v : Bool) : (b.setCond n v).promoted = b.promoted := by unfold Block.setCond; split <;> rfl
@[simp] theorem Block.setCond_restoring (b : Block) (n : Nat) (v : Bool) : (b.setCond n v).restoring = b.restoring := by unfold Block.setCond; split <;> rfl
@[simp] theorem Block.setCond_cluster (b : Block) (n : Nat) (v : Bool) : (b.setCond n v).cluster = b.cluster := by unfold Block.setCond; split <;> rfl
@[simp] theorem Block.setCond_gx (b : Block) (n : Nat) (v : Bool) : (b.setCond n v).gx = b.gx := by unfold Block.setCond; split <;> rfl
@[simp] theorem Block.setCond_gy (b : Block) (n : Nat) (v : Bool) : (b.setCond n v).gy = b.gy := by unfold Block.setCond; split <;> rfl
@[simp] theorem Block.setCond_gz (b : Block) (n : Nat) (v : Bool) : (b.setCond n v).gz = b.gz := by unfold Block.setCond; split <;> rfl
@[simp] theorem Block.setCond_detWait (b : Block) (n : Nat) (v : Bool) : (b.setCond n v).detWait = b.detWait := by unfold Block.setCond; split <;> rfl
@[simp] theorem Block.setCond_tags (b : Block) (n : Nat) (v : Bool) : (b.setCond n v).tags = b.tags := by unfold Block.setCond; split <;> rfl
@[simp] theorem Block.setCond_poisonSh (b : Block) (n : Nat) (v : Bool) : (b.setCond n v).poisonSh = b.poisonSh := by unfold Block.setCond; split <;> rfl
@[simp] theorem Block.setCond_poisonAcc (b : Block) (n : Nat) (v : Bool) : (b.setCond n v).poisonAcc = b.poisonAcc := by unfold Block.setCond; split <;> rfl
@[simp] theorem Block.setCond_poisonLane (b : Block) (n : Nat) (v : Bool) : (b.setCond n v).poisonLane = b.poisonLane := by unfold Block.setCond; split <;> rfl
@[simp] theorem Block.setCond_held (b : Block) (n : Nat) (v : Bool) : (b.setCond n v).held = b.held := by unfold Block.setCond; split <;> rfl
@[simp] theorem Block.setCond_fences (b : Block) (n : Nat) (v : Bool) : (b.setCond n v).fences = b.fences := by unfold Block.setCond; split <;> rfl
@[simp] theorem Block.setCond_cmds (b : Block) (n : Nat) (v : Bool) : (b.setCond n v).cmds = b.cmds := by unfold Block.setCond; split <;> rfl
@[simp] theorem Block.setCond_marks (b : Block) (n : Nat) (v : Bool) : (b.setCond n v).marks = b.marks := by unfold Block.setCond; split <;> rfl
@[simp] theorem Block.setCond_shapes (b : Block) (n : Nat) (v : Bool) : (b.setCond n v).shapes = b.shapes := by unfold Block.setCond; split <;> rfl
@[simp] theorem Block.setCond_fqs (b : Block) (n : Nat) (v : Bool) : (b.setCond n v).fqs = b.fqs := by unfold Block.setCond; split <;> rfl
@[simp] theorem Block.setCond_fqN (b : Block) (n : Nat) (v : Bool) : (b.setCond n v).fqN = b.fqN := by unfold Block.setCond; split <;> rfl
@[simp] theorem Block.setCond_bbx (b : Block) (n : Nat) (v : Bool) : (b.setCond n v).bbx = b.bbx := by unfold Block.setCond; split <;> rfl
@[simp] theorem Block.setCond_dueTrap (b : Block) (n : Nat) (v : Bool) : (b.setCond n v).dueTrap = b.dueTrap := by unfold Block.setCond; split <;> rfl
@[simp] theorem Block.setCond_passed (b : Block) (n : Nat) (v : Bool) : (b.setCond n v).passed = b.passed := by unfold Block.setCond; split <;> rfl
@[simp] theorem Block.setCond_dem (b : Block) (n : Nat) (v : Bool) : (b.setCond n v).dem = b.dem := by unfold Block.setCond; split <;> rfl
@[simp] theorem Block.setCond_heldBack (b : Block) (n : Nat) (v : Bool) : (b.setCond n v).heldBack = b.heldBack := by unfold Block.setCond; split <;> rfl
@[simp] theorem Block.setCond_frame (b : Block) (n : Nat) (v : Bool) : (b.setCond n v).frame = b.frame := by unfold Block.setCond; split <;> rfl
@[simp] theorem Block.setCond_reason (b : Block) (n : Nat) (v : Bool) : (b.setCond n v).reason = b.reason := by unfold Block.setCond; split <;> rfl
@[simp] theorem Block.setCond_strip (b : Block) (n : Nat) (v : Bool) : (b.setCond n v).strip = b.strip := by unfold Block.setCond; split <;> rfl
@[simp] theorem Block.setCond_lastIssue (b : Block) (n : Nat) (v : Bool) : (b.setCond n v).lastIssue = b.lastIssue := by unfold Block.setCond; split <;> rfl
@[simp] theorem Block.setCond_readyAt (b : Block) (n : Nat) (v : Bool) : (b.setCond n v).readyAt = b.readyAt := by unfold Block.setCond; split <;> rfl
@[simp] theorem Block.setCond_placedAt (b : Block) (n : Nat) (v : Bool) : (b.setCond n v).placedAt = b.placedAt := by unfold Block.setCond; split <;> rfl
@[simp] theorem Block.setCond_passedAt (b : Block) (n : Nat) (v : Bool) : (b.setCond n v).passedAt = b.passedAt := by unfold Block.setCond; split <;> rfl
@[simp] theorem Block.setCond_seenHalf (b : Block) (n : Nat) (v : Bool) : (b.setCond n v).seenHalf = b.seenHalf := by unfold Block.setCond; split <;> rfl
@[simp] theorem Block.setCond_seenDirty (b : Block) (n : Nat) (v : Bool) : (b.setCond n v).seenDirty = b.seenDirty := by unfold Block.setCond; split <;> rfl
@[simp] theorem Block.setCond_defWait (b : Block) (n : Nat) (v : Bool) : (b.setCond n v).defWait = b.defWait := by unfold Block.setCond; split <;> rfl
@[simp] theorem Block.setCond_walkWait (b : Block) (n : Nat) (v : Bool) : (b.setCond n v).walkWait = b.walkWait := by unfold Block.setCond; split <;> rfl

@[simp] theorem Block.mergeFlags_launch (b : Block) (f : Nat) : (b.mergeFlags f).launch = b.launch := rfl
@[simp] theorem Block.mergeFlags_ctx (b : Block) (f : Nat) : (b.mergeFlags f).ctx = b.ctx := rfl
@[simp] theorem Block.mergeFlags_blkid (b : Block) (f : Nat) : (b.mergeFlags f).blkid = b.blkid := rfl
@[simp] theorem Block.mergeFlags_core (b : Block) (f : Nat) : (b.mergeFlags f).core = b.core := rfl
@[simp] theorem Block.mergeFlags_slot (b : Block) (f : Nat) : (b.mergeFlags f).slot = b.slot := rfl
@[simp] theorem Block.mergeFlags_st (b : Block) (f : Nat) : (b.mergeFlags f).st = b.st := rfl
@[simp] theorem Block.mergeFlags_hdr (b : Block) (f : Nat) : (b.mergeFlags f).hdr = b.hdr := rfl
@[simp] theorem Block.mergeFlags_pc (b : Block) (f : Nat) : (b.mergeFlags f).pc = b.pc := rfl
@[simp] theorem Block.mergeFlags_s (b : Block) (f : Nat) : (b.mergeFlags f).s = b.s := rfl
@[simp] theorem Block.mergeFlags_k (b : Block) (f : Nat) : (b.mergeFlags f).k = b.k := rfl
@[simp] theorem Block.mergeFlags_tsr (b : Block) (f : Nat) : (b.mergeFlags f).tsr = b.tsr := rfl
@[simp] theorem Block.mergeFlags_qcw (b : Block) (f : Nat) : (b.mergeFlags f).qcw = b.qcw := rfl
@[simp] theorem Block.mergeFlags_mode (b : Block) (f : Nat) : (b.mergeFlags f).mode = b.mode := rfl
@[simp] theorem Block.mergeFlags_nfin (b : Block) (f : Nat) : (b.mergeFlags f).nfin = b.nfin := rfl
@[simp] theorem Block.mergeFlags_bflag (b : Block) (f : Nat) : (b.mergeFlags f).bflag = b.bflag := rfl
@[simp] theorem Block.mergeFlags_mgrant (b : Block) (f : Nat) : (b.mergeFlags f).mgrant = b.mgrant := rfl
@[simp] theorem Block.mergeFlags_fmask (b : Block) (f : Nat) : (b.mergeFlags f).fmask = b.fmask := rfl
@[simp] theorem Block.mergeFlags_tcause (b : Block) (f : Nat) : (b.mergeFlags f).tcause = b.tcause := rfl
@[simp] theorem Block.mergeFlags_tpc (b : Block) (f : Nat) : (b.mergeFlags f).tpc = b.tpc := rfl
@[simp] theorem Block.mergeFlags_ttile (b : Block) (f : Nat) : (b.mergeFlags f).ttile = b.ttile := rfl
@[simp] theorem Block.mergeFlags_telem (b : Block) (f : Nat) : (b.mergeFlags f).telem = b.telem := rfl
@[simp] theorem Block.mergeFlags_taddr (b : Block) (f : Nat) : (b.mergeFlags f).taddr = b.taddr := rfl
@[simp] theorem Block.mergeFlags_tport (b : Block) (f : Nat) : (b.mergeFlags f).tport = b.tport := rfl
@[simp] theorem Block.mergeFlags_thr (b : Block) (f : Nat) : (b.mergeFlags f).thr = b.thr := rfl
@[simp] theorem Block.mergeFlags_eptPeriod (b : Block) (f : Nat) : (b.mergeFlags f).eptPeriod = b.eptPeriod := rfl
@[simp] theorem Block.mergeFlags_eptNs (b : Block) (f : Nat) : (b.mergeFlags f).eptNs = b.eptNs := rfl
@[simp] theorem Block.mergeFlags_intrap (b : Block) (f : Nat) : (b.mergeFlags f).intrap = b.intrap := rfl
@[simp] theorem Block.mergeFlags_resumed (b : Block) (f : Nat) : (b.mergeFlags f).resumed = b.resumed := rfl
@[simp] theorem Block.mergeFlags_nest (b : Block) (f : Nat) : (b.mergeFlags f).nest = b.nest := rfl
@[simp] theorem Block.mergeFlags_inest (b : Block) (f : Nat) : (b.mergeFlags f).inest = b.inest := rfl
@[simp] theorem Block.mergeFlags_shared (b : Block) (f : Nat) : (b.mergeFlags f).shared = b.shared := rfl
@[simp] theorem Block.mergeFlags_acc (b : Block) (f : Nat) : (b.mergeFlags f).acc = b.acc := rfl
@[simp] theorem Block.mergeFlags_lane (b : Block) (f : Nat) : (b.mergeFlags f).lane = b.lane := rfl
@[simp] theorem Block.mergeFlags_flights (b : Block) (f : Nat) : (b.mergeFlags f).flights = b.flights := rfl
@[simp] theorem Block.mergeFlags_recs (b : Block) (f : Nat) : (b.mergeFlags f).recs = b.recs := rfl
@[simp] theorem Block.mergeFlags_pend (b : Block) (f : Nat) : (b.mergeFlags f).pend = b.pend := rfl
@[simp] theorem Block.mergeFlags_trapP (b : Block) (f : Nat) : (b.mergeFlags f).trapP = b.trapP := rfl
@[simp] theorem Block.mergeFlags_arrived (b : Block) (f : Nat) : (b.mergeFlags f).arrived = b.arrived := rfl
@[simp] theorem Block.mergeFlags_rows (b : Block) (f : Nat) : (b.mergeFlags f).rows = b.rows := rfl
@[simp] theorem Block.mergeFlags_exitIssued (b : Block) (f : Nat) : (b.mergeFlags f).exitIssued = b.exitIssued := rfl
@[simp] theorem Block.mergeFlags_stopped (b : Block) (f : Nat) : (b.mergeFlags f).stopped = b.stopped := rfl
@[simp] theorem Block.mergeFlags_cleatWait (b : Block) (f : Nat) : (b.mergeFlags f).cleatWait = b.cleatWait := rfl
@[simp] theorem Block.mergeFlags_stopReq (b : Block) (f : Nat) : (b.mergeFlags f).stopReq = b.stopReq := rfl
@[simp] theorem Block.mergeFlags_promoted (b : Block) (f : Nat) : (b.mergeFlags f).promoted = b.promoted := rfl
@[simp] theorem Block.mergeFlags_restoring (b : Block) (f : Nat) : (b.mergeFlags f).restoring = b.restoring := rfl
@[simp] theorem Block.mergeFlags_cluster (b : Block) (f : Nat) : (b.mergeFlags f).cluster = b.cluster := rfl
@[simp] theorem Block.mergeFlags_gx (b : Block) (f : Nat) : (b.mergeFlags f).gx = b.gx := rfl
@[simp] theorem Block.mergeFlags_gy (b : Block) (f : Nat) : (b.mergeFlags f).gy = b.gy := rfl
@[simp] theorem Block.mergeFlags_gz (b : Block) (f : Nat) : (b.mergeFlags f).gz = b.gz := rfl
@[simp] theorem Block.mergeFlags_detWait (b : Block) (f : Nat) : (b.mergeFlags f).detWait = b.detWait := rfl
@[simp] theorem Block.mergeFlags_tags (b : Block) (f : Nat) : (b.mergeFlags f).tags = b.tags := rfl
@[simp] theorem Block.mergeFlags_poisonSh (b : Block) (f : Nat) : (b.mergeFlags f).poisonSh = b.poisonSh := rfl
@[simp] theorem Block.mergeFlags_poisonAcc (b : Block) (f : Nat) : (b.mergeFlags f).poisonAcc = b.poisonAcc := rfl
@[simp] theorem Block.mergeFlags_poisonLane (b : Block) (f : Nat) : (b.mergeFlags f).poisonLane = b.poisonLane := rfl
@[simp] theorem Block.mergeFlags_held (b : Block) (f : Nat) : (b.mergeFlags f).held = b.held := rfl
@[simp] theorem Block.mergeFlags_fences (b : Block) (f : Nat) : (b.mergeFlags f).fences = b.fences := rfl
@[simp] theorem Block.mergeFlags_cmds (b : Block) (f : Nat) : (b.mergeFlags f).cmds = b.cmds := rfl
@[simp] theorem Block.mergeFlags_marks (b : Block) (f : Nat) : (b.mergeFlags f).marks = b.marks := rfl
@[simp] theorem Block.mergeFlags_shapes (b : Block) (f : Nat) : (b.mergeFlags f).shapes = b.shapes := rfl
@[simp] theorem Block.mergeFlags_fqs (b : Block) (f : Nat) : (b.mergeFlags f).fqs = b.fqs := rfl
@[simp] theorem Block.mergeFlags_fqN (b : Block) (f : Nat) : (b.mergeFlags f).fqN = b.fqN := rfl
@[simp] theorem Block.mergeFlags_bbx (b : Block) (f : Nat) : (b.mergeFlags f).bbx = b.bbx := rfl
@[simp] theorem Block.mergeFlags_dueTrap (b : Block) (f : Nat) : (b.mergeFlags f).dueTrap = b.dueTrap := rfl
@[simp] theorem Block.mergeFlags_passed (b : Block) (f : Nat) : (b.mergeFlags f).passed = b.passed := rfl
@[simp] theorem Block.mergeFlags_dem (b : Block) (f : Nat) : (b.mergeFlags f).dem = b.dem := rfl
@[simp] theorem Block.mergeFlags_heldBack (b : Block) (f : Nat) : (b.mergeFlags f).heldBack = b.heldBack := rfl
@[simp] theorem Block.mergeFlags_frame (b : Block) (f : Nat) : (b.mergeFlags f).frame = b.frame := rfl
@[simp] theorem Block.mergeFlags_reason (b : Block) (f : Nat) : (b.mergeFlags f).reason = b.reason := rfl
@[simp] theorem Block.mergeFlags_strip (b : Block) (f : Nat) : (b.mergeFlags f).strip = b.strip := rfl
@[simp] theorem Block.mergeFlags_lastIssue (b : Block) (f : Nat) : (b.mergeFlags f).lastIssue = b.lastIssue := rfl
@[simp] theorem Block.mergeFlags_readyAt (b : Block) (f : Nat) : (b.mergeFlags f).readyAt = b.readyAt := rfl
@[simp] theorem Block.mergeFlags_placedAt (b : Block) (f : Nat) : (b.mergeFlags f).placedAt = b.placedAt := rfl
@[simp] theorem Block.mergeFlags_passedAt (b : Block) (f : Nat) : (b.mergeFlags f).passedAt = b.passedAt := rfl
@[simp] theorem Block.mergeFlags_seenHalf (b : Block) (f : Nat) : (b.mergeFlags f).seenHalf = b.seenHalf := rfl
@[simp] theorem Block.mergeFlags_seenDirty (b : Block) (f : Nat) : (b.mergeFlags f).seenDirty = b.seenDirty := rfl
@[simp] theorem Block.mergeFlags_defWait (b : Block) (f : Nat) : (b.mergeFlags f).defWait = b.defWait := rfl
@[simp] theorem Block.mergeFlags_walkWait (b : Block) (f : Nat) : (b.mergeFlags f).walkWait = b.walkWait := rfl

@[simp] theorem Block.setTsr_launch (b : Block) (n : Nat) (t : Tsr) : (b.setTsr n t).launch = b.launch := rfl
@[simp] theorem Block.setTsr_ctx (b : Block) (n : Nat) (t : Tsr) : (b.setTsr n t).ctx = b.ctx := rfl
@[simp] theorem Block.setTsr_blkid (b : Block) (n : Nat) (t : Tsr) : (b.setTsr n t).blkid = b.blkid := rfl
@[simp] theorem Block.setTsr_core (b : Block) (n : Nat) (t : Tsr) : (b.setTsr n t).core = b.core := rfl
@[simp] theorem Block.setTsr_slot (b : Block) (n : Nat) (t : Tsr) : (b.setTsr n t).slot = b.slot := rfl
@[simp] theorem Block.setTsr_st (b : Block) (n : Nat) (t : Tsr) : (b.setTsr n t).st = b.st := rfl
@[simp] theorem Block.setTsr_hdr (b : Block) (n : Nat) (t : Tsr) : (b.setTsr n t).hdr = b.hdr := rfl
@[simp] theorem Block.setTsr_pc (b : Block) (n : Nat) (t : Tsr) : (b.setTsr n t).pc = b.pc := rfl
@[simp] theorem Block.setTsr_s (b : Block) (n : Nat) (t : Tsr) : (b.setTsr n t).s = b.s := rfl
@[simp] theorem Block.setTsr_k (b : Block) (n : Nat) (t : Tsr) : (b.setTsr n t).k = b.k := rfl
@[simp] theorem Block.setTsr_qcw (b : Block) (n : Nat) (t : Tsr) : (b.setTsr n t).qcw = b.qcw := rfl
@[simp] theorem Block.setTsr_mode (b : Block) (n : Nat) (t : Tsr) : (b.setTsr n t).mode = b.mode := rfl
@[simp] theorem Block.setTsr_fflags (b : Block) (n : Nat) (t : Tsr) : (b.setTsr n t).fflags = b.fflags := rfl
@[simp] theorem Block.setTsr_nfin (b : Block) (n : Nat) (t : Tsr) : (b.setTsr n t).nfin = b.nfin := rfl
@[simp] theorem Block.setTsr_bflag (b : Block) (n : Nat) (t : Tsr) : (b.setTsr n t).bflag = b.bflag := rfl
@[simp] theorem Block.setTsr_mgrant (b : Block) (n : Nat) (t : Tsr) : (b.setTsr n t).mgrant = b.mgrant := rfl
@[simp] theorem Block.setTsr_fmask (b : Block) (n : Nat) (t : Tsr) : (b.setTsr n t).fmask = b.fmask := rfl
@[simp] theorem Block.setTsr_tcause (b : Block) (n : Nat) (t : Tsr) : (b.setTsr n t).tcause = b.tcause := rfl
@[simp] theorem Block.setTsr_tpc (b : Block) (n : Nat) (t : Tsr) : (b.setTsr n t).tpc = b.tpc := rfl
@[simp] theorem Block.setTsr_ttile (b : Block) (n : Nat) (t : Tsr) : (b.setTsr n t).ttile = b.ttile := rfl
@[simp] theorem Block.setTsr_telem (b : Block) (n : Nat) (t : Tsr) : (b.setTsr n t).telem = b.telem := rfl
@[simp] theorem Block.setTsr_taddr (b : Block) (n : Nat) (t : Tsr) : (b.setTsr n t).taddr = b.taddr := rfl
@[simp] theorem Block.setTsr_tport (b : Block) (n : Nat) (t : Tsr) : (b.setTsr n t).tport = b.tport := rfl
@[simp] theorem Block.setTsr_thr (b : Block) (n : Nat) (t : Tsr) : (b.setTsr n t).thr = b.thr := rfl
@[simp] theorem Block.setTsr_eptPeriod (b : Block) (n : Nat) (t : Tsr) : (b.setTsr n t).eptPeriod = b.eptPeriod := rfl
@[simp] theorem Block.setTsr_eptNs (b : Block) (n : Nat) (t : Tsr) : (b.setTsr n t).eptNs = b.eptNs := rfl
@[simp] theorem Block.setTsr_intrap (b : Block) (n : Nat) (t : Tsr) : (b.setTsr n t).intrap = b.intrap := rfl
@[simp] theorem Block.setTsr_resumed (b : Block) (n : Nat) (t : Tsr) : (b.setTsr n t).resumed = b.resumed := rfl
@[simp] theorem Block.setTsr_nest (b : Block) (n : Nat) (t : Tsr) : (b.setTsr n t).nest = b.nest := rfl
@[simp] theorem Block.setTsr_inest (b : Block) (n : Nat) (t : Tsr) : (b.setTsr n t).inest = b.inest := rfl
@[simp] theorem Block.setTsr_shared (b : Block) (n : Nat) (t : Tsr) : (b.setTsr n t).shared = b.shared := rfl
@[simp] theorem Block.setTsr_acc (b : Block) (n : Nat) (t : Tsr) : (b.setTsr n t).acc = b.acc := rfl
@[simp] theorem Block.setTsr_lane (b : Block) (n : Nat) (t : Tsr) : (b.setTsr n t).lane = b.lane := rfl
@[simp] theorem Block.setTsr_flights (b : Block) (n : Nat) (t : Tsr) : (b.setTsr n t).flights = b.flights := rfl
@[simp] theorem Block.setTsr_recs (b : Block) (n : Nat) (t : Tsr) : (b.setTsr n t).recs = b.recs := rfl
@[simp] theorem Block.setTsr_pend (b : Block) (n : Nat) (t : Tsr) : (b.setTsr n t).pend = b.pend := rfl
@[simp] theorem Block.setTsr_trapP (b : Block) (n : Nat) (t : Tsr) : (b.setTsr n t).trapP = b.trapP := rfl
@[simp] theorem Block.setTsr_arrived (b : Block) (n : Nat) (t : Tsr) : (b.setTsr n t).arrived = b.arrived := rfl
@[simp] theorem Block.setTsr_rows (b : Block) (n : Nat) (t : Tsr) : (b.setTsr n t).rows = b.rows := rfl
@[simp] theorem Block.setTsr_exitIssued (b : Block) (n : Nat) (t : Tsr) : (b.setTsr n t).exitIssued = b.exitIssued := rfl
@[simp] theorem Block.setTsr_stopped (b : Block) (n : Nat) (t : Tsr) : (b.setTsr n t).stopped = b.stopped := rfl
@[simp] theorem Block.setTsr_cleatWait (b : Block) (n : Nat) (t : Tsr) : (b.setTsr n t).cleatWait = b.cleatWait := rfl
@[simp] theorem Block.setTsr_stopReq (b : Block) (n : Nat) (t : Tsr) : (b.setTsr n t).stopReq = b.stopReq := rfl
@[simp] theorem Block.setTsr_promoted (b : Block) (n : Nat) (t : Tsr) : (b.setTsr n t).promoted = b.promoted := rfl
@[simp] theorem Block.setTsr_restoring (b : Block) (n : Nat) (t : Tsr) : (b.setTsr n t).restoring = b.restoring := rfl
@[simp] theorem Block.setTsr_cluster (b : Block) (n : Nat) (t : Tsr) : (b.setTsr n t).cluster = b.cluster := rfl
@[simp] theorem Block.setTsr_gx (b : Block) (n : Nat) (t : Tsr) : (b.setTsr n t).gx = b.gx := rfl
@[simp] theorem Block.setTsr_gy (b : Block) (n : Nat) (t : Tsr) : (b.setTsr n t).gy = b.gy := rfl
@[simp] theorem Block.setTsr_gz (b : Block) (n : Nat) (t : Tsr) : (b.setTsr n t).gz = b.gz := rfl
@[simp] theorem Block.setTsr_detWait (b : Block) (n : Nat) (t : Tsr) : (b.setTsr n t).detWait = b.detWait := rfl
@[simp] theorem Block.setTsr_tags (b : Block) (n : Nat) (t : Tsr) : (b.setTsr n t).tags = b.tags := rfl
@[simp] theorem Block.setTsr_poisonSh (b : Block) (n : Nat) (t : Tsr) : (b.setTsr n t).poisonSh = b.poisonSh := rfl
@[simp] theorem Block.setTsr_poisonAcc (b : Block) (n : Nat) (t : Tsr) : (b.setTsr n t).poisonAcc = b.poisonAcc := rfl
@[simp] theorem Block.setTsr_poisonLane (b : Block) (n : Nat) (t : Tsr) : (b.setTsr n t).poisonLane = b.poisonLane := rfl
@[simp] theorem Block.setTsr_held (b : Block) (n : Nat) (t : Tsr) : (b.setTsr n t).held = b.held := rfl
@[simp] theorem Block.setTsr_fences (b : Block) (n : Nat) (t : Tsr) : (b.setTsr n t).fences = b.fences := rfl
@[simp] theorem Block.setTsr_cmds (b : Block) (n : Nat) (t : Tsr) : (b.setTsr n t).cmds = b.cmds := rfl
@[simp] theorem Block.setTsr_marks (b : Block) (n : Nat) (t : Tsr) : (b.setTsr n t).marks = b.marks := rfl
@[simp] theorem Block.setTsr_shapes (b : Block) (n : Nat) (t : Tsr) : (b.setTsr n t).shapes = b.shapes := rfl
@[simp] theorem Block.setTsr_fqs (b : Block) (n : Nat) (t : Tsr) : (b.setTsr n t).fqs = b.fqs := rfl
@[simp] theorem Block.setTsr_fqN (b : Block) (n : Nat) (t : Tsr) : (b.setTsr n t).fqN = b.fqN := rfl
@[simp] theorem Block.setTsr_bbx (b : Block) (n : Nat) (t : Tsr) : (b.setTsr n t).bbx = b.bbx := rfl
@[simp] theorem Block.setTsr_dueTrap (b : Block) (n : Nat) (t : Tsr) : (b.setTsr n t).dueTrap = b.dueTrap := rfl
@[simp] theorem Block.setTsr_passed (b : Block) (n : Nat) (t : Tsr) : (b.setTsr n t).passed = b.passed := rfl
@[simp] theorem Block.setTsr_dem (b : Block) (n : Nat) (t : Tsr) : (b.setTsr n t).dem = b.dem := rfl
@[simp] theorem Block.setTsr_heldBack (b : Block) (n : Nat) (t : Tsr) : (b.setTsr n t).heldBack = b.heldBack := rfl
@[simp] theorem Block.setTsr_frame (b : Block) (n : Nat) (t : Tsr) : (b.setTsr n t).frame = b.frame := rfl
@[simp] theorem Block.setTsr_reason (b : Block) (n : Nat) (t : Tsr) : (b.setTsr n t).reason = b.reason := rfl
@[simp] theorem Block.setTsr_strip (b : Block) (n : Nat) (t : Tsr) : (b.setTsr n t).strip = b.strip := rfl
@[simp] theorem Block.setTsr_lastIssue (b : Block) (n : Nat) (t : Tsr) : (b.setTsr n t).lastIssue = b.lastIssue := rfl
@[simp] theorem Block.setTsr_readyAt (b : Block) (n : Nat) (t : Tsr) : (b.setTsr n t).readyAt = b.readyAt := rfl
@[simp] theorem Block.setTsr_placedAt (b : Block) (n : Nat) (t : Tsr) : (b.setTsr n t).placedAt = b.placedAt := rfl
@[simp] theorem Block.setTsr_passedAt (b : Block) (n : Nat) (t : Tsr) : (b.setTsr n t).passedAt = b.passedAt := rfl
@[simp] theorem Block.setTsr_seenHalf (b : Block) (n : Nat) (t : Tsr) : (b.setTsr n t).seenHalf = b.seenHalf := rfl
@[simp] theorem Block.setTsr_seenDirty (b : Block) (n : Nat) (t : Tsr) : (b.setTsr n t).seenDirty = b.seenDirty := rfl
@[simp] theorem Block.setTsr_defWait (b : Block) (n : Nat) (t : Tsr) : (b.setTsr n t).defWait = b.defWait := rfl
@[simp] theorem Block.setTsr_walkWait (b : Block) (n : Nat) (t : Tsr) : (b.setTsr n t).walkWait = b.walkWait := rfl

@[simp] theorem Block.setQcw_launch (b : Block) (n : Nat) (q : Qcw) : (b.setQcw n q).launch = b.launch := rfl
@[simp] theorem Block.setQcw_ctx (b : Block) (n : Nat) (q : Qcw) : (b.setQcw n q).ctx = b.ctx := rfl
@[simp] theorem Block.setQcw_blkid (b : Block) (n : Nat) (q : Qcw) : (b.setQcw n q).blkid = b.blkid := rfl
@[simp] theorem Block.setQcw_core (b : Block) (n : Nat) (q : Qcw) : (b.setQcw n q).core = b.core := rfl
@[simp] theorem Block.setQcw_slot (b : Block) (n : Nat) (q : Qcw) : (b.setQcw n q).slot = b.slot := rfl
@[simp] theorem Block.setQcw_st (b : Block) (n : Nat) (q : Qcw) : (b.setQcw n q).st = b.st := rfl
@[simp] theorem Block.setQcw_hdr (b : Block) (n : Nat) (q : Qcw) : (b.setQcw n q).hdr = b.hdr := rfl
@[simp] theorem Block.setQcw_pc (b : Block) (n : Nat) (q : Qcw) : (b.setQcw n q).pc = b.pc := rfl
@[simp] theorem Block.setQcw_s (b : Block) (n : Nat) (q : Qcw) : (b.setQcw n q).s = b.s := rfl
@[simp] theorem Block.setQcw_k (b : Block) (n : Nat) (q : Qcw) : (b.setQcw n q).k = b.k := rfl
@[simp] theorem Block.setQcw_tsr (b : Block) (n : Nat) (q : Qcw) : (b.setQcw n q).tsr = b.tsr := rfl
@[simp] theorem Block.setQcw_mode (b : Block) (n : Nat) (q : Qcw) : (b.setQcw n q).mode = b.mode := rfl
@[simp] theorem Block.setQcw_fflags (b : Block) (n : Nat) (q : Qcw) : (b.setQcw n q).fflags = b.fflags := rfl
@[simp] theorem Block.setQcw_nfin (b : Block) (n : Nat) (q : Qcw) : (b.setQcw n q).nfin = b.nfin := rfl
@[simp] theorem Block.setQcw_bflag (b : Block) (n : Nat) (q : Qcw) : (b.setQcw n q).bflag = b.bflag := rfl
@[simp] theorem Block.setQcw_mgrant (b : Block) (n : Nat) (q : Qcw) : (b.setQcw n q).mgrant = b.mgrant := rfl
@[simp] theorem Block.setQcw_fmask (b : Block) (n : Nat) (q : Qcw) : (b.setQcw n q).fmask = b.fmask := rfl
@[simp] theorem Block.setQcw_tcause (b : Block) (n : Nat) (q : Qcw) : (b.setQcw n q).tcause = b.tcause := rfl
@[simp] theorem Block.setQcw_tpc (b : Block) (n : Nat) (q : Qcw) : (b.setQcw n q).tpc = b.tpc := rfl
@[simp] theorem Block.setQcw_ttile (b : Block) (n : Nat) (q : Qcw) : (b.setQcw n q).ttile = b.ttile := rfl
@[simp] theorem Block.setQcw_telem (b : Block) (n : Nat) (q : Qcw) : (b.setQcw n q).telem = b.telem := rfl
@[simp] theorem Block.setQcw_taddr (b : Block) (n : Nat) (q : Qcw) : (b.setQcw n q).taddr = b.taddr := rfl
@[simp] theorem Block.setQcw_tport (b : Block) (n : Nat) (q : Qcw) : (b.setQcw n q).tport = b.tport := rfl
@[simp] theorem Block.setQcw_thr (b : Block) (n : Nat) (q : Qcw) : (b.setQcw n q).thr = b.thr := rfl
@[simp] theorem Block.setQcw_eptPeriod (b : Block) (n : Nat) (q : Qcw) : (b.setQcw n q).eptPeriod = b.eptPeriod := rfl
@[simp] theorem Block.setQcw_eptNs (b : Block) (n : Nat) (q : Qcw) : (b.setQcw n q).eptNs = b.eptNs := rfl
@[simp] theorem Block.setQcw_intrap (b : Block) (n : Nat) (q : Qcw) : (b.setQcw n q).intrap = b.intrap := rfl
@[simp] theorem Block.setQcw_resumed (b : Block) (n : Nat) (q : Qcw) : (b.setQcw n q).resumed = b.resumed := rfl
@[simp] theorem Block.setQcw_nest (b : Block) (n : Nat) (q : Qcw) : (b.setQcw n q).nest = b.nest := rfl
@[simp] theorem Block.setQcw_inest (b : Block) (n : Nat) (q : Qcw) : (b.setQcw n q).inest = b.inest := rfl
@[simp] theorem Block.setQcw_shared (b : Block) (n : Nat) (q : Qcw) : (b.setQcw n q).shared = b.shared := rfl
@[simp] theorem Block.setQcw_acc (b : Block) (n : Nat) (q : Qcw) : (b.setQcw n q).acc = b.acc := rfl
@[simp] theorem Block.setQcw_lane (b : Block) (n : Nat) (q : Qcw) : (b.setQcw n q).lane = b.lane := rfl
@[simp] theorem Block.setQcw_flights (b : Block) (n : Nat) (q : Qcw) : (b.setQcw n q).flights = b.flights := rfl
@[simp] theorem Block.setQcw_recs (b : Block) (n : Nat) (q : Qcw) : (b.setQcw n q).recs = b.recs := rfl
@[simp] theorem Block.setQcw_pend (b : Block) (n : Nat) (q : Qcw) : (b.setQcw n q).pend = b.pend := rfl
@[simp] theorem Block.setQcw_trapP (b : Block) (n : Nat) (q : Qcw) : (b.setQcw n q).trapP = b.trapP := rfl
@[simp] theorem Block.setQcw_arrived (b : Block) (n : Nat) (q : Qcw) : (b.setQcw n q).arrived = b.arrived := rfl
@[simp] theorem Block.setQcw_rows (b : Block) (n : Nat) (q : Qcw) : (b.setQcw n q).rows = b.rows := rfl
@[simp] theorem Block.setQcw_exitIssued (b : Block) (n : Nat) (q : Qcw) : (b.setQcw n q).exitIssued = b.exitIssued := rfl
@[simp] theorem Block.setQcw_stopped (b : Block) (n : Nat) (q : Qcw) : (b.setQcw n q).stopped = b.stopped := rfl
@[simp] theorem Block.setQcw_cleatWait (b : Block) (n : Nat) (q : Qcw) : (b.setQcw n q).cleatWait = b.cleatWait := rfl
@[simp] theorem Block.setQcw_stopReq (b : Block) (n : Nat) (q : Qcw) : (b.setQcw n q).stopReq = b.stopReq := rfl
@[simp] theorem Block.setQcw_promoted (b : Block) (n : Nat) (q : Qcw) : (b.setQcw n q).promoted = b.promoted := rfl
@[simp] theorem Block.setQcw_restoring (b : Block) (n : Nat) (q : Qcw) : (b.setQcw n q).restoring = b.restoring := rfl
@[simp] theorem Block.setQcw_cluster (b : Block) (n : Nat) (q : Qcw) : (b.setQcw n q).cluster = b.cluster := rfl
@[simp] theorem Block.setQcw_gx (b : Block) (n : Nat) (q : Qcw) : (b.setQcw n q).gx = b.gx := rfl
@[simp] theorem Block.setQcw_gy (b : Block) (n : Nat) (q : Qcw) : (b.setQcw n q).gy = b.gy := rfl
@[simp] theorem Block.setQcw_gz (b : Block) (n : Nat) (q : Qcw) : (b.setQcw n q).gz = b.gz := rfl
@[simp] theorem Block.setQcw_detWait (b : Block) (n : Nat) (q : Qcw) : (b.setQcw n q).detWait = b.detWait := rfl
@[simp] theorem Block.setQcw_tags (b : Block) (n : Nat) (q : Qcw) : (b.setQcw n q).tags = b.tags := rfl
@[simp] theorem Block.setQcw_poisonSh (b : Block) (n : Nat) (q : Qcw) : (b.setQcw n q).poisonSh = b.poisonSh := rfl
@[simp] theorem Block.setQcw_poisonAcc (b : Block) (n : Nat) (q : Qcw) : (b.setQcw n q).poisonAcc = b.poisonAcc := rfl
@[simp] theorem Block.setQcw_poisonLane (b : Block) (n : Nat) (q : Qcw) : (b.setQcw n q).poisonLane = b.poisonLane := rfl
@[simp] theorem Block.setQcw_held (b : Block) (n : Nat) (q : Qcw) : (b.setQcw n q).held = b.held := rfl
@[simp] theorem Block.setQcw_fences (b : Block) (n : Nat) (q : Qcw) : (b.setQcw n q).fences = b.fences := rfl
@[simp] theorem Block.setQcw_cmds (b : Block) (n : Nat) (q : Qcw) : (b.setQcw n q).cmds = b.cmds := rfl
@[simp] theorem Block.setQcw_marks (b : Block) (n : Nat) (q : Qcw) : (b.setQcw n q).marks = b.marks := rfl
@[simp] theorem Block.setQcw_shapes (b : Block) (n : Nat) (q : Qcw) : (b.setQcw n q).shapes = b.shapes := rfl
@[simp] theorem Block.setQcw_fqs (b : Block) (n : Nat) (q : Qcw) : (b.setQcw n q).fqs = b.fqs := rfl
@[simp] theorem Block.setQcw_fqN (b : Block) (n : Nat) (q : Qcw) : (b.setQcw n q).fqN = b.fqN := rfl
@[simp] theorem Block.setQcw_bbx (b : Block) (n : Nat) (q : Qcw) : (b.setQcw n q).bbx = b.bbx := rfl
@[simp] theorem Block.setQcw_dueTrap (b : Block) (n : Nat) (q : Qcw) : (b.setQcw n q).dueTrap = b.dueTrap := rfl
@[simp] theorem Block.setQcw_passed (b : Block) (n : Nat) (q : Qcw) : (b.setQcw n q).passed = b.passed := rfl
@[simp] theorem Block.setQcw_dem (b : Block) (n : Nat) (q : Qcw) : (b.setQcw n q).dem = b.dem := rfl
@[simp] theorem Block.setQcw_heldBack (b : Block) (n : Nat) (q : Qcw) : (b.setQcw n q).heldBack = b.heldBack := rfl
@[simp] theorem Block.setQcw_frame (b : Block) (n : Nat) (q : Qcw) : (b.setQcw n q).frame = b.frame := rfl
@[simp] theorem Block.setQcw_reason (b : Block) (n : Nat) (q : Qcw) : (b.setQcw n q).reason = b.reason := rfl
@[simp] theorem Block.setQcw_strip (b : Block) (n : Nat) (q : Qcw) : (b.setQcw n q).strip = b.strip := rfl
@[simp] theorem Block.setQcw_lastIssue (b : Block) (n : Nat) (q : Qcw) : (b.setQcw n q).lastIssue = b.lastIssue := rfl
@[simp] theorem Block.setQcw_readyAt (b : Block) (n : Nat) (q : Qcw) : (b.setQcw n q).readyAt = b.readyAt := rfl
@[simp] theorem Block.setQcw_placedAt (b : Block) (n : Nat) (q : Qcw) : (b.setQcw n q).placedAt = b.placedAt := rfl
@[simp] theorem Block.setQcw_passedAt (b : Block) (n : Nat) (q : Qcw) : (b.setQcw n q).passedAt = b.passedAt := rfl
@[simp] theorem Block.setQcw_seenHalf (b : Block) (n : Nat) (q : Qcw) : (b.setQcw n q).seenHalf = b.seenHalf := rfl
@[simp] theorem Block.setQcw_seenDirty (b : Block) (n : Nat) (q : Qcw) : (b.setQcw n q).seenDirty = b.seenDirty := rfl
@[simp] theorem Block.setQcw_defWait (b : Block) (n : Nat) (q : Qcw) : (b.setQcw n q).defWait = b.defWait := rfl
@[simp] theorem Block.setQcw_walkWait (b : Block) (n : Nat) (q : Qcw) : (b.setQcw n q).walkWait = b.walkWait := rfl

end Sys2Proof.Machine
end

