-- ==== Sys2Proof/Laws/Ops.lean ====
section
/-! SUPPORT. What the operations that every instruction shares can do, said once each. -/

namespace Sys2Proof.Machine

/-! Predication. -/

theorem State.run_goes {s : State} {f : Form} (h : s.Goes f) (m : Ctl State) : s.run f m = s.finish m := by
  unfold State.run
  by_cases p : f.mods.pmode = 1
  · have := h p
    simp only [p, this.1, Bool.false_eq_true, if_false, if_true]
    rw [if_pos]
    simpa using this.2
  · simp only [if_neg p]

theorem State.run_skips {s : State} {f : Form} (h : s.Skips f) (m : Ctl State) : s.run f m = s.setMe (s.me.past f) := by
  unfold State.run
  simp [h.1, h.2.1, h.2.2, State.advance, State.modMe, Block.past]

theorem State.goes_w32 (s : State) : s.Goes .w32 := by intro h; simp [Form.mods, Mods.zero] at h

theorem State.advance_eq (s : State) (f : Form) : s.advance f = s.setMe (s.me.past f) := rfl

/-- An instruction that goes ahead and gives a result continues at the next one. -/
theorem State.ctl_ok {s t : State} {f : Form} {m : Ctl State} (h : s.Goes f) (e : m = .ok t) : s.ctl f m = t.advance f := by
  unfold State.ctl
  rw [State.run_goes h, e]
  rfl

theorem State.ctl_error {s : State} {f : Form} {m : Ctl State} {e : Stop} (h : s.Goes f) (e' : m = .error e) :
    s.ctl f m = s.finish (.error e) := by
  unfold State.ctl
  rw [State.run_goes h, e']
  rfl

/-! Operands. -/

theorem useReg_ready {s : State} {r : R6} (h : s.Ready r) : useReg s r = .ok (s.me.reg r) := by
  simp [useReg, h.1, h.2]

theorem useRegs_ready {s : State} : ∀ {rs : List R6}, (∀ r ∈ rs, s.Ready r) → useRegs s rs = .ok (rs.map s.me.reg)
  | [], _ => rfl
  | r :: rs, h => by
    simp only [List.mem_cons, forall_eq_or_imp] at h
    simp [useRegs, useReg_ready h.1, useRegs_ready h.2, bind, Except.bind, pure, Except.pure]

theorem dstReady_ready {s : State} {d : R6} (h : s.Ready d) : dstReady s d = .ok () := by
  simp [dstReady, h.1, h.2]

theorem putDst_plain {s : State} {d : R6} (v : Dword) (h : isPort d = false) : putDst s d v = .ok (s.setMe (s.me.setReg d v)) := by
  simp [putDst, h, State.modMe]

theorem popPort_isPort {r : R6} (h : isPort r = false) : popPort r = false := by
  revert h
  revert r
  decide

theorem popSrcs_plain {s : State} : ∀ {rs : List R6}, (∀ r ∈ rs, isPort r = false) → popSrcs s rs = s
  | [], _ => rfl
  | r :: rs, h => by
    simp only [List.mem_cons, forall_eq_or_imp] at h
    simp only [popSrcs, List.foldl_cons, popPort_isPort h.1, Bool.false_eq_true, if_false]
    exact popSrcs_plain h.2

/-- An instruction of scalar sources and a scalar destination that are all ready: the destination written, the flags merged, the pc moved,
and nothing else. -/
theorem scalarOp_ready {s : State} {f : Form} {srcs : List R6} {d : R6} {g : List Dword → Ctl (Dword × Nat)} {v : Dword} {fl : Nat}
    (h : s.Goes f) (hs : ∀ r ∈ srcs, s.Ready r) (hd : s.Ready d) (hg : g (srcs.map s.me.reg) = .ok (v, fl)) :
    scalarOp s f srcs d g = s.setMe (((s.me.setReg d v).mergeFlags fl).past f) := by
  unfold scalarOp
  refine (State.ctl_ok h (t := s.setMe ((s.me.setReg d v).mergeFlags fl)) ?_).trans ?_
  · rw [useRegs_ready hs, dstReady_ready hd]
    simp only [bind, Except.bind, hg]
    rw [putDst_plain v hd.1]
    simp only [pure, Except.pure]
    rw [popSrcs_plain (fun r hr => (hs r hr).1)]
    simp [State.modMe]
  · simp [State.advance_eq]

/-- The trap of such an instruction's own evaluation: taken, with nothing read undone and nothing written. -/
theorem scalarOp_trap {s : State} {f : Form} {srcs : List R6} {d : R6} {g : List Dword → Ctl (Dword × Nat)} {t : TrapInfo} {s' : State}
    (h : s.Goes f) (hs : ∀ r ∈ srcs, s.Ready r) (hd : s.Ready d) (hg : g (srcs.map s.me.reg) = .error (.trap t s')) :
    scalarOp s f srcs d g = s'.takeTrap s.cur t := by
  unfold scalarOp
  refine (State.ctl_error h (e := .trap t s') ?_).trans rfl
  rw [useRegs_ready hs, dstReady_ready hd]
  simp only [bind, Except.bind, hg]

theorem scalarOp1_ready {s : State} {f : Form} {d a : R6} {g : Dword → Dword} (h : s.Goes f) (ha : s.Ready a) (hd : s.Ready d) :
    scalarOp1 s f d a g = s.setMe ((s.me.setReg d (g (s.me.reg a))).past f) := by
  unfold scalarOp1
  rw [scalarOp_ready h (by simpa using ha) hd rfl]
  simp

theorem scalarOp2_ready {s : State} {f : Form} {d a b : R6} {g : Dword → Dword → Dword} (h : s.Goes f) (ha : s.Ready a) (hb : s.Ready b)
    (hd : s.Ready d) : scalarOp2 s f d a b g = s.setMe ((s.me.setReg d (g (s.me.reg a) (s.me.reg b))).past f) := by
  unfold scalarOp2
  rw [scalarOp_ready h (by simp [ha, hb]) hd rfl]
  simp

/-- An instruction of scalar sources and a condition register: the flags merged, the condition written, the pc moved. -/
theorem condOp_ready {s : State} {f : Form} {srcs : List R6} {d : R6} {g : List Dword → Ctl (Bool × Nat)} {v : Bool} {fl : Nat}
    (h : s.Goes f) (hs : ∀ r ∈ srcs, s.Ready r) (hd : s.me.busyK d.toNat = false) (hg : g (srcs.map s.me.reg) = .ok (v, fl)) :
    condOp s f srcs d g = s.setMe (((s.me.mergeFlags fl).setCond d.toNat v).past f) := by
  unfold condOp
  refine (State.ctl_ok h (t := s.setMe ((s.me.mergeFlags fl).setCond d.toNat v)) ?_).trans ?_
  · rw [useRegs_ready hs]
    simp only [bind, Except.bind, hd, hg, Bool.false_eq_true, if_false, pure, Except.pure]
    rw [popSrcs_plain (fun r hr => (hs r hr).1)]
    rfl
  · simp [State.advance_eq]

end Sys2Proof.Machine
end

