-- ==== Sys2Proof/Laws/PerInstr.lean ====
section
/-! SUPPORT. A fact about each instruction as syntax, made per instruction: how many words it encodes to (03_encoding R77, R89). -/

namespace Sys2Proof.Laws.Encode

/-- An instruction of the main map encodes to one word, or two or three as its length says; one of the lane map to one word; every other row of
the table to none. -/
def Statement (i : Instr) : Prop :=
  (encode i).length = match instrRaw i, laneWord i with
    | some r, _ => if r.len = 0 then 1 else if r.len = 1 then 2 else 3
    | none, some _ => 1
    | none, none => 0

theorem statement_of (i : Instr) : Statement i := by
  unfold Statement encode
  generalize instrRaw i = a
  generalize laneWord i = b
  cases a with
  | some r => simp only [Raw.words]; split <;> (try split) <;> simp_all
  | none => cases b <;> rfl

theorem add (f : Form) (d a b : R6) : Statement (.add f d a b) := statement_of _
theorem sub (f : Form) (d a b : R6) : Statement (.sub f d a b) := statement_of _
theorem mul (f : Form) (d a b : R6) : Statement (.mul f d a b) := statement_of _
theorem mulh (f : Form) (d a b : R6) : Statement (.mulh f d a b) := statement_of _
theorem mulhn (f : Form) (d a b : R6) : Statement (.mulhn f d a b) := statement_of _
theorem div (f : Form) (d a b : R6) : Statement (.div f d a b) := statement_of _
theorem divn (f : Form) (d a b : R6) : Statement (.divn f d a b) := statement_of _
theorem rem (f : Form) (d a b : R6) : Statement (.rem f d a b) := statement_of _
theorem remn (f : Form) (d a b : R6) : Statement (.remn f d a b) := statement_of _
theorem and_ (f : Form) (d a b : R6) : Statement (.and_ f d a b) := statement_of _
theorem or_ (f : Form) (d a b : R6) : Statement (.or_ f d a b) := statement_of _
theorem xor_ (f : Form) (d a b : R6) : Statement (.xor_ f d a b) := statement_of _
theorem andn (f : Form) (d a b : R6) : Statement (.andn f d a b) := statement_of _
theorem shl (f : Form) (d a b : R6) : Statement (.shl f d a b) := statement_of _
theorem shr (f : Form) (d a b : R6) : Statement (.shr f d a b) := statement_of _
theorem sra (f : Form) (d a b : R6) : Statement (.sra f d a b) := statement_of _
theorem rotr (f : Form) (d a b : R6) : Statement (.rotr f d a b) := statement_of _
theorem min_ (f : Form) (d a b : R6) : Statement (.min_ f d a b) := statement_of _
theorem max_ (f : Form) (d a b : R6) : Statement (.max_ f d a b) := statement_of _
theorem minn (f : Form) (d a b : R6) : Statement (.minn f d a b) := statement_of _
theorem maxn (f : Form) (d a b : R6) : Statement (.maxn f d a b) := statement_of _
theorem addI (f : Form) (imm : BitVec 12) (d a : R6) : Statement (.addI f imm d a) := statement_of _
theorem andI (f : Form) (imm : BitVec 12) (d a : R6) : Statement (.andI f imm d a) := statement_of _
theorem orI (f : Form) (imm : BitVec 12) (d a : R6) : Statement (.orI f imm d a) := statement_of _
theorem xorI (f : Form) (imm : BitVec 12) (d a : R6) : Statement (.xorI f imm d a) := statement_of _
theorem shlI (f : Form) (n : R6) (d a : R6) : Statement (.shlI f n d a) := statement_of _
theorem shrI (f : Form) (n : R6) (d a : R6) : Statement (.shrI f n d a) := statement_of _
theorem sraI (f : Form) (n : R6) (d a : R6) : Statement (.sraI f n d a) := statement_of _
theorem rotrI (f : Form) (n : R6) (d a : R6) : Statement (.rotrI f n d a) := statement_of _
theorem clz (f : Form) (d a : R6) : Statement (.clz f d a) := statement_of _
theorem ctz (f : Form) (d a : R6) : Statement (.ctz f d a) := statement_of _
theorem popc (f : Form) (d a : R6) : Statement (.popc f d a) := statement_of _
theorem sext (f : Form) (d a b : R6) : Statement (.sext f d a b) := statement_of _
theorem zext (f : Form) (d a b : R6) : Statement (.zext f d a b) := statement_of _
theorem mov (f : Form) (d a : R6) : Statement (.mov f d a) := statement_of _
theorem cmp (f : Form) (cc : R6) (d a b : R6) : Statement (.cmp f cc d a b) := statement_of _
theorem sel (f : Form) (n : Bool) (k : BitVec 3) (d a b : R6) : Statement (.sel f n k d a b) := statement_of _
theorem li (f : Form) (h : R6) (d : R6) : Statement (.li f h d) := statement_of _
theorem fadd (f : Form) (p : Bool) (d a b : R6) : Statement (.fadd f p d a b) := statement_of _
theorem fsub (f : Form) (p : Bool) (d a b : R6) : Statement (.fsub f p d a b) := statement_of _
theorem fmul (f : Form) (p : Bool) (d a b : R6) : Statement (.fmul f p d a b) := statement_of _
theorem fdiv (f : Form) (p : Bool) (d a b : R6) : Statement (.fdiv f p d a b) := statement_of _
theorem fmin (f : Form) (p : Bool) (d a b : R6) : Statement (.fmin f p d a b) := statement_of _
theorem fmax (f : Form) (p : Bool) (d a b : R6) : Statement (.fmax f p d a b) := statement_of _
theorem fcmp (f : Form) (p : Bool) (cc : BitVec 3) (d a b : R6) : Statement (.fcmp f p cc d a b) := statement_of _
theorem fcvt (f : Form) (dt st : R6) (d a : R6) : Statement (.fcvt f dt st d a) := statement_of _
theorem fclass (f : Form) (p : Bool) (d a : R6) : Statement (.fclass f p d a) := statement_of _
theorem br (f : Form) (off : BitVec 18) (n : Bool) (k : BitVec 3) : Statement (.br f off n k) := statement_of _
theorem brz (f : Form) (off : BitVec 18) (a : R6) : Statement (.brz f off a) := statement_of _
theorem bnz (f : Form) (off : BitVec 18) (a : R6) : Statement (.bnz f off a) := statement_of _
theorem jmp (f : Form) (off : BitVec 24) : Statement (.jmp f off) := statement_of _
theorem call (f : Form) (off : BitVec 24) : Statement (.call f off) := statement_of _
theorem jr (f : Form) (d a : R6) : Statement (.jr f d a) := statement_of _
theorem ret (f : Form) : Statement (.ret f) := statement_of _
theorem loopn (cnt : BitVec 13) (len : BitVec 5) (a : R6) : Statement (.loopn cnt len a) := statement_of _
theorem endlp : Statement (.endlp) := statement_of _
theorem brkl (n : Bool) (k : BitVec 3) : Statement (.brkl n k) := statement_of _
theorem ld (f : Form) (imm : BitVec 9) (sz : BitVec 3) (d a : R6) : Statement (.ld f imm sz d a) := statement_of _
theorem st (f : Form) (imm : BitVec 9) (sz : BitVec 3) (d a : R6) : Statement (.st f imm sz d a) := statement_of _
theorem lds (f : Form) (imm : BitVec 9) (sz : BitVec 3) (d a : R6) : Statement (.lds f imm sz d a) := statement_of _
theorem sts (f : Form) (imm : BitVec 9) (sz : BitVec 3) (d a : R6) : Statement (.sts f imm sz d a) := statement_of _
theorem amoAdd (f : Form) (w : Bool) (d a b : R6) : Statement (.amoAdd f w d a b) := statement_of _
theorem amoAnd (f : Form) (w : Bool) (d a b : R6) : Statement (.amoAnd f w d a b) := statement_of _
theorem amoOr (f : Form) (w : Bool) (d a b : R6) : Statement (.amoOr f w d a b) := statement_of _
theorem amoXor (f : Form) (w : Bool) (d a b : R6) : Statement (.amoXor f w d a b) := statement_of _
theorem amoMin (f : Form) (w : Bool) (d a b : R6) : Statement (.amoMin f w d a b) := statement_of _
theorem amoMax (f : Form) (w : Bool) (d a b : R6) : Statement (.amoMax f w d a b) := statement_of _
theorem amoMinn (f : Form) (w : Bool) (d a b : R6) : Statement (.amoMinn f w d a b) := statement_of _
theorem amoMaxn (f : Form) (w : Bool) (d a b : R6) : Statement (.amoMaxn f w d a b) := statement_of _
theorem amoSwap (f : Form) (w : Bool) (d a b : R6) : Statement (.amoSwap f w d a b) := statement_of _
theorem cas (f : Form) (w : Bool) (d a b : R6) : Statement (.cas f w d a b) := statement_of _
theorem fenceCt (f : Form) (sc : BitVec 4) : Statement (.fenceCt f sc) := statement_of _
theorem fenceTc (f : Form) (sc : BitVec 4) : Statement (.fenceTc f sc) := statement_of _
theorem fenceTt (f : Form) (sc : BitVec 4) : Statement (.fenceTt f sc) := statement_of _
theorem fenceAll (f : Form) (sc : BitVec 4) : Statement (.fenceAll f sc) := statement_of _
theorem tdrain (f : Form) : Statement (.tdrain f) := statement_of _
theorem bar (f : Form) (sc : BitVec 4) (a : R6) : Statement (.bar f sc a) := statement_of _
theorem waitaEq (f : Form) (d a b : R6) : Statement (.waitaEq f d a b) := statement_of _
theorem waitaNe (f : Form) (d a b : R6) : Statement (.waitaNe f d a b) := statement_of _
theorem waitaGen (f : Form) (d a b : R6) : Statement (.waitaGen f d a b) := statement_of _
theorem slpt (f : Form) (a : R6) : Statement (.slpt f a) := statement_of _
theorem rdtime (f : Form) (d : R6) : Statement (.rdtime f d) := statement_of _
theorem yield_ (f : Form) : Statement (.yield_ f) := statement_of _
theorem exit (f : Form) : Statement (.exit f) := statement_of _
theorem nop (f : Form) : Statement (.nop f) := statement_of _
theorem rdsr (f : Form) (b d : R6) : Statement (.rdsr f b d) := statement_of _
theorem wrsr (f : Form) (b a : R6) : Statement (.wrsr f b a) := statement_of _
theorem eret (f : Form) : Statement (.eret f) := statement_of _
theorem trap (f : Form) (imm : BitVec 12) : Statement (.trap f imm) := statement_of _
theorem bbx (f : Form) (imm : BitVec 12) : Statement (.bbx f imm) := statement_of _
theorem qcfg (f : Form) (b a : R6) : Statement (.qcfg f b a) := statement_of _
theorem qtry (f : Form) (b d : R6) : Statement (.qtry f b d) := statement_of _
theorem launch (f : Form) (d a b : R6) : Statement (.launch f d a b) := statement_of _
theorem heatq (f : Form) (d a b : R6) : Statement (.heatq f d a b) := statement_of _
theorem tshape (f : Form) (d a b : R6) : Statement (.tshape f d a b) := statement_of _
theorem tbind (f : Form) (d a : R6) : Statement (.tbind f d a) := statement_of _
theorem tbound (f : Form) (p : BitVec 2) (d a : R6) : Statement (.tbound f p d a) := statement_of _
theorem tmon (f : Form) (d a : R6) : Statement (.tmon f d a) := statement_of _
theorem tverd (f : Form) (d a b : R6) : Statement (.tverd f d a b) := statement_of _
theorem tfree (f : Form) (d : R6) : Statement (.tfree f d) := statement_of _
theorem trdsh (f : Form) (d a b : R6) : Statement (.trdsh f d a b) := statement_of _
theorem tld (f : Form) (imm : BitVec 8) (op : BitVec 4) (d a : R6) : Statement (.tld f imm op d a) := statement_of _
theorem tst (f : Form) (imm : BitVec 8) (op : BitVec 4) (d a : R6) : Statement (.tst f imm op d a) := statement_of _
theorem tstr (f : Form) (imm : BitVec 8) (op : BitVec 4) (d a : R6) : Statement (.tstr f imm op d a) := statement_of _
theorem tldg (f : Form) (d a b : R6) : Statement (.tldg f d a b) := statement_of _
theorem tstg (f : Form) (d a b : R6) : Statement (.tstg f d a b) := statement_of _
theorem tcopy (f : Form) (d a : R6) : Statement (.tcopy f d a) := statement_of _
theorem tfill (f : Form) (d a : R6) : Statement (.tfill f d a) := statement_of _
theorem tiota (f : Form) (d a b : R6) : Statement (.tiota f d a b) := statement_of _
theorem ttrans (f : Form) (d a : R6) : Statement (.ttrans f d a) := statement_of _
theorem tcvt (f : Form) (d a : R6) : Statement (.tcvt f d a) := statement_of _
theorem tbfly (f : Form) (ch : Bool) (h : BitVec 3) (d a : R6) : Statement (.tbfly f ch h d a) := statement_of _
theorem tcmpr (f : Form) (d a b : R6) : Statement (.tcmpr f d a b) := statement_of _
theorem texpd (f : Form) (d a b : R6) : Statement (.texpd f d a b) := statement_of _
theorem tbcast (f : Form) (r : Bool) (d a : R6) : Statement (.tbcast f r d a) := statement_of _
theorem tsend (f : Form) (d a : R6) : Statement (.tsend f d a) := statement_of _
theorem trecv (f : Form) (d a : R6) : Statement (.trecv f d a) := statement_of _
theorem tldl (f : Form) (b a : R6) : Statement (.tldl f b a) := statement_of _
theorem tstl (f : Form) (b d : R6) : Statement (.tstl f b d) := statement_of _
theorem tadd (f : Form) (d a b : R6) : Statement (.tadd f d a b) := statement_of _
theorem tsub (f : Form) (d a b : R6) : Statement (.tsub f d a b) := statement_of _
theorem tmul (f : Form) (d a b : R6) : Statement (.tmul f d a b) := statement_of _
theorem tdiv (f : Form) (d a b : R6) : Statement (.tdiv f d a b) := statement_of _
theorem tmin (f : Form) (d a b : R6) : Statement (.tmin f d a b) := statement_of _
theorem tmax (f : Form) (d a b : R6) : Statement (.tmax f d a b) := statement_of _
theorem tscale (f : Form) (d a b : R6) : Statement (.tscale f d a b) := statement_of _
theorem tfma (f : Form) (d a b : R6) : Statement (.tfma f d a b) := statement_of _
theorem tclamp (f : Form) (d a b : R6) : Statement (.tclamp f d a b) := statement_of _
theorem tsel (f : Form) (d a b : R6) : Statement (.tsel f d a b) := statement_of _
theorem tsqrt (f : Form) (d a : R6) : Statement (.tsqrt f d a) := statement_of _
theorem trsq (f : Form) (d a : R6) : Statement (.trsq f d a) := statement_of _
theorem trcp (f : Form) (d a : R6) : Statement (.trcp f d a) := statement_of _
theorem texp2 (f : Form) (d a : R6) : Statement (.texp2 f d a) := statement_of _
theorem tlog2 (f : Form) (d a : R6) : Statement (.tlog2 f d a) := statement_of _
theorem tabs (f : Form) (d a : R6) : Statement (.tabs f d a) := statement_of _
theorem tneg (f : Form) (d a : R6) : Statement (.tneg f d a) := statement_of _
theorem tcmp (f : Form) (cc : R6) (d a b : R6) : Statement (.tcmp f cc d a b) := statement_of _
theorem tand (f : Form) (d a b : R6) : Statement (.tand f d a b) := statement_of _
theorem tor (f : Form) (d a b : R6) : Statement (.tor f d a b) := statement_of _
theorem txor (f : Form) (d a b : R6) : Statement (.txor f d a b) := statement_of _
theorem tnot (f : Form) (d a : R6) : Statement (.tnot f d a) := statement_of _
theorem tshl (f : Form) (d a b : R6) : Statement (.tshl f d a b) := statement_of _
theorem tshr (f : Form) (d a b : R6) : Statement (.tshr f d a b) := statement_of _
theorem tsra (f : Form) (d a b : R6) : Statement (.tsra f d a b) := statement_of _
theorem tclz (f : Form) (d a : R6) : Statement (.tclz f d a) := statement_of _
theorem tctz (f : Form) (d a : R6) : Statement (.tctz f d a) := statement_of _
theorem tpopc (f : Form) (d a : R6) : Statement (.tpopc f d a) := statement_of _
theorem tred (f : Form) (r : BitVec 2) (o : BitVec 3) (d a b : R6) : Statement (.tred f r o d a b) := statement_of _
theorem tscan (f : Form) (r : BitVec 2) (o : BitVec 3) (d a : R6) : Statement (.tscan f r o d a) := statement_of _
theorem targmx (f : Form) (r : BitVec 2) (d a : R6) : Statement (.targmx f r d a) := statement_of _
theorem tchkf (f : Form) (d a : R6) : Statement (.tchkf f d a) := statement_of _
theorem tany (f : Form) (d a : R6) : Statement (.tany f d a) := statement_of _
theorem tall (f : Form) (d a : R6) : Statement (.tall f d a) := statement_of _
theorem matt (f : Form) (d a : R6) : Statement (.matt f d a) := statement_of _
theorem mattW (f : Form) (d a : R6) : Statement (.mattW f d a) := statement_of _
theorem mdet (f : Form) : Statement (.mdet f) := statement_of _
theorem mma (f : Form) (d a b : R6) : Statement (.mma f d a b) := statement_of _
theorem mmas (f : Form) (d a b : R6) : Statement (.mmas f d a b) := statement_of _
theorem mmav (f : Form) (d a b : R6) : Statement (.mmav f d a b) := statement_of _
theorem azero (f : Form) (d : R6) : Statement (.azero f d) := statement_of _
theorem ttopk (f : Form) (d a b : R6) : Statement (.ttopk f d a b) := statement_of _
theorem thrup (f : Form) (d a : R6) : Statement (.thrup f d a) := statement_of _
theorem tmap (f : Form) (d a b : R6) : Statement (.tmap f d a b) := statement_of _
theorem tmapr (f : Form) (d a b : R6) : Statement (.tmapr f d a b) := statement_of _
theorem tcred (f : Form) (d a b : R6) : Statement (.tcred f d a b) := statement_of _
theorem tcbc (f : Form) (d a b : R6) : Statement (.tcbc f d a b) := statement_of _
theorem tcag (f : Form) (d a b : R6) : Statement (.tcag f d a b) := statement_of _
theorem monset (f : Form) (b a : R6) : Statement (.monset f b a) := statement_of _
theorem monref (f : Form) (b a : R6) : Statement (.monref f b a) := statement_of _
theorem monrd (f : Form) (d a b : R6) : Statement (.monrd f d a b) := statement_of _
theorem monclr (f : Form) (a : R6) : Statement (.monclr f a) := statement_of _
theorem ladd (c b a d : R6) : Statement (.ladd c b a d) := statement_of _
theorem lsub (c b a d : R6) : Statement (.lsub c b a d) := statement_of _
theorem lmul (c b a d : R6) : Statement (.lmul c b a d) := statement_of _
theorem lfma (c b a d : R6) : Statement (.lfma c b a d) := statement_of _
theorem ldiv (c b a d : R6) : Statement (.ldiv c b a d) := statement_of _
theorem land (c b a d : R6) : Statement (.land c b a d) := statement_of _
theorem lor (c b a d : R6) : Statement (.lor c b a d) := statement_of _
theorem lxor (c b a d : R6) : Statement (.lxor c b a d) := statement_of _
theorem lshl (c b a d : R6) : Statement (.lshl c b a d) := statement_of _
theorem lshr (c b a d : R6) : Statement (.lshr c b a d) := statement_of _
theorem lsra (c b a d : R6) : Statement (.lsra c b a d) := statement_of _
theorem lcmp (c b a d : R6) : Statement (.lcmp c b a d) := statement_of _
theorem lsel (c b a d : R6) : Statement (.lsel c b a d) := statement_of _
theorem lmin (c b a d : R6) : Statement (.lmin c b a d) := statement_of _
theorem lmax (c b a d : R6) : Statement (.lmax c b a d) := statement_of _
theorem lcvt (c b a d : R6) : Statement (.lcvt c b a d) := statement_of _
theorem lclz (c a d : R6) : Statement (.lclz c a d) := statement_of _
theorem lpopc (c a d : R6) : Statement (.lpopc c a d) := statement_of _
theorem lexp2 (c a d : R6) : Statement (.lexp2 c a d) := statement_of _
theorem llog2 (c a d : R6) : Statement (.llog2 c a d) := statement_of _
theorem lrsq (c a d : R6) : Statement (.lrsq c a d) := statement_of _
theorem lli (i : BitVec 18) (h : Bool) (d : BitVec 5) : Statement (.lli i h d) := statement_of _
theorem lmov (c a d : R6) : Statement (.lmov c a d) := statement_of _
theorem lld (i : BitVec 12) (a d : R6) : Statement (.lld i a d) := statement_of _
theorem lst (i : BitVec 12) (a d : R6) : Statement (.lst i a d) := statement_of _
theorem lldt (c b a d : R6) : Statement (.lldt c b a d) := statement_of _
theorem lstt (c b a d : R6) : Statement (.lstt c b a d) := statement_of _
theorem lbr (off : BitVec 18) (a : R6) : Statement (.lbr off a) := statement_of _
theorem lj (off : BitVec 24) : Statement (.lj off) := statement_of _
theorem lcall (off : BitVec 24) : Statement (.lcall off) := statement_of _
theorem lret : Statement (.lret) := statement_of _
theorem lend : Statement (.lend) := statement_of _
theorem cpy6 (blk i : Nat) : Statement (.cpy6 blk i) := statement_of _
theorem gth (blk i : Nat) : Statement (.gth blk i) := statement_of _
theorem col (blk i : Nat) : Statement (.col blk i) := statement_of _
theorem fq (blk : Nat) : Statement (.fq blk) := statement_of _
theorem engineCommandStart (blk e : Nat) : Statement (.engineCommandStart blk e) := statement_of _
theorem engineCommandComplete (blk i : Nat) : Statement (.engineCommandComplete blk i) := statement_of _
theorem completionElementDeliver (blk e : Nat) : Statement (.completionElementDeliver blk e) := statement_of _
theorem farmAnswer (blk : Nat) : Statement (.farmAnswer blk) := statement_of _
theorem portWake (blk : Nat) : Statement (.portWake blk) := statement_of _
theorem channelPortWake (blk : Nat) : Statement (.channelPortWake blk) := statement_of _
theorem waitaWake (blk : Nat) : Statement (.waitaWake blk) := statement_of _
theorem slptWake (blk : Nat) : Statement (.slptWake blk) := statement_of _
theorem barrierRelease (l : Nat) (sc : BitVec 4) : Statement (.barrierRelease l sc) := statement_of _
theorem detHoldRelease (blk : Nat) : Statement (.detHoldRelease blk) := statement_of _
theorem deferredOpApply (i : Nat) : Statement (.deferredOpApply i) := statement_of _
theorem mattGrant (blk : Nat) : Statement (.mattGrant blk) := statement_of _
theorem cleatPlaceGrant (blk : Nat) : Statement (.cleatPlaceGrant blk) := statement_of _
theorem unitCommit (blk i : Nat) : Statement (.unitCommit blk i) := statement_of _
theorem planeBoundary (blk : Nat) : Statement (.planeBoundary blk) := statement_of _
theorem elementProgressExpiry (blk : Nat) : Statement (.elementProgressExpiry blk) := statement_of _
theorem slotPromotion (core slot : Nat) : Statement (.slotPromotion core slot) := statement_of _
theorem trapEntry (blk : Nat) : Statement (.trapEntry blk) := statement_of _
theorem drainComplete (blk : Nat) : Statement (.drainComplete blk) := statement_of _
theorem debugStop (blk : Nat) : Statement (.debugStop blk) := statement_of _
theorem frozenRelease (blk : Nat) : Statement (.frozenRelease blk) := statement_of _
theorem recordFetch (ctx q : Nat) : Statement (.recordFetch ctx q) := statement_of _
theorem launchStart (l : Nat) : Statement (.launchStart l) := statement_of _
theorem launchComplete (l : Nat) : Statement (.launchComplete l) := statement_of _
theorem blockPlace (die : Nat) : Statement (.blockPlace die) := statement_of _
theorem clusterReservation (blk : Nat) : Statement (.clusterReservation blk) := statement_of _
theorem saveComplete (blk : Nat) : Statement (.saveComplete blk) := statement_of _
theorem restoreComplete (blk : Nat) : Statement (.restoreComplete blk) := statement_of _
theorem lqOpen (ctx q : Nat) : Statement (.lqOpen ctx q) := statement_of _
theorem lqClose (ctx q : Nat) : Statement (.lqClose ctx q) := statement_of _
theorem lqDestroy (ctx q : Nat) : Statement (.lqDestroy ctx q) := statement_of _
theorem lqResume (ctx q : Nat) : Statement (.lqResume ctx q) := statement_of _
theorem lqwidxWrite (ctx q : Nat) (v : Dword) : Statement (.lqwidxWrite ctx q v) := statement_of _
theorem ctxEnable (ctx : Nat) (v : Dword) : Statement (.ctxEnable ctx v) := statement_of _
theorem contextReset (ctx : Nat) : Statement (.contextReset ctx) := statement_of _
theorem translationInvalidate (ctx : Nat) (v : Dword) : Statement (.translationInvalidate ctx v) := statement_of _
theorem invalidationDone (ctx : Nat) : Statement (.invalidationDone ctx) := statement_of _
theorem codeFlush (ctx : Nat) : Statement (.codeFlush ctx) := statement_of _
theorem codeFlushDone (ctx : Nat) : Statement (.codeFlushDone ctx) := statement_of _
theorem registerWrite (off : Nat) (v : Dword) : Statement (.registerWrite off v) := statement_of _
theorem hostMemoryRead (off n : Nat) : Statement (.hostMemoryRead off n) := statement_of _
theorem hostMemoryWrite (off : Nat) (bs : List Byte) (ep : Bool) : Statement (.hostMemoryWrite off bs ep) := statement_of _
theorem hostAtomicop (off : Nat) (op : AtomicOp) (w : Bool) (x y : Dword) : Statement (.hostAtomicop off op w x y) := statement_of _
theorem flitReceive (link : Nat) (dir ok : Bool) (lanes : Dword) : Statement (.flitReceive link dir ok lanes) := statement_of _
theorem nakReceive (link : Nat) (dir : Bool) : Statement (.nakReceive link dir) := statement_of _
theorem retrainComplete (link : Nat) : Statement (.retrainComplete link) := statement_of _
theorem linkRewiden (link : Nat) (pass : Bool) : Statement (.linkRewiden link pass) := statement_of _
theorem linkCounterClear (link : Nat) : Statement (.linkCounterClear link) := statement_of _
theorem correctedError : Statement (.correctedError) := statement_of _
theorem uncorrectableError (w : ErrSite) : Statement (.uncorrectableError w) := statement_of _
theorem errctlClr : Statement (.errctlClr) := statement_of _
theorem rstctlWarm : Statement (.rstctlWarm) := statement_of _
theorem warmResetComplete : Statement (.warmResetComplete) := statement_of _
theorem coldReset (r : BringUp) : Statement (.coldReset r) := statement_of _
theorem powerLimit (w : BitVec 16) (i : BitVec 16 × BitVec 16) : Statement (.powerLimit w i) := statement_of _
theorem zfatWrite (z : Nat) (v : Dword) : Statement (.zfatWrite z v) := statement_of _
theorem csupplyWrite (v : Dword) : Statement (.csupplyWrite v) := statement_of _
theorem zvalveWrite (z : Nat) (v : Dword) : Statement (.zvalveWrite z v) := statement_of _
theorem overtemp (z : Nat) (outlet : BitVec 12) : Statement (.overtemp z outlet) := statement_of _
theorem holdRelease (z : Nat) (outlet : BitVec 12) (flow : BitVec 9) : Statement (.holdRelease z outlet flow) := statement_of _
theorem flowlow (z : Nat) (flow : BitVec 9) (ms : Nat) : Statement (.flowlow z flow ms) := statement_of _
theorem dry (z : Nat) : Statement (.dry z) := statement_of _
theorem leak (z : Nat) : Statement (.leak z) := statement_of _
theorem zoneLaneGate (z : Nat) : Statement (.zoneLaneGate z) := statement_of _
theorem zoneEmpty (z : Nat) : Statement (.zoneEmpty z) := statement_of _
theorem zoneEvacDeadline (z : Nat) : Statement (.zoneEvacDeadline z) := statement_of _
theorem zonePurgeComplete (z : Nat) : Statement (.zonePurgeComplete z) := statement_of _
theorem zoneReprimeComplete (z : Nat) (flow : BitVec 9) (dryDet leakDet : Bool) : Statement (.zoneReprimeComplete z flow dryDet leakDet) := statement_of _
theorem tsctlWrite (n : Nat) (v : Dword) : Statement (.tsctlWrite n v) := statement_of _
theorem traceFlush (n : Nat) : Statement (.traceFlush n) := statement_of _
theorem traceFlushDone (n : Nat) : Statement (.traceFlushDone n) := statement_of _
theorem dbgstop : Statement (.dbgstop) := statement_of _
theorem dbgrel : Statement (.dbgrel) := statement_of _
theorem worldRegisterWrite (off : Nat) (v : Dword) : Statement (.worldRegisterWrite off v) := statement_of _
theorem qtbOffsetMeasure (src : BitVec 2) (off : Int) : Statement (.qtbOffsetMeasure src off) := statement_of _
theorem regrd (off : Nat) : Statement (.regrd off) := statement_of _
theorem regwr (off : Nat) (v : Dword) : Statement (.regwr off v) := statement_of _
theorem warmrst : Statement (.warmrst) := statement_of _
theorem ckpt (live : Bool) (dst len : Nat) : Statement (.ckpt live dst len) := statement_of _
theorem checkpointComplete : Statement (.checkpointComplete) := statement_of _
theorem ckstat : Statement (.ckstat) := statement_of _
theorem qstep (ns : Nat) : Statement (.qstep ns) := statement_of _
theorem slewmax (ppm : Nat) : Statement (.slewmax ppm) := statement_of _
theorem devid (n : Nat) : Statement (.devid n) := statement_of _
theorem route (dev : Nat) (links : List Nat) : Statement (.route dev links) := statement_of _
theorem fwupd (img : List Byte) : Statement (.fwupd img) := statement_of _
theorem spdmRequest (r : SpdmReq) : Statement (.spdmRequest r) := statement_of _
theorem unallocatedEncoding (detail : BitVec 16) : Statement (.unallocatedEncoding detail) := statement_of _
theorem accessPerformed (blk i : Nat) (sc : BitVec 4) : Statement (.accessPerformed blk i sc) := statement_of _
theorem l1Eviction (core sector : Nat) : Statement (.l1Eviction core sector) := statement_of _
theorem l2Eviction (line : Nat) : Statement (.l2Eviction line) := statement_of _
theorem contextResetDone (ctx : Nat) : Statement (.contextResetDone ctx) := statement_of _
theorem hostPortLinkChange (up : Bool) : Statement (.hostPortLinkChange up) := statement_of _

end Sys2Proof.Laws.Encode
end

