-- ==== Sys2Proof/Tests/Slice0.lean ====
section
/-! SUPPORT. Tests: words of the spec's encoding and what they decode to; ill-formed terms that the checks refuse; single steps with results
from the spec's rules; and, for each statement with hypotheses, states and operands that meet them, clause by clause. -/

open Sys2Proof Sys2Proof.Machine Sys2Proof.Claims

namespace Sys2Proof.Tests

-- one check at a time, so that the compiler starts few threads
set_option Elab.async false

/-! Small states. -/

/-- A device with one block, Ready on core 0, nothing in flight. -/
def base : State := State.reset.placeBytes []
/-- The same with its block changed. -/
def bl (f : Block → Block) : State := base.modBlk 0 f
/-- The form of 64 bits with no modifier. -/
def f64 : Form := .w64 Mods.zero

theorem no_breakpoint (s : State) (h : s.bps = Vector.replicate 8 {}) (n : Nat) : (s.bp n).en = false := by
  unfold State.bp
  rw [h]
  by_cases hn : n < 8 <;> simp [hn]

/-- The queue registers of a queue with 4 places at the start of the shared store, holding n dwords. -/
def q4 (n : Nat) : Qcw := { d0 := 0x8000000003000000, d1 := BitVec.ofNat 64 (n * 2 ^ 26 + n % 4) }

theorem okPair {ε α σ : Type} {r : Except ε α × σ} (h : r.1.toBool = true) : ∃ t s, r = (.ok t, s) := by
  obtain ⟨_ | t, s⟩ := r
  · cases h
  · exact ⟨t, s, rfl⟩
theorem errPair {ε α σ : Type} {r : Except ε α × σ} (h : r.1.toBool = false) : ∃ e s, r = (.error e, s) := by
  obtain ⟨e | _, s⟩ := r
  · exact ⟨e, s, rfl⟩
  · cases h

theorem pairEq {ε α σ : Type} {r : Except ε α × σ} {t : Except ε α} (h : r.1 = t) : r = (t, r.2) := by rw [← h]

/-- The value of an answered result. -/
def okVal {ε α : Type} [Inhabited α] (r : Except ε α) : α :=
  match r with
  | .ok x => x
  | .error _ => default
theorem pairOk {ε α σ : Type} [Inhabited α] {r : Except ε α × σ} (h : r.1.toBool = true) : r = (.ok (okVal r.1), r.2) := by
  obtain ⟨_ | t, s⟩ := r
  · cases h
  · rfl

theorem okEx {ε α : Type} {r : Except ε α} (h : r.toBool = true) : ∃ x, r = .ok x := by
  cases r
  · cases h
  · exact ⟨_, rfl⟩

/-- A pending access of the block to the first bytes of its code page, the only one. -/
def pd (k : AccKind) : Pend := { id := 1, agent := .c, kind := k, addr := 0x40000, keys := [0x40000], pas := [0x40000] }
def ps (k : AccKind) : State := bl (fun b => { b with pend := [pd k] })
theorem near_of {s : State} {d k : Nat} (h1 : isHostKey k = false) (h2 : isOwnKey k = true) (h3 : portDie k = d) : s.linkTo d k = none := by
  simp [State.linkTo, h1, h2, h3]
theorem bl_blk (f : Block → Block) : (bl f).blk 0 = f (base.blk 0) := by simp [bl, State.modBlk, State.setBlk, State.blk]
theorem dieOf_bl {f : Block → Block} (h : (f (base.blk 0)).core = (base.blk 0).core) : portDie 0x40000 = dieOf ((bl f).blk 0).core := by
  rw [bl_blk, h]
  decide
theorem alone_of (p : Pend) (h : p.id = 1 ∧ p.stamp = 0 ∧ p.first = 0 := by exact ⟨rfl, rfl, rfl⟩) :
    ∀ e ∈ (bl (fun b => { b with pend := [p] })).blocks, ∀ q ∈ e.2.pend, (e.1 = 0 ∧ q.id = p.id) ∨ (q.stamp = 0 ∧ q.first = 0) := by
  intro e he q hq
  obtain rfl : e = _ := List.mem_singleton.mp he
  obtain rfl : q = p := List.mem_singleton.mp hq
  exact .inl ⟨rfl, rfl⟩
theorem oldest (k : AccKind) : Oldest (ps k) 0 (pd k) [] 0x40000 :=
  ⟨rfl, rfl, (fun _ h => nomatch h), rfl, near_of (by decide) (by decide) (dieOf_bl rfl), ⟨rfl, rfl, rfl, rfl, rfl⟩, (fun h => absurd (show 2 ≤ 0 from h) (by decide)), alone_of _⟩

/-- The translation of the code page. -/
def xl : Xl := { keys := [262144], rkey := 262144, c := true, sa := false, rep := false }

/-- A valid tile of 1 row and 16 columns of i32 in a store, one instance. -/
def tile (space et : Nat) (d4 d5 : Dword) : Tsr :=
  { d0 := BitVec.ofNat 64 (space * 2 ^ 62 + 2 ^ 56 + 15 * 2 ^ 40 + 64 * 2 ^ 20), d1 := BitVec.ofNat 64 (64 * 2 ^ 48 + et * 2 ^ 42), d4, d5 }

/-- A tile instruction in flight that holds nothing of the block's tiles. -/
def fly (i : Instr) (id : Nat) : Flight := { id, pc := 0, instr := i }

/-- An accumulator tile of fp32 of class GE, a dense i8 tile and a bit-plane tile of 4 planes, as MMAV takes them, with rows attached. -/
def accT (rows cols vclass thrsel : Nat) (d5 : Dword) : Tsr :=
  { d0 := BitVec.ofNat 64 (2 ^ 62 + 2 ^ 56 + (rows - 1) * 2 ^ 48 + (cols - 1) * 2 ^ 40 + 64 * 2 ^ 20), d1 := BitVec.ofNat 64 (64 * 2 ^ 48 + 0x14 * 2 ^ 42)
    d4 := BitVec.ofNat 64 (vclass * 2 ^ 46 + thrsel * 2 ^ 38), d5 }
def actT : Tsr := { d0 := BitVec.ofNat 64 (2 ^ 56 + 15 * 2 ^ 40 + 64 * 2 ^ 20), d1 := BitVec.ofNat 64 (64 * 2 ^ 48 + 5 * 2 ^ 42) }
def bitT : Tsr := { d0 := BitVec.ofNat 64 (2 ^ 56 + 15 * 2 ^ 48 + 15 * 2 ^ 40 + 256 * 2 ^ 20 + 64), d1 := BitVec.ofNat 64 (16 * 2 ^ 48 + 5 * 2 ^ 42 + 2 * 2 ^ 40 + 4 * 2 ^ 35) }

theorem no_gate (s : State) (h : s.zones = Vector.replicate 24 {}) (n : Nat) : (s.zone n).gated = false := by
  unfold State.zone
  rw [h]
  by_cases hn : n < 24 <;> simp [hn]

/-- The block with one tile instruction in flight. -/
def unit (f : Flight) (g : Block → Block := id) : State := bl (fun b => g { b with flights := [f] })
theorem unit_blk (f : Flight) (g : Block → Block) : (unit f g).blk 0 = g { base.blk 0 with flights := [f] } := bl_blk _
theorem oldest1 (f : Flight) (g : Block → Block) (h1 : f.fin = false ∧ f.lane = none ∧ f.unit = none ∧ f.fm = none ∧ f.m = none ∧ f.sample = false)
    (h : let b := g { base.blk 0 with flights := [f] }; b.st = .ready ∧ b.restoring = false ∧ b.trapP = none ∧ b.flights = [f] ∧ b.pend = []) : Oldest1 (unit f g) 0 f [] [] := by
  refine ⟨rfl, ?_, ?_, ⟨h1.1, fun _ h => (nomatch h), fun _ h => (nomatch h)⟩, h1.2, ?_⟩
  · rw [unit_blk]
    exact ⟨h.1, h.2.1, h.2.2.1, no_gate _ rfl _⟩
  · rw [unit_blk]
    exact h.2.2.2.1
  · rw [unit_blk, h.2.2.2.2]
    exact fun _ h => nomatch h

/-- An element-wise addition in flight over tiles 1 to 3, the oldest. -/
def addF : Flight := { fly (.tadd .w32 1 2 3) 4 with d := some ⟨1, tile 0 7 0 0, 0⟩, a := some ⟨2, tile 0 7 0 0, 0⟩, b := some ⟨3, tile 0 7 0 0, 0⟩ }

/-- An MMAV in flight over vs1's tiles, holding its place, at a plane. -/
def mvF (p : Nat) : Flight :=
  { fly (.mmav .w32 1 2 3) 4 with
    d := some ⟨1, accT 1 16 2 0 0, 0⟩, a := some ⟨2, actT, 0⟩, b := some ⟨3, bitT, 0⟩, sc := [4], idx := { plane := p },
    verd := some { placed := true, els := [], thr := 0 } }

/-- One loop level whose body is the instruction at the pc. -/
def lv : Level := { start := 0x40000, lenm1 := 0, count := 2, index := 0 }

/-- A TMAP of one element over the valid tile 1, its lane function at the code page and about to run; its block has 1,024 bytes of lane store per lane. -/
def lrun (x : LaneRun) (i : Instr := .tmap f64 1 1 1) (f : Block → Block := id) : State :=
  let o : Opnd := ⟨1, tile 0 7 0 0, 0⟩
  { bl (fun b => f { b.setTsr 1 (tile 0 7 0 0) with
      hdr := { b.hdr with lane := 1024 }, flights := [{ fly i 9 with d := some o, a := some o, b := some o, c := some o, lane := some x }] }) with curFlight := 9 }
def lx : LaneRun := { els := [(0, 0)], lpc := 0x40010 }


/-! ## Encodings -/

/-- The instruction that the decoder reads from the words of an instruction, and the lane decoder from a word. -/
def fromWords (w : List Word) : Option Instr := (decodeWords (w.getD 0 0) (w.getD 1 0) (w.getD 2 0)).toOption
def fromLane (w : List Word) : Option Instr := (decodeLane (w.getD 0 0)).toOption

/-- Words of R87 with their fields written out (bits 7:2 the major, 31:26 F or the fields of the format) decode to the instructions they stand for. -/
theorem test_words_0 : ∀ x ∈ ([
      ([0x00C28504], .add .w32 5 10 12), ([0x04C28504], .sub .w32 5 10 12), ([0x08C28504], .mul .w32 5 10 12), ([0x0CC28504], .mulh .w32 5 10 12),
      ([0x10C28504], .mulhn .w32 5 10 12), ([0x14C28504], .div .w32 5 10 12), ([0x18C28504], .divn .w32 5 10 12), ([0x1CC28504], .rem .w32 5 10 12),
      ([0x20C28504], .remn .w32 5 10 12), ([0x24C28504], .and_ .w32 5 10 12), ([0x28C28504], .or_ .w32 5 10 12), ([0x2CC28504], .xor_ .w32 5 10 12),
      ([0x30C28504], .andn .w32 5 10 12), ([0x34C28504], .shl .w32 5 10 12), ([0x38C28504], .shr .w32 5 10 12), ([0x3CC28504], .sra .w32 5 10 12),
      ([0x40C28504], .rotr .w32 5 10 12), ([0x44C28504], .min_ .w32 5 10 12)] : List (List Word × Instr)), fromWords x.1 = some x.2 := by decide +kernel

/-- Words of R87 with their fields written out (bits 7:2 the major, 31:26 F or the fields of the format) decode to the instructions they stand for. -/
theorem test_words_1 : ∀ x ∈ ([
      ([0x48C28504], .max_ .w32 5 10 12), ([0x4CC28504], .minn .w32 5 10 12), ([0x50C28504], .maxn .w32 5 10 12), ([0xF8528508], .addI .w32 0xf85 5 10),
      ([0xF852850C], .andI .w32 0xf85 5 10), ([0xF8528510], .orI .w32 0xf85 5 10), ([0xF8528514], .xorI .w32 0xf85 5 10),
      ([0x02528518], .shlI .w32 37 5 10), ([0x06528518], .shrI .w32 37 5 10), ([0x0A528518], .sraI .w32 37 5 10), ([0x0E528518], .rotrI .w32 37 5 10),
      ([0x0002851C], .clz .w32 5 10), ([0x0402851C], .ctz .w32 5 10), ([0x0802851C], .popc .w32 5 10), ([0x0C22851C], .sext .w32 5 10 2),
      ([0x1012851C], .zext .w32 5 10 1), ([0x1402851C], .mov .w32 5 10), ([0x10C28520], .cmp .w32 4 5 10 12)] : List (List Word × Instr)), fromWords x.1 = some x.2 := by decide +kernel

/-- Words of R87 with their fields written out (bits 7:2 the major, 31:26 F or the fields of the format) decode to the instructions they stand for. -/
theorem test_words_2 : ∀ x ∈ ([
      ([0x2CC28524], .sel .w32 true 3 5 10 12), ([0x00000C2A, 0, 0x89ABCDEF], .li (.w96 Mods.zero 0x89ABCDEF) 0 12),
      ([0x80C2852C], .fadd .w32 true 5 10 12), ([0x84C2852C], .fsub .w32 true 5 10 12), ([0x88C2852C], .fmul .w32 true 5 10 12),
      ([0x8CC2852C], .fdiv .w32 true 5 10 12), ([0x90C2852C], .fmin .w32 true 5 10 12), ([0x94C2852C], .fmax .w32 true 5 10 12),
      ([0x8CC28530], .fcmp .w32 true 3 5 10 12), ([0x50728534], .fcvt .w32 20 7 5 10), ([0x80028538], .fclass .w32 true 5 10),
      ([0xFFFF6640], .br .w32 0x3fffd true 6), ([0xFFC1CA44], .brz .w32 0x3ff07 10), ([0xFFC1CA48], .bnz .w32 0x3ff07 10),
      ([0x03FF074C], .jmp .w32 0x3ff07), ([0x03FF0750], .call .w32 0x3ff07), ([0x00028554], .jr .w32 5 10), ([0x04000054], .ret .w32)] : List (List Word × Instr)), fromWords x.1 = some x.2 := by decide +kernel

/-- Words of R87 with their fields written out (bits 7:2 the major, 31:26 F or the fields of the format) decode to the instructions they stand for. -/
theorem test_words_3 : ∀ x ∈ ([
      ([0x9C418058], .loopn 0x1388 6 0), ([0x0000005C], .endlp), ([0x0408805C], .brkl true 2), ([0xFEE28560], .ld .w32 0x1fd 6 5 10),
      ([0x7FB28564], .st .w32 0xff 3 5 10), ([0x80528568], .lds .w32 0x100 5 5 10), ([0x00A2856C], .sts .w32 1 2 5 10),
      ([0x80C28570], .amoAdd .w32 true 5 10 12), ([0x84C28570], .amoAnd .w32 true 5 10 12), ([0x88C28570], .amoOr .w32 true 5 10 12),
      ([0x8CC28570], .amoXor .w32 true 5 10 12), ([0x90C28570], .amoMin .w32 true 5 10 12), ([0x94C28570], .amoMax .w32 true 5 10 12),
      ([0x98C28570], .amoMinn .w32 true 5 10 12), ([0x9CC28570], .amoMaxn .w32 true 5 10 12), ([0xA0C28570], .amoSwap .w32 true 5 10 12),
      ([0x24C28571, 0x0038001F], .cas (.w64 { Mods.zero with scope := 7, c := 31 }) false 5 10 12), ([0x00700074], .fenceCt .w32 7)] : List (List Word × Instr)), fromWords x.1 = some x.2 := by decide +kernel

/-- Words of R87 with their fields written out (bits 7:2 the major, 31:26 F or the fields of the format) decode to the instructions they stand for. -/
theorem test_words_4 : ∀ x ∈ ([
      ([0x04700074], .fenceTc .w32 7), ([0x08700074], .fenceTt .w32 7), ([0x0C700074], .fenceAll .w32 7), ([0x10000074], .tdrain .w32),
      ([0x14600074], .bar .w32 6 0), ([0x18C28574], .waitaEq .w32 5 10 12), ([0x1CC28574], .waitaNe .w32 5 10 12),
      ([0x20C28574], .waitaGen .w32 5 10 12), ([0x24028074], .slpt .w32 10), ([0x00000578], .rdtime .w32 5), ([0x04000078], .yield_ .w32),
      ([0x08000078], .exit .w32), ([0x0C000078], .nop .w32), ([0x11D00578], .rdsr .w32 29 5), ([0x14128078], .wrsr .w32 1 10),
      ([0x18000078], .eret .w32), ([0x1EAF0078], .trap .w32 0xabc), ([0x21694078], .bbx .w32 0x5a5)] : List (List Word × Instr)), fromWords x.1 = some x.2 := by decide +kernel

/-- Words of R87 with their fields written out (bits 7:2 the major, 31:26 F or the fields of the format) decode to the instructions they stand for. -/
theorem test_words_5 : ∀ x ∈ ([
      ([0x00F2807C], .qcfg .w32 15 10), ([0x0430057C], .qtry .w32 3 5), ([0x08C2857C], .launch .w32 5 10 12), ([0x0C02857C], .heatq .w32 5 10 0),
      ([0x00C28580], .tshape .w32 5 10 12), ([0x04028580], .tbind .w32 5 10), ([0x08228580], .tbound .w32 2 5 10), ([0x0C028580], .tmon .w32 5 10),
      ([0x10C28580], .tverd .w32 5 10 12), ([0x14000580], .tfree .w32 5), ([0x18728580], .trdsh .w32 5 10 7), ([0xFE128584], .tld .w32 0xfe 1 5 10),
      ([0x7F028588], .tst .w32 0x7f 0 5 10), ([0x8052858C], .tstr .w32 0x80 5 5 10), ([0x00C28590], .tldg .w32 5 10 12),
      ([0x00C28594], .tstg .w32 5 10 12), ([0x00028598], .tcopy .w32 5 10), ([0x04028598], .tfill .w32 5 10)] : List (List Word × Instr)), fromWords x.1 = some x.2 := by decide +kernel

/-- Words of R87 with their fields written out (bits 7:2 the major, 31:26 F or the fields of the format) decode to the instructions they stand for. -/
theorem test_words_6 : ∀ x ∈ ([
      ([0x08C28598], .tiota .w32 5 10 12), ([0x0C028598], .ttrans .w32 5 10), ([0x10028598], .tcvt .w32 5 10), ([0x14D28598], .tbfly .w32 true 5 5 10),
      ([0x18C28598], .tcmpr .w32 5 10 12), ([0x1CC28598], .texpd .w32 5 10 12), ([0x20128598], .tbcast .w32 true 5 10),
      ([0x0002859C], .tsend .w32 5 10), ([0x0402859C], .trecv .w32 5 10), ([0x08C2809C], .tldl .w32 12 10), ([0x0CC0059C], .tstl .w32 12 5),
      ([0x00C285C0], .tadd .w32 5 10 12), ([0x04C285C0], .tsub .w32 5 10 12), ([0x08C285C0], .tmul .w32 5 10 12), ([0x0CC285C0], .tdiv .w32 5 10 12),
      ([0x10C285C0], .tmin .w32 5 10 12), ([0x14C285C0], .tmax .w32 5 10 12), ([0x18C285C0], .tscale .w32 5 10 12)] : List (List Word × Instr)), fromWords x.1 = some x.2 := by decide +kernel

/-- Words of R87 with their fields written out (bits 7:2 the major, 31:26 F or the fields of the format) decode to the instructions they stand for. -/
theorem test_words_7 : ∀ x ∈ ([
      ([0x00C285C5, 0x00000007], .tfma (.w64 { Mods.zero with c := 7 }) 5 10 12),
      ([0x04C285C5, 0x00000007], .tclamp (.w64 { Mods.zero with c := 7 }) 5 10 12),
      ([0x08C285C5, 0x20000007], .tsel (.w64 { Mods.zero with v := true, c := 7 }) 5 10 12), ([0x000285C8], .tsqrt .w32 5 10),
      ([0x040285C8], .trsq .w32 5 10), ([0x080285C8], .trcp .w32 5 10), ([0x0C0285C8], .texp2 .w32 5 10), ([0x100285C8], .tlog2 .w32 5 10),
      ([0x140285C8], .tabs .w32 5 10), ([0x180285C8], .tneg .w32 5 10), ([0x18C285CC], .tcmp .w32 6 5 10 12), ([0x00C285D0], .tand .w32 5 10 12),
      ([0x04C285D0], .tor .w32 5 10 12), ([0x08C285D0], .txor .w32 5 10 12), ([0x0C0285D0], .tnot .w32 5 10), ([0x10C285D0], .tshl .w32 5 10 12),
      ([0x14C285D0], .tshr .w32 5 10 12), ([0x18C285D0], .tsra .w32 5 10 12)] : List (List Word × Instr)), fromWords x.1 = some x.2 := by decide +kernel

/-- Words of R87 with their fields written out (bits 7:2 the major, 31:26 F or the fields of the format) decode to the instructions they stand for. -/
theorem test_words_8 : ∀ x ∈ ([
      ([0x1C0285D0], .tclz .w32 5 10), ([0x200285D0], .tctz .w32 5 10), ([0x240285D0], .tpopc .w32 5 10), ([0x50C280D4], .tred .w32 2 4 0 10 12),
      ([0x2C0285D8], .tscan .w32 1 3 5 10), ([0x080285DC], .targmx .w32 2 5 10), ([0x000285E0], .tchkf .w32 5 10), ([0x040285E0], .tany .w32 5 10),
      ([0x080285E0], .tall .w32 5 10), ([0x000285F0], .matt .w32 5 10), ([0x001285F0], .mattW .w32 5 10), ([0x040000F0], .mdet .w32),
      ([0x08C285F0], .mma .w32 5 10 12), ([0x0CC285F1, 0x00000007], .mmas (.w64 { Mods.zero with c := 7 }) 5 10 12), ([0x10C285F0], .mmav .w32 5 10 12),
      ([0x140005F0], .azero .w32 5), ([0x18C285F0], .ttopk .w32 5 10 12), ([0x1C0285F0], .thrup .w32 5 10)] : List (List Word × Instr)), fromWords x.1 = some x.2 := by decide +kernel

/-- Words of R87 with their fields written out (bits 7:2 the major, 31:26 F or the fields of the format) decode to the instructions they stand for. -/
theorem test_words_9 : ∀ x ∈ ([
      ([0x00C285F6, 0x00000007, 0x00000040], .tmap (.w96 { Mods.zero with c := 7 } 0x40) 5 10 12),
      ([0x04C285F6, 0x00000007, 0xFFFFFFC0], .tmapr (.w96 { Mods.zero with c := 7 } 0xFFFFFFC0) 5 10 12), ([0x00C285F8], .tcred .w32 5 10 12),
      ([0x04C285F8], .tcbc .w32 5 10 12), ([0x08C285F8], .tcag .w32 5 10 12), ([0x00C280FC], .monset .w32 12 10), ([0x04C280FC], .monref .w32 12 10),
      ([0x086285FC], .monrd .w32 5 10 6), ([0x0C0280FC], .monclr .w32 10)] : List (List Word × Instr)), fromWords x.1 = some x.2 := by decide +kernel

/-- Lane words of R90, likewise. -/
theorem test_lane_words_0 : ∀ x ∈ ([
      ([0x1CC28504], .ladd 7 12 10 5), ([0x0CC28508], .lsub 3 12 10 5), ([0x50C2850C], .lmul 20 12 10 5), ([0x24C28510], .lfma 9 12 10 5),
      ([0x1CC28514], .ldiv 7 12 10 5), ([0x0CC28518], .land 3 12 10 5), ([0x0CC2851C], .lor 3 12 10 5), ([0x0CC28520], .lxor 3 12 10 5),
      ([0x0CC28524], .lshl 3 12 10 5), ([0x0CC28528], .lshr 3 12 10 5), ([0x0CC2852C], .lsra 3 12 10 5), ([0x0CC28530], .lcmp 3 12 10 5),
      ([0x7CC28534], .lsel 31 12 10 5), ([0x50C28538], .lmin 20 12 10 5), ([0x1CC2853C], .lmax 7 12 10 5), ([0x48628540], .lcvt 18 6 10 5)] : List (List Word × Instr)), fromLane x.1 = some x.2 := by decide +kernel

/-- Lane words of R90, likewise. -/
theorem test_lane_words_1 : ∀ x ∈ ([
      ([0x0C028544], .lclz 3 10 5), ([0x0C028548], .lpopc 3 10 5), ([0x5002854C], .lexp2 20 10 5), ([0x50028550], .llog2 20 10 5),
      ([0x50028554], .lrsq 20 10 5), ([0xBC3C7558], .lli 0x2f0f1 true 21), ([0x1C02855C], .lmov 7 10 5), ([0xFFE28560], .lld 0xffe 10 5),
      ([0x00328564], .lst 3 10 5), ([0x48C28568], .lldt 18 12 10 5), ([0x18C2856C], .lstt 6 12 10 5), ([0xFFFF0A70], .lbr 0x3fffc 10),
      ([0xFFFFF074], .lj 0xfffff0), ([0x12345678], .lcall 0x123456), ([0x0000007C], .lret), ([0x00000080], .lend)] : List (List Word × Instr)), fromLane x.1 = some x.2 := by decide +kernel


/-! ## Checks and steps -/

/-- A 64-bit form with the modifiers set. -/
def m64 (f : Mods → Mods) : Form := .w64 (f Mods.zero)

/-- Register and length checks (R28, R84, R85, R107, R167): each term breaks one of them, and its DETAIL is the bit of the field (R86). -/
theorem test_ill_formed_registers : ∀ x ∈ ([
      (.cas .w32 false 5 10 12, 0), (.nop (.w96 Mods.zero 0), 0), (.li .w32 0 5, 0), (.tmap f64 1 2 3, 0), (.add .w32 49 10 12, 8), (.add .w32 5 51 51, 14), (.cmp .w32 0 8 1 2, 8),
      (.tbound .w32 0 1 63, 14), (.tld .w32 0 0 1 47, 14), (.monset .w32 55 1, 20), (.tany .w32 9 1, 8)] : List (Instr × Nat)), x.1.wf = false ∧ (instrInfo x.1).bind (fun i => lowest i.faults) = some x.2 := by
  decide +kernel

/-- Checks of an instruction's own fields (R83, R85, R87 and the chapters). -/
theorem test_ill_formed_fields : ∀ x ∈ ([
      (.addI (.w96 Mods.zero 1) 1 5 10, 20), (.sext .w32 5 10 3, 20), (.cmp .w32 6 1 2 3, 26), (.li (.w96 Mods.zero 1) 3 5, 26), (.fcmp .w32 false 4 1 2 3, 26), (.fcvt .w32 0 0x14 5 10, 26),
      (.fcvt .w32 0x14 9 5 10, 20), (.loopn 1 0 5, 19), (.ld .w32 0 7 5 10, 20), (.st .w32 0 4 5 10, 20), (.lds (.w96 Mods.zero 8) 1 3 5 10, 23), (.sts .w32 0 5 5 10, 20), (.fenceCt .w32 1, 20),
      (.fenceAll .w32 12, 20), (.bar .w32 6 5, 14), (.bar .w32 9 0, 20), (.rdsr .w32 0x1E 5, 20), (.wrsr .w32 0 5, 20), (.qcfg .w32 16 5, 20), (.qtry .w32 16 5, 20), (.heatq .w32 5 10 1, 14),
      (.heatq .w32 5 0 2, 20), (.trdsh .w32 5 1 8, 20), (.tld .w32 0 2 1 2, 20), (.tst .w32 0 1 1 2, 20), (.tstr .w32 0 6 1 2, 20), (.tld .w32 0 8 1 2, 23), (.tst (.w96 Mods.zero 0) 1 0 1 2, 24),
      (.tld (.w96 Mods.zero 0xC001) 0 8 1 2, 77), (.tstr (.w96 Mods.zero 0x20000000) 0 8 1 2, 93), (.tcmp .w32 7 1 2 3, 26), (.tred .w32 2 0 1 2 5, 8), (.tred .w32 0 0 1 2 5, 20), (.tred .w32 2 0 0 2 49, 20),
      (.tred .w32 0 5 1 2 0, 26), (.tred .w32 3 0 1 2 0, 29), (.tscan .w32 2 0 1 2, 29), (.tscan (m64 fun m => { m with rnd := 4 }) 0 1 1 2, 47), (.targmx .w32 3 1 2, 26),
      (.tmap (.w96 Mods.zero 2) 1 2 3, 64), (.monrd .w32 5 10 7, 20)] : List (Instr × Nat)), x.1.wf = false ∧ (instrInfo x.1).bind (fun i => lowest i.faults) = some x.2 := by
  decide +kernel

/-- Checks of the modifier word (R80, R81, R88, R130, R134). -/
theorem test_ill_formed_modifiers : ∀ x ∈ ([
      (.add (m64 fun m => { m with c := 1 }) 5 10 12, 32), (.add (m64 fun m => { m with pmode := 3 }) 5 10 12, 38), (.eret (m64 fun m => { m with pmode := 1 }), 38),
      (.add (m64 fun m => { m with pmode := 2 }) 5 10 12, 38), (.add (m64 fun m => { m with psel := 1 }) 5 10 12, 40), (.add (m64 fun m => { m with pmode := 1, psel := 8 }) 5 10 12, 40),
      (.add (m64 fun m => { m with pneg := true }) 5 10 12, 46), (.add (m64 fun m => { m with rnd := 4 }) 5 10 12, 47), (.fadd (m64 fun m => { m with rnd := 3 }) false 5 10 12, 47),
      (.and_ (m64 fun m => { m with sat := true }) 5 10 12, 50), (.add (m64 fun m => { m with scope := 2 }) 5 10 12, 51), (.tld (m64 fun m => { m with scope := 1 }) 0 0 1 2, 51),
      (.ld (m64 fun m => { m with ord := 1 }) 0 3 5 10, 51), (.st (m64 fun m => { m with scope := 7 }) 0 3 5 10, 51), (.amoAdd f64 false 5 10 12, 51), (.tadd (m64 fun m => { m with ty := 9 }) 1 2 3, 55),
      (.tadd (m64 fun m => { m with v := true }) 1 2 3, 61), (.add (m64 fun m => { m with ord := 1 }) 5 10 12, 62), (.ld (m64 fun m => { m with ord := 2, scope := 7 }) 0 3 5 10, 62),
      (.st (m64 fun m => { m with ord := 1, scope := 7 }) 0 3 5 10, 62)] : List (Instr × Nat)), x.1.wf = false ∧ (instrInfo x.1).bind (fun i => lowest i.faults) = some x.2 := by
  decide +kernel

/-- Checks of lane words (R89, R221). -/
theorem test_ill_formed_lane : ∀ i ∈ ([
      .ladd 7 1 2 32, .lsub 7 1 32 3, .lmul 7 32 2 3, .ldiv 0x12 1 2 3, .land 0x14 1 2 3, .lldt 8 1 2 3, .lfma 32 1 2 3, .lsel 1 2 3 33, .lcvt 0x15 7 1 2, .lcvt 7 4 1 2, .lclz 0x14 1 2, .lexp2 7 1 2,
      .lmov 0x12 1 2, .lld 0 32 1, .lst 0 1 32, .lbr 0 32] : List Instr), i.wf = false := by
  decide +kernel

/-- R27, R85: a word that breaks a check is refused at that bit: a pop port as destination; F = 21 of major 0x01 (R86); the all-ones word; a reserved bit of BR. -/
theorem test_refused_words :
    decodeWords 0x00C2B104 0 0 = .error 8 ∧ decodeWords 0x54C28504 0 0 = .error 26 ∧ decodeWords 0xFFFFFFFF 0 0 = .error 0 ∧ decodeWords 0x00000840 0 0 = .error 11 ∧
    decodeLane 0x00C28505 = .error 0 ∧ decodeLane 0x00000000 = .error 2 ∧ decodeLane 0x00000084 = .error 2 :=
  ⟨rfl, rfl, rfl, rfl, rfl, rfl, rfl⟩

/-! Steps of the whole device from the state after reset. -/

/-- The device after one step on an instruction placed at the pc, its block changed first. -/
def after (i : Instr) (f : Block → Block := id) : Option State :=
  match step ((State.reset.placeBytes (encodeBytes i)).modBlk 0 f) with
  | .next s => some s
  | _ => none
/-- What a register of the block holds after it; the block's pc; its trap cause and DETAIL. -/
def regAfter (i : Instr) (r : R6) (f : Block → Block := id) : Option Dword := (after i f).map (fun s => (s.blk 0).reg r)
def pcAfter (i : Instr) (f : Block → Block := id) : Option VAddr := (after i f).map (fun s => (s.blk 0).pc)
def causeAfter (i : Instr) (f : Block → Block := id) : Option Dword := (after i f).map (fun s => (s.blk 0).tcause)

/-- R110, R111: the sum wraps, or with .sat clamps at 2^63 - 1; the quotient of the most negative number by -1 is itself; a division by 0 gives all ones and the dividend. -/
theorem test_add_wraps : regAfter (.add .w32 5 3 3) 5 (fun b => b.setReg 3 0x8000000000000001) = some 2 := by decide +kernel
theorem test_add_sat : regAfter (.add (m64 fun m => { m with sat := true }) 5 3 3) 5 (fun b => b.setReg 3 0x7000000000000000) = some 0x7FFFFFFFFFFFFFFF := by decide +kernel
theorem test_div_overflow : regAfter (.div .w32 5 3 4) 5 (fun b => (b.setReg 3 0x8000000000000000).setReg 4 0xFFFFFFFFFFFFFFFF) = some 0x8000000000000000 := by decide +kernel
theorem test_rem_by_zero : regAfter (.rem .w32 3 3 0) 3 (fun b => b.setReg 3 7) = some 7 := by decide +kernel
theorem test_sra_counts_low_six_bits : regAfter (.sra .w32 5 3 4) 5 (fun b => (b.setReg 3 0xFFFFFFFFFFFFFF00).setReg 4 68) = some 0xFFFFFFFFFFFFFFF0 := by decide +kernel
theorem test_li_high_half : regAfter (.li (.w96 Mods.zero 0x89ABCDEF) 2 5) 5 (fun b => b.setReg 5 0x1111111122222222) = some 0x89ABCDEF22222222 := by decide +kernel

/-- R30: a write to s0 is discarded. R77: the pc moves past the words. R79: a branch offset counts words from the branch, whatever its length. -/
theorem test_s0_stays : regAfter (.addI .w32 5 0 0) 0 = some 0 := by decide +kernel
theorem test_pc_past_96_bits : pcAfter (.li (.w96 Mods.zero 1) 0 5) = some 0x4000C := by decide +kernel
theorem test_branch_back : pcAfter (.bnz f64 0x3FFFD 5) (fun b => b.setReg 5 1) = some 0x3FFF4 := by decide +kernel
theorem test_call_links : regAfter (.call f64 2) 63 = some 0x40008 := by decide +kernel

/-- R81: an instruction whose condition is not met only moves on. R86: 0x5440C504 is ILLEGAL with DETAIL 0x801A. R148: TRAP is cause 15 with its immediate. -/
theorem test_predicate_off : regAfter (.addI (m64 fun m => { m with pmode := 1, psel := 3 }) 5 5 0) 5 = some 0 := by decide +kernel
theorem test_illegal_word : (match step ((State.reset.placeBytes (leBytes 4 0x5440C504))) with
    | .next s => some ((s.blk 0).tcause, (s.blk 0).tpc, (s.blk 0).pc)
    | _ => none) = some (0x801A0001, 0x40000, 0x40100) := by decide +kernel
theorem test_trap_cause : causeAfter (.trap .w32 0xABC) = some 0x0ABC000F := by decide +kernel

/-- R58: FP32 1.0 divided by 0 gives infinity and DZ, and traps (8, DETAIL 3) when DZ is enabled. -/
theorem test_fdiv_by_zero : regAfter (.fdiv .w32 false 5 3 4) 5 (fun b => b.setReg 3 0x3F800000) = some 0x7F800000 := by decide +kernel
theorem test_fdiv_traps : causeAfter (.fdiv .w32 false 5 3 4) (fun b => { b.setReg 3 0x3F800000 with mode := 0x0800 }) = some 0x00030008 := by decide +kernel
theorem test_fcvt_saturates : regAfter (.fcvt (m64 fun m => { m with sat := true }) 0x05 0x14 5 3) 5 (fun b => b.setReg 3 0x43960000) = some 127 := by decide +kernel

/-- R27, R28: a dword pushed and popped; a pop from an empty port waits. -/
theorem test_pop_oldest : regAfter (.mov .w32 5 49) 5 (fun b => { b.setQcw 1 (q4 2) with shared := [(0, 9)] }) = some 9 := by decide +kernel
theorem test_pop_empty_waits : (after (.mov .w32 5 49) (fun b => b.setQcw 1 (q4 0))).map (fun s => ((s.blk 0).st, (s.blk 0).pc)) = some (.waiting (.port 1), 0x40000) := by decide +kernel

/-! One event of the device on a small state. -/

/-- The first element of tile 1 and the NV flag after one unit of an element-wise instruction on tiles over the same bytes of the shared store. -/
def unitAfter (f : Flight) (sh : Mem) : Option (Nat × Dword) :=
  match exec (.unitCommit 0 0) (unit f (fun b => { b with shared := sh })) with
  | .next s => some ((s.blk 0).elt (tile 0 7 0 0) 0 0 0, (s.blk 0).fflags)
  | _ => none

/-- R188: i32 addition wraps, and with .sat clamps. -/
theorem test_tadd_wraps : unitAfter addF [(3, 0x80)] = some (0, 0) := by decide +kernel
theorem test_tadd_sat : unitAfter { addF with instr := .tadd (m64 fun m => { m with sat := true }) 1 2 3 } [(3, 0x80)] = some (0x80000000, 0) := by decide +kernel

/-- R129, R132, R239: a byte stored, and the signed minimum of a dword with the old value returned. -/
def memAfter (i : Instr) (k : AccKind) (a : Nat) : Option (Byte × Dword) :=
  match exec i { ps k with mem := (ps k).mem.write 0x40000 [5] } with
  | .next s => some (Mem.get s.mem a, (s.blk 0).reg 5)
  | _ => none
theorem test_store_bytes : memAfter (.accessPerformed 0 0 11) (.wr [1, 2]) 0x40001 = some (2, 0) := by decide +kernel
theorem test_amo_min : memAfter (.accessPerformed 0 0 11) (.rmw .min 8 0xFFFFFFFFFFFFFFFE 0 5 true) 0x40007 = some (0xFF, 5) := by decide +kernel

/-! ## Witnesses -/

theorem wit_ScalarInstructionWritesResult :
    (∃ x, ∃ vs : List Dword, (intRule base.me.cond (.add .w32 5 3 4) = some x ∨ readRule base (.add .w32 5 3 4) = some x) ∧ base.Goes x.form ∧
      (∀ n ∈ x.conds, base.me.busyK n = false) ∧ x.srcs.map (srcValue base) = vs.map some ∧ base.Ready x.dst) ∧
    (∃ x, ∃ vs : List Dword, (intRule base.me.cond (.rdtime f64 0) = some x ∨ readRule base (.rdtime f64 0) = some x) ∧ base.Goes x.form ∧
      (∀ n ∈ x.conds, base.me.busyK n = false) ∧ x.srcs.map (srcValue base) = vs.map some ∧ base.Ready x.dst) ∧
    (∃ v, cmpCond 5 0 0 = some v ∧ base.Goes .w32 ∧ [1, 2].map (srcValue base) = [some 0, some 0] ∧ base.me.busyK 7 = false) :=
  ⟨⟨_, [0, 0], .inl rfl, State.goes_w32 _, by decide, by decide, by unfold State.Ready; decide⟩,
   ⟨_, [], .inr rfl, by unfold State.Goes; decide, by decide, by decide, by unfold State.Ready; decide⟩,
   ⟨_, rfl, State.goes_w32 _, by decide, by decide⟩⟩

theorem wit_InstructionSkippedOrHeld :
    (∃ x, instrInfo (.tadd (.w64 { Mods.zero with pmode := 1, psel := 3 }) 1 2 3) = some x ∧ x.acc.cond = true ∧ base.Skips x.form) ∧
    (∃ x, intRule (bl (fun b => { b with pend := [{ id := 1, agent := .c, kind := .rd 3 5, addr := 0, pas := [0] }] })).me.cond (.add .w32 6 5 4) = some x ∧
      (∀ r ∈ x.dst :: x.srcs, isPort r = false) ∧
      (∃ r ∈ x.dst :: x.srcs, (bl (fun b => { b with pend := [{ id := 1, agent := .c, kind := .rd 3 5, addr := 0, pas := [0] }] })).me.busy r = true)) ∧
    (popPort 49 = true ∧ ((bl (fun b => b.setQcw 1 (q4 0))).me.qcwOf (queueOf 49)).v = true ∧
      bitOf (bl (fun b => b.setQcw 1 (q4 0))).me.hdr.roles (roleOf (queueOf 49)) = true ∧ ((bl (fun b => b.setQcw 1 (q4 0))).me.qcwOf (queueOf 49)).count = 0) :=
  ⟨⟨_, rfl, by decide, by unfold State.Skips; decide⟩, ⟨_, rfl, by decide, by decide⟩, by decide⟩

theorem wit_FloatArithmetic :
    (∃ x va vb, fpRule (.fdiv .w32 false 5 3 4) = some x ∧ base.Goes x.form ∧ [x.a, x.b].map (srcValue base) = [some va, some vb] ∧ base.Ready x.dst ∧
      isAbandoned x.p (fpOperand x.p va) = false ∧ isAbandoned x.p (fpOperand x.p vb) = false ∧ trapFlag base.me (x.result base.me va vb).2 = none) ∧
    (∃ x va vb, let s := bl (fun b => b.setReg 3 0x7F800AB0); fpRule (.fadd .w32 false 5 3 4) = some x ∧ [x.a, x.b].map (srcValue s) = [some va, some vb] ∧
      s.Ready x.dst ∧ isAbandoned x.p (fpOperand x.p va) = true) ∧
    (∃ x va vb n, let s := bl (fun b => { b with mode := 0x1000 }); fpRule (.fdiv .w32 true 5 3 4) = some x ∧ [x.a, x.b].map (srcValue s) = [some va, some vb] ∧
      s.Ready x.dst ∧ isAbandoned x.p (fpOperand x.p va) = false ∧ trapFlag s.me (x.result s.me va vb).2 = some n) :=
  ⟨⟨_, 0, 0, rfl, State.goes_w32 _, by decide, by unfold State.Ready; decide, by decide, by decide, by decide⟩,
   ⟨_, 0x7F800AB0, 0, rfl, by decide, by unfold State.Ready; decide, by decide⟩,
   ⟨_, 0, 0, 4, rfl, by decide, by unfold State.Ready; decide, by decide, by decide⟩⟩

theorem wit_FloatCompareClassConvert :
    (base.Goes .w32 ∧ [1, 2].map (srcValue base) = [some 0, some 0] ∧ base.me.busyK 1 = false ∧
      fcmpCond 0 (fp32.value (fpOperand false 0)) (fp32.value (fpOperand false 0)) = some (true, false)) ∧
    (srcValue base 3 = some 0 ∧ base.Ready 5) ∧ (plainType 0x14 = true ∧ plainType 0x07 = true) :=
  ⟨⟨State.goes_w32 _, by decide, by decide, by decide⟩, ⟨by decide, by unfold State.Ready; decide⟩, by decide⟩

theorem wit_BranchGoesToTarget :
    ∃ x, ∃ vs : List Dword, branchRule base.me.cond (.bnz .w32 0x3FFFD 5) = some x ∧ base.Goes x.form ∧ (∀ n ∈ x.conds, base.me.busyK n = false) ∧ x.srcs.map (srcValue base) = vs.map some :=
  ⟨_, [0], rfl, State.goes_w32 _, by decide, by decide⟩

theorem wit_TransferGoesToTarget :
    (isTransfer (.jmp .w32 0) = some .w32 ∧ (bl (fun b => { b with nest := [lv] })).me.nest ≠ []) ∧
    (base.me.nest = [] ∧ base.me.busy 63 = false ∧ srcValue base 5 = some 0 ∧ base.Ready 6) :=
  ⟨⟨rfl, by decide⟩, by decide, by decide, by decide, by unfold State.Ready; decide⟩

theorem wit_LoopLevels :
    srcValue base 0 = some 0 ∧ base.me.intrap = false ∧ (bl (fun b => { b with intrap := true })).me.intrap = true ∧ base.me.nest.length < 6 ∧
    6 ≤ (bl (fun b => { b with nest := List.replicate 6 lv })).me.nest.length ∧
    (∃ x s', base.skip base.cur 1 (base.me.pc + 4) = (.ok x, s')) ∧
    ((bl (fun b => { b with nest := [lv] })).me.nest = [] ++ [lv] ∧ (bl (fun b => { b with nest := [lv] })).atLast 0 (bl (fun b => { b with nest := [lv] })).me.pc = true) ∧
    (bl (fun b => { b with nest := [{ lv with start := 0x3FFFC }] })).atLast 0 0x40000 = false ∧
    ((bl (fun b => { b with nest := [lv] })).me.busyK 0 = false ∧ base.me.cond 0 = true ∧ base.me.cond 1 = false) :=
  ⟨by decide, by decide, by decide, by decide, by decide, ⟨_, _, rfl⟩, by decide, by decide, by decide⟩

theorem wit_GlobalAccessIsIssued :
    (∃ x, ∃ vs : List Dword, let s := bl (fun b => b.setReg 3 0x40001); accessRule (.ld .w32 0 3 5 3) = some x ∧ s.Goes x.form ∧ x.srcs.map (srcValue s) = vs.map some ∧
      (∀ d, x.field = some d → s.Ready d) ∧ x.addr vs % x.bytes ≠ 0) ∧
    (∃ x, ∃ vs : List Dword, let base := bl (fun b => b.setReg 3 0x100000000000000); accessRule (.ld .w32 0 3 5 3) = some x ∧ x.srcs.map (srcValue base) = vs.map some ∧ (∀ d, x.field = some d → base.Ready d) ∧
      x.addr vs % x.bytes = 0 ∧ base.me.mayAccess = true ∧ ∃ e s1, base.translate base.me.master x.need (x.addr vs) = (.error e, s1)) ∧
    (∃ x, ∃ vs : List Dword, let s := bl (fun b => b.setReg 3 0x40000); accessRule (.st .w32 0 3 5 3) = some x ∧ x.srcs.map (srcValue s) = vs.map some ∧
      (∀ d, x.field = some d → s.Ready d) ∧ x.addr vs % x.bytes = 0 ∧ s.me.mayAccess = true ∧
      ∃ t s1, s.translate s.me.master x.need (x.addr vs) = (.ok t, s1) ∧ x.clear s1 t) :=
  ⟨⟨_, [0x40001], rfl, State.goes_w32 _, by decide, fun d h => by cases h; unfold State.Ready; decide, by decide⟩,
   ⟨_, [0x100000000000000], rfl, by decide, fun d h => by cases h; unfold State.Ready; decide, by decide, by decide, errPair (by decide)⟩,
   by
     refine ⟨_, [0x40000, 0], rfl, by decide, (by intro d h; cases h), by decide, by decide, ?_⟩
     obtain ⟨t, s1, h⟩ := okPair (r := (bl (fun b => b.setReg 3 0x40000)).translate (bl (fun b => b.setReg 3 0x40000)).me.master { w := true } 0x40000) (by decide)
     exact ⟨t, s1, h, (fun h => nomatch h), (fun h => nomatch h), (fun h => nomatch h)⟩⟩

theorem wit_AccessRuleClear :
    (∃ x, accessRule (.ld .w32 0 3 5 3) = some x ∧ x.clear base xl) ∧ (∃ x, accessRule (.amoAdd .w32 true 5 3 4) = some x ∧ x.clear base xl) :=
  ⟨⟨_, rfl, fun _ => by decide, fun _ _ => (okEx (by decide)).imp fun _ h => ⟨h, by decide⟩, (fun h => nomatch h)⟩,
   ⟨_, rfl, fun _ => by decide, (fun _ h => nomatch h), fun _ => ⟨by decide, .inr (.inl (by decide)), fun _ => ⟨.inl (by decide), by decide⟩⟩⟩⟩

theorem wit_SharedStoreAccess :
    (srcValue base 3 = some 0 ∧ base.Ready 5 ∧ addressM .w32 0 8 0 % 8 = 0 ∧ addressM .w32 0 8 0 + 8 ≤ base.me.hdr.shared ∧ badWords base.me.poisonSh 0 8 = false) ∧
    addressM .w32 0 8 0xFF9 % 8 ≠ 0 ∧ base.me.hdr.shared < addressM .w32 0 8 0x1000 + 8 ∧ badWords (bl (fun b => { b with poisonSh := [1] })).me.poisonSh 0 8 = true :=
  ⟨⟨by decide, by unfold State.Ready; decide, by decide, by decide, by decide⟩, by decide, by decide, by decide⟩

theorem wit_QueuePortPush :
    (∃ x, ∃ vs : List Dword, let s := bl (fun b => (b.setQcw 0 (q4 0)).setQcw 1 (q4 0)); valued s (.mov .w32 48 3) = some x ∧ s.Goes x.form ∧ (∀ n ∈ x.conds, s.me.busyK n = false) ∧
      x.srcs.map (srcValue s) = vs.map some ∧ s.me.busy x.dst = false ∧ x.plain vs = true ∧ (s.me.qcwOf (queueOf x.dst)).v = true ∧
      bitOf s.me.hdr.roles (roleOf (queueOf x.dst)) = true ∧ (s.me.qcwOf (queueOf x.dst)).count < (s.me.qcwOf (queueOf x.dst)).depth) ∧
    headerFault 0 0 true ≠ none ∧ headerFault 0 0x21343901 true = none ∧ (q4 4).depth ≤ (q4 4).count ∧ (q4 3).count < (q4 3).depth ∧
    (let s := bl (fun b => (b.setQcw 6 (q4 0)).setQcw 7 (q4 0)); (s.me.qcwOf 6).v = true ∧ bitOf s.me.hdr.roles (roleOf 6) = true ∧ (s.me.qcwOf 6).count < (s.me.qcwOf 6).depth ∧
      s.me.fqs.length < 2 ∧ (fqFault s 0).isSome = true ∧ (s.me.qcwOf 7).v = true ∧ bitOf s.me.hdr.roles (roleOf 7) = true ∧ (s.me.qcwOf 7).count < (s.me.qcwOf 7).depth) :=
  ⟨⟨_, [0], rfl, State.goes_w32 _, by decide, by decide, by decide, rfl, by decide, by decide, by decide⟩, by decide, by decide, by decide, by decide, by decide⟩

theorem wit_LoadAndStoreArePerformed :
    Oldest (ps (.rd 3 5)) 0 (pd (.rd 3 5)) [] 0x40000 ∧ (pd (.rd 3 5)).cacheable = false ∧ (pd (.rd 3 5)).done < 2 ∧
    ((ps (.rd 3 5)).deferredAt 0 0x40000 8 = false ∧ (pd (.rd 3 5)).pops = [] ∧ (ps (.rd 3 5)).homePoison (0x40000 / 64 * 64) 64 = none) ∧
    (∃ s, Oldest s 0 { pd (.rd 3 5) with cacheable := true } [] 0x40000 ∧ s.l1Copy 0 0x1000 = none) ∧
    (∃ s, Oldest s 0 { pd (.rd 3 5) with cacheable := true } [] 0x40000 ∧ s.l1Copy 0 0x1000 = some (1 :: List.replicate 63 0)) ∧
    Oldest (ps (.wr [1, 2])) 0 (pd (.wr [1, 2])) [] 0x40000 ∧ (pd (.wr [1, 2])).pas = [0x40000] ∧ (pd (.wr [1, 2])).done < 4 :=
  ⟨oldest _, rfl, by decide, by decide,
   ⟨bl (fun b => { b with pend := [{ pd (.rd 3 5) with cacheable := true }] }), ⟨rfl, rfl, (fun _ h => nomatch h), rfl, near_of (by decide) (by decide) (dieOf_bl rfl), ⟨rfl, rfl, rfl, rfl, rfl⟩, (fun h => absurd h (by decide)), alone_of _⟩, by decide⟩,
   ⟨{ bl (fun b => { b with pend := [{ pd (.rd 3 5) with cacheable := true }] }) with l1 := [(0, [(0x1000, 1 :: List.replicate 63 0)])] },
    ⟨rfl, rfl, (fun _ h => nomatch h), rfl, near_of (by decide) (by decide) (dieOf_bl (f := fun b => { b with pend := [{ pd (.rd 3 5) with cacheable := true }] }) rfl), ⟨rfl, rfl, rfl, rfl, rfl⟩, (fun h => absurd h (by decide)), alone_of _⟩, by decide⟩,
   oldest _, rfl, by decide⟩

theorem wit_AtomicIsPerformed :
    let k : AccKind := .rmw .add 8 1 0 5 true
    Oldest (ps k) 0 (pd k) [] 0x40000 ∧ (∀ o e, RmwOp.add ≠ .red o e) ∧ (pd k).pas = [0x40000] ∧ isFarKey 0x40000 = false ∧ (pd k).done < 4 ∧
      (ps k).detOn ((ps k).blk 0) = false ∧ (ps k).homePoison 0x40000 8 = none ∧ ({ ps k with poison := [0x1000] } : State).homePoison 0x40000 8 ≠ none :=
  ⟨oldest _, (fun _ _ h => nomatch h), rfl, by decide, by decide, by decide, by decide, by decide⟩

/-- The block whose acquire has seen a write that another block's copy of a page alone holds. -/
def seenS : State :=
  { bl (fun b => { b with seenHalf := [(1, 1)] }) with blocks := (bl (fun b => { b with seenHalf := [(1, 1)] })).blocks ++ [(1, { base.me with slot := 1, pend := [pd (.wr [1])] })] }
theorem not_seen : ¬SeenDone seenS seenS.me 7 :=
  fun h => absurd (h (by decide) (1, 1) (List.mem_singleton.mpr rfl) (pd (.wr [1])) (List.mem_singleton.mpr rfl) rfl) (by decide)

theorem wit_FencesAndDrain :
    (∃ x, fenceRule (.fenceAll f64 7) = some x ∧ base.Goes x.form ∧ (x.tiles = true → TilesDone base.me) ∧ Settled base.me x.agents x.sc.toNat ∧ SeenDone base base.me x.sc.toNat) ∧
    ¬SeenDone seenS seenS.me 7 ∧
    (∃ x, fenceRule (.fenceCt f64 7) = some x ∧ ¬Settled (ps (.wr [1])).me x.agents x.sc.toNat) ∧
    TilesDone base.me ∧ ReductionsSent base.me ∧ ¬TilesDone (bl (fun b => { b with flights := [{ id := 1, pc := 0, instr := .tabs .w32 1 2 }] })).me :=
  ⟨⟨_, rfl, by unfold State.Goes; decide, (fun _ _ h => nomatch h), (fun _ h => nomatch h), (fun _ _ h => nomatch h)⟩, not_seen,
   ⟨_, rfl, fun h => absurd (h _ (List.mem_singleton.mpr rfl) (by decide) (by decide)) (by decide)⟩, (fun _ h => nomatch h), (fun _ h => nomatch h),
   fun h => absurd (h _ (List.mem_singleton.mpr rfl)) (by decide)⟩

theorem wit_BarrierArrival :
    base.Goes f64 ∧ base.me.arrived = none ∧ TilesDone base.me ∧ Settled base.me [.c, .t] 7 ∧ SeenDone base base.me 7 ∧ ¬SeenDone seenS seenS.me 7 ∧ ¬Settled (ps (.wr [1])).me [.c, .t] 7 ∧
    (bl (fun b => { b with arrived := some { sc := 7, mask := 0, len := 8 } })).me.arrived ≠ none ∧
    (srcValue base 3 = some 0 ∧ (0 : Dword).toNat.testBit base.devid.toNat = false) ∧
    (let s := bl (fun b => b.setReg 3 1); srcValue s 3 = some 1 ∧ (1 : Dword).toNat.testBit s.devid.toNat = true) :=
  ⟨by unfold State.Goes; decide, rfl, (fun _ h => nomatch h), (fun _ h => nomatch h), (fun _ _ h => nomatch h), not_seen,
   fun h => absurd (h _ (List.mem_singleton.mpr rfl) (by decide) (by decide)) (by decide), by decide, by decide, by decide, by decide⟩

/-- The block with the address of its code in s3. -/
def sa : State := bl (fun b => b.setReg 3 0x40000)

theorem wit_WaitOnAddress :
    let s1 := (sa.translate sa.me.master { r := true } 0x40000).2
    let r := s1.gRead sa.me.core 7 xl.c false xl.rkey 8
    (∃ p, waitRule (.waitaEq .w32 5 3 4) = some (.w32, p, 0, 5, 3, 4) ∧ p (BitVec.ofNat 64 (ofLe (okVal r.1))) 0 = true) ∧
    (∃ p, waitRule (.waitaNe .w32 5 3 4) = some (.w32, p, 1, 5, 3, 4) ∧ p (BitVec.ofNat 64 (ofLe (okVal r.1))) 0 = false) ∧
    sa.Goes .w32 ∧ srcValue sa 3 = some 0x40000 ∧ srcValue sa 4 = some 0 ∧ sa.Ready 5 ∧ sa.me.pend = [] ∧
    sa.translate sa.me.master { r := true } (0x40000 : Dword).toNat = (.ok xl, s1) ∧ s1.deferredAt sa.cur xl.rkey 8 = false ∧
    s1.linkTo (dieOf sa.me.core) xl.rkey = none ∧ r = (.ok (okVal r.1), r.2) ∧ (∀ e ∈ sa.blocks, e.2.pend = []) ∧ xl.rkey % 64 + 8 ≤ 64 :=
  ⟨⟨_, rfl, by decide⟩, ⟨_, rfl, by decide⟩, State.goes_w32 _, by decide, by decide, by unfold State.Ready; decide, by decide, pairEq rfl, by decide,
   near_of (by decide) (by decide) (by decide), pairOk (by decide), by decide, by decide⟩

theorem wit_SleepYieldCountExit :
    base.Goes .w32 ∧ srcValue base 3 = some 0 ∧ base.me.intrap = false ∧ (bl (fun b => { b with intrap := true })).me.intrap = true :=
  ⟨State.goes_w32 _, by decide, by decide, by decide⟩

theorem wit_SpecialRegisterWrite :
    base.Goes .w32 ∧ srcValue base 3 = some 0 ∧ (∃ b, specialWrite base.me 1 0 = some b) ∧ (∃ b, specialWrite base.me 0x0E 1 = some b) ∧
    (∃ b, specialWrite base.me 0x0E 1000000 = some b) ∧ specialFault base.me 0x0E 0 = some 0x4000 ∧ specialFault base.me 0x0E 1000001 = some 0x4000 ∧
    specialFault base.me 0x09 0 = some 0x4040 ∧ specialFault base.me 0x06 0 = some 0x4040 :=
  ⟨State.goes_w32 _, by decide, ⟨_, rfl⟩, ⟨_, rfl⟩, ⟨_, rfl⟩, by decide, by decide, by decide, by decide⟩

theorem wit_TrapIsTaken :
    (base.blk 0).intrap = false ∧ (base.blk 0).hdr.handler = some 0x40100 ∧ ((bl (fun b => { b with intrap := true })).blk 0).intrap = true ∧ (1 : Nat) ≠ 6 := by
  decide

theorem wit_TrapAndReturn :
    base.Goes .w32 ∧ base.me.intrap = false ∧ (let s := bl (fun b => { b with intrap := true }); s.me.intrap = true ∧ TilesDone s.me ∧ ReductionsSent s.me) ∧
    (let s := bl (fun b => { b with intrap := true, flights := [{ id := 1, pc := 0, instr := .tabs .w32 1 2 }] }); s.me.intrap = true ∧ ¬TilesDone s.me) :=
  ⟨State.goes_w32 _, by decide, ⟨by decide, (fun _ h => nomatch h), (fun _ h => nomatch h)⟩, by decide, fun h => absurd (h _ (List.mem_singleton.mpr rfl)) (by decide)⟩

theorem wit_QueueConfiguration :
    base.Goes .w32 ∧ srcValue base 3 = some 0 ∧ (∃ d, qcwFault 1 0x8000060000000000 4096 0 = some d) ∧
    (let s := bl (fun b => b.setReg 3 0x8000000003000000); srcValue s 3 = some 0x8000000003000000 ∧ QueueSound 1 0x8000000003000000 s.me.hdr.shared 0 ∧ s.me.cmds = [] ∧
      (s.me.qcwOf 1).count = 0) ∧
    ((bl (fun b => b.setQcw 1 (q4 2))).me.qcwOf 1).count ≠ 0 :=
  ⟨State.goes_w32 _, by decide, ⟨_, rfl⟩, ⟨by decide, by unfold QueueSound; decide, by decide, by decide⟩, by decide⟩

/-- The block with the address of its code in s3, and queue 0 of its context open with 16 places at the code page. -/
def sq : State := sa.modQueue 0 0 (fun y => { y with base := 0x40000, open_ := true })

theorem wit_LaunchAppendsRecord :
    let s1 := (sq.translate sq.me.master { r := true } 0x40000).2
    let r := s1.gRead sq.me.core 7 xl.c true xl.rkey 128
    let s3 := r.2.watch sq.cur 0x40000 128 false
    ¬Settled (ps (.wr [1])).me [.c] 7 ∧ ¬SeenDone seenS seenS.me 7 ∧ SeenDone sq sq.me 7 ∧
    sq.Goes .w32 ∧ srcValue sq 3 = some 0x40000 ∧ srcValue sq 4 = some 0 ∧ sq.Ready 5 ∧ (0x40000 : Dword).toNat % 128 = 0 ∧ sq.me.pend = [] ∧ sq.detOn sq.me = false ∧
    sq.translate sq.me.master { r := true } (0x40000 : Dword).toNat = (.ok xl, s1) ∧ r = (.ok (okVal r.1), r.2) ∧
    s1.linkTo (dieOf sq.me.core) xl.rkey = none ∧ s1.deferredAt sq.cur xl.rkey 128 = false ∧ launchRefused s3 16 = some 3 ∧ launchRefused s3 15 = some 2 ∧ launchRefused s3 0 = none ∧
    ∃ s4, s3.engineWrite sq.me.ctx (((s3.ctx sq.me.ctx).queue 0).slot ((s3.ctx sq.me.ctx).queue 0).widx.toNat) (okVal r.1) = .ok s4 :=
  ⟨fun h => absurd (h _ (List.mem_singleton.mpr rfl) (by decide) (by decide)) (by decide), not_seen, (fun _ _ h => nomatch h), State.goes_w32 _, by decide, by decide, by unfold State.Ready; decide, by decide, by decide, by decide, pairEq rfl, pairOk (by decide), near_of (by decide) (by decide) (by decide), by decide,
   by decide, by decide, by decide, okEx (by decide +kernel)⟩

theorem wit_TileConfiguration :
    let good : Dword := 0x01000F0004000000
    let s := bl (fun b => (b.setReg 3 good).setReg 4 0x0040080000000000)
    (∃ x, configRule (.tshape .w32 1 3 4) = some x ∧ s.Goes x.form ∧ x.srcs.map (srcValue s) = [some good, some 0x0040080000000000] ∧ s.me.cmprOwes x.tile.toNat = false ∧
      x.valid = false ∧ lowerOf ((x.record s.me.pc (s.me.tsrOf 1) [good, 0x0040080000000000]).fault (s.limits s.me))
        (portDepth x.tile.toNat (x.record s.me.pc (s.me.tsrOf 1) [good, 0x0040080000000000])) = none ∧ s.me.usesTile 1 = false) ∧
    (∃ x d, configRule (.tshape .w32 1 3 4) = some x ∧ x.srcs.map (srcValue base) = [some 0, some 0] ∧
      lowerOf ((x.record base.me.pc (base.me.tsrOf 1) [0, 0]).fault (base.limits base.me)) (portDepth x.tile.toNat (x.record base.me.pc (base.me.tsrOf 1) [0, 0])) = some d) ∧
    (∃ x, configRule (.tbind .w32 1 3) = some x ∧ x.valid = true ∧ (base.me.tsrOf 1).v = false) ∧
    (let s := bl (fun b => { b.setTsr 1 (tile 0 7 0 0) with flights := [{ id := 1, pc := 0, instr := .tabs .w32 1 2, d := some ⟨1, tile 0 7 0 0, 0⟩ }] })
     ∃ x, configRule (.tshape .w32 1 3 4) = some x ∧ x.strips = true ∧ sameShapeRecord (s.me.tsrOf 1) (x.record s.me.pc (s.me.tsrOf 1) [good, 0x0040080000000000]) = false ∧
      s.me.usesTile 1 = true) :=
  ⟨⟨_, rfl, State.goes_w32 _, by decide, by decide, rfl, by decide, by decide⟩, ⟨_, _, rfl, by decide, rfl⟩, ⟨_, rfl, rfl, by decide⟩, ⟨_, rfl, rfl, by decide, by decide⟩⟩

theorem wit_TileFreeAndRead :
    base.Goes .w32 ∧ base.me.cmprOwes 1 = false ∧ (base.me.tsrOf 1).v = false ∧
    (let s := bl (fun b => b.setTsr 1 (tile 0 7 0 0)); (s.me.tsrOf 1).v = true ∧ s.me.usesTile 1 = false ∧ s.me.cmprOwes 1 = false ∧ s.Ready 5) ∧
    (bl (fun b => { b.setTsr 1 (tile 0 7 0 0) with flights := [{ id := 1, pc := 0, instr := .tabs .w32 1 2, d := some ⟨1, tile 0 7 0 0, 0⟩ }] })).me.usesTile 1 = true :=
  ⟨State.goes_w32 _, by decide, by decide, ⟨by decide, by decide, by decide, by unfold State.Ready; decide⟩, by decide⟩

/-- The block with a tile record under a number; a shape of 1 row and 16 columns in the shared store of any type. -/
def tl (l : List (Nat × Tsr)) (f : Block → Block := id) : State := bl (fun b => f (l.foldl (fun b p => b.setTsr p.1 p.2) b))
/-- A block whose table of tile instructions is full. -/
def full : State := bl (fun b => { b with flights := (List.range 8).map (fly (.tabs .w32 9 10)) })

theorem wit_TileInstructionIssuesOrTraps :
    (∃ x, ∃ vs : List Dword, let s := tl [(1, tile 0 7 0 0), (2, tile 0 7 0 0), (3, tile 0 7 0 0)]; tileRule (.tadd .w32 1 2 3) = some x ∧ s.Goes x.form ∧
      x.scalars.map (srcValue s) = vs.map some ∧ (∀ e ∈ x.checks s.me vs, e.1 = false) ∧ chansC s x.ports = .ok () ∧ x.free s = true ∧ x.trap s vs = none ∧
      ∀ n, (s.bp n).en = false) ∧
    (∃ x, ∃ vs : List Dword, tileRule (.tadd .w32 1 2 3) = some x ∧ x.scalars.map (srcValue base) = vs.map some ∧ x.free base = true ∧
      ∃ e, (x.checks base.me vs).find? (fun e => e.1) = some e) ∧
    (∃ x, ∃ vs : List Dword, tileRule (.tadd .w32 1 2 3) = some x ∧ x.scalars.map (srcValue full) = vs.map some ∧ 8 ≤ full.me.flights.length) ∧
    (∃ x, ∃ vs : List Dword, let s := tl [(1, tile 0 7 0 0)] (fun b => b.setReg 4 0x40002); tileRule (.tld .w32 0 0 1 4) = some x ∧ x.scalars.map (srcValue s) = vs.map some ∧
      x.free s = true ∧ (∀ e ∈ x.checks s.me vs, e.1 = false) ∧ chansC s x.ports = .ok () ∧ ∃ t, x.trap s vs = some t) :=
  ⟨⟨_, [], rfl, State.goes_w32 _, by decide, by decide, rfl, by decide, by decide, no_breakpoint _ rfl⟩, ⟨_, [], rfl, by decide, by decide, _, rfl⟩,
   ⟨_, [], rfl, by decide, by decide⟩, ⟨_, [0x40002, 0], rfl, by decide, by decide, by decide, rfl, _, rfl⟩⟩

/-- The block with an MMA in flight. -/
def busyArray : State := bl (fun b => { b with flights := [fly (.mma .w32 1 2 3) 1] })

theorem wit_MatrixRows :
    base.Goes .w32 ∧ srcValue base 4 = some 0 ∧ base.Ready 5 ∧ base.me.arrayBusy = false ∧ rowCount 0 = false ∧ busyArray.me.arrayBusy = true ∧
    (let s := bl (fun b => b.setReg 4 128); srcValue s 4 = some 128 ∧ rowCount 128 = true ∧ s.detOn s.me = false ∧ (128 : Dword).toNat ≤ rowsFree s) ∧
    (let s : State := { bl (fun b => b.setReg 4 128) with blocks := (bl (fun b => b.setReg 4 128)).blocks ++ [(1, { base.me with rows := 64, slot := 1 })] }
     rowsFree s < 128) :=
  ⟨State.goes_w32 _, by decide, by unfold State.Ready; decide, by decide, by decide, by decide, by decide, by decide⟩

def vs1 : State := tl [(1, accT 1 16 2 0 0), (2, actT), (3, bitT)] (fun b => { b with rows := 16, mgrant := 0x1010 })

/-- A chained TBFLY at the pc with the TBFLY behind it that ends the chain, over fp32 tiles of 16 columns. -/
def chain : State :=
  (State.reset.placeBytes (encodeBytes (.tbfly .w32 true 0 1 2) ++ encodeBytes (.tbfly .w32 false 1 3 1))).modBlk 0 (fun b =>
    ((b.setTsr 1 (tile 0 0x14 0 0)).setTsr 2 (tile 0 0x14 0 0)).setTsr 3 (tile 0 0x14 0 0))

theorem wit_MatrixVerdictAndChainIssue :
    (let x := mmavRule .w32 1 2 3
     x.scalars.map (srcValue vs1) = [] ∧ (∀ e ∈ x.checks vs1.me [], e.1 = false) ∧ chansC vs1 x.ports = .ok () ∧ x.free vs1 = true ∧ (∀ n, (vs1.bp n).en = false) ∧
     vs1.cleatTaken (vs1.me.core / 4) < 4 ∧ vs1.sampleNow { id := vs1.nextId, pc := vs1.me.pc, instr := .mmav .w32 1 2 3, sc := x.sc vs1.me [], d := some (readAt vs1.me 1) } = (.ok (leBytes 8 0), vs1)) ∧
    (let held : Flight := { fly (.mmav .w32 1 2 3) 1 with verd := some { placed := true, els := [], thr := 0 } }
     let s : State := { vs1 with blocks := vs1.blocks ++ (List.range 4).map (fun i => (i + 1, { vs1.me with slot := 1, flights := [held] })) }
     ¬(s.me.cleatWait = some true ∨ s.cleatTaken (s.me.core / 4) < 4)) ∧
    (∃ ms n s1 x y, ∃ e : Instr × Tsr, chain.Goes .w32 ∧ tileRule (.tbfly .w32 false 0 1 2) = some x ∧
      chainFrom chain 8 1 (chain.me.pc + BitVec.ofNat 56 (Form.bytes .w32)) chain = .ok (ms, n, s1) ∧ ms.getLast? = some e ∧ tileRule e.1 = some y ∧
      (∀ e ∈ x.checks chain.me [], e.1 = false) ∧ ({ x with writesD := false } : TileRule).free chain = true ∧ y.free chain = true ∧
      chansC chain ({ y with a := some 2 } : TileRule).ports = .ok () ∧ ∀ n, (chain.bp n).en = false) := by
  refine ⟨⟨by decide, by decide, rfl, by decide, no_breakpoint _ rfl, by decide, rfl⟩, by decide,
    _, _, _, _, _, _, State.goes_w32 _, rfl, rfl, rfl, rfl, by decide, by decide, by decide, rfl, no_breakpoint _ rfl⟩

theorem wit_ThresholdRaise :
    base.Goes .w32 ∧ srcValue base 4 = some 0 ∧ base.me.cmprOwes 1 = false ∧ (base.me.tsrOf 1).v = false ∧ isAbandoned false 0 = false ∧
    (fp32.value 0).isNan = false ∧ isAbandoned false 0x7F800AB0 = true ∧ (isAbandoned false 0x7FC00000 = false ∧ (fp32.value 0x7FC00000).isNan = true) ∧
    (let t := (tl [(1, accT 1 16 2 0 0)]).me.tsrOf 1; t.v = true ∧ t.space = 1 ∧ t.vclass = 2 ∧ t.thrsel = 0) ∧
    (let s := tl [(1, accT 1 16 2 1 64)]; let t := s.me.tsrOf 1
     t.v = true ∧ t.space = 1 ∧ t.vclass = 2 ∧ t.thrsel = 1 ∧ t.d5.toNat % 8 = 0 ∧ t.d5.toNat + 8 ≤ s.me.hdr.shared ∧ badWords s.me.poisonSh t.d5.toNat 8 = false) ∧
    (let s := tl [(1, accT 1 16 3 2 0x40000)]; let t := s.me.tsrOf 1
     t.v = true ∧ t.space = 1 ∧ t.vclass = 3 ∧ t.thrsel = 2 ∧ t.d5.toNat % 8 = 0 ∧ s.me.mayAccess = true ∧
     ∃ x s1, s.translate s.me.master { r := true, w := true, atomic := true } t.d5.toNat = (.ok x, s1) ∧ (atomicRule .w32 .maxn false 0 0 0 none false).clear s1 x) := by
  refine ⟨State.goes_w32 _, by decide, by decide, by decide, by decide, by decide, by decide, by decide, by decide, by decide, ⟨by decide, by decide, by decide, by decide, by decide, by decide,
    xl, _, pairEq rfl, ⟨(by decide), (fun _ h => Bool.noConfusion h), fun _ => ⟨by decide, .inr (.inl (by decide)), by decide⟩⟩⟩⟩

/-- The block with a launch of 2 claims, and MONSET's operands: scope 6, WLO 0, bound 5. -/
def mon : State :=
  let s := bl (fun b => ((b.setReg 3 1).setReg 4 6).setReg 5 5)
  s.modLch s.me.launch (fun x => { x with monc := 2, claims := [{}, {}] })

theorem wit_MonitorInstructions :
    base.Goes .w32 ∧ (srcValue base 3 = some 0 ∧ srcValue base 4 = some 0 ∧ srcValue base (4 + 1) = some 0 ∧ (base.lch base.me.launch).monc ≤ 0 ∧ base.Ready 7) ∧
    (srcValue mon 3 = some 1 ∧ srcValue mon 4 = some 6 ∧ srcValue mon (4 + 1) = some 5 ∧ 1 < (mon.lch mon.me.launch).monc ∧ ClaimConfig 6 ∧ mon.Ready 7) ∧ ¬ClaimConfig 0 :=
  ⟨State.goes_w32 _, ⟨by decide, by decide, by decide, by decide, by unfold State.Ready; decide⟩,
   ⟨by decide, by decide, by decide, by decide, by unfold ClaimConfig; decide, by unfold State.Ready; decide⟩, by unfold ClaimConfig; decide⟩

theorem wit_LaneInstructionWritesRegister :
    ∃ f d v fl e, (Instr.ladd 7 1 2 3).wf = true ∧ (lrun lx).running = some (f, lx) ∧ laneRule (laneMode f) lx (.ladd 7 1 2 3) = some (d, v, fl) ∧ lx.els.head? = some e :=
  ⟨_, _, _, _, _, by decide, rfl, rfl, rfl⟩

theorem wit_LaneStoreAccess :
    (∃ f e, (lrun lx).running = some (f, lx) ∧ lx.els.head? = some e ∧ laneOf f e.1 e.2 * 1024 = 0) ∧ (lrun lx).me.hdr.lane = 1024 ∧
    (let at_ := fun (x : LaneRun) => (laneReg x 2 + ((0 : BitVec 12).signExtend 32 <<< 2)).toNat
     at_ lx = 0 ∧ at_ { lx with l := lx.l.set 2 2 } % 4 ≠ 0 ∧ 1024 < at_ { lx with l := lx.l.set 2 1024 } + 4 ∧ at_ { lx with l := lx.l.set 2 1024 } % 4 = 0) ∧
    (0 ∉ (lrun lx).me.poisonLane) ∧ (let s := lrun lx (.tmap f64 1 1 1) (fun b => { b with poisonLane := [0] }); 0 ∈ s.me.poisonLane ∧ ∀ p ∈ lx.writes, p.1 / 4 ≠ 0) ∧
    (Instr.lldt 0x14 1 2 3).wf = true ∧ isAbn 0x14 0 = false ∧ isAbn 0x14 0x7F800AB0 = true := by
  refine ⟨⟨_, _, rfl, rfl, by decide⟩, by decide⟩

theorem wit_LaneControl :
    (∃ f, (lrun lx).running = some (f, lx) ∧ lx.els = (0, 0) :: [] ∧ isMapr f.instr = false ∧ lx.stack = [] ∧ lx.stack.length < 4) ∧
    (∃ f, let x : LaneRun := { lx with els := [(0, 0), (0, 1)], stack := [0, 4, 8, 12] }
      (lrun x).running = some (f, x) ∧ x.els = (0, 0) :: [(0, 1)] ∧ 4 ≤ x.stack.length ∧ isMapr f.instr = false ∧ LaneClean (ux (lrun x) (lrun x).cur f) (0, 1)) ∧
    (∃ f, let x : LaneRun := { lx with els := [(0, 0), (0, 1)] }
      (lrun x (.tmapr f64 1 1 1)).running = some (f, x) ∧ isMapr f.instr = true ∧ [(0, 1)] ≠ ([] : List (Nat × Nat)) ∧
      LaneClean (ux (lrun x (.tmapr f64 1 1 1)) (lrun x (.tmapr f64 1 1 1)).cur f) (0, 1)) :=
  ⟨⟨_, rfl, rfl, by decide⟩, ⟨_, rfl, rfl, by decide, by decide, by unfold LaneClean; decide⟩, ⟨_, rfl, by decide, by decide, by unfold LaneClean; decide⟩⟩

/-- A block with commands started. -/
def cm (l : List EngCmd) (f : Block → Block := id) : State := bl (fun b => f { b with cmds := l })
/-- A complete copy command in its queue. -/
def mk : CmdMark := { eng := 0, pushId := 1, at_ := 1, lo := 0, hi := 8, shw := true }
def cst : State := bl (fun b => { b.setQcw 0 (q4 3) with marks := [mk] })
/-- A CPY6 of 2 elements of 8 bytes within the shared store; a GTH of 2 elements; a COL of 1 element of i32 over the block alone. -/
def cpy (src : Dword) (dst : Dword := 2048) (h : Dword := 0x6A001) : EngCmd :=
  { id := 1, eng := 0, dw := [h, src, dst, 1, 0x0000000800000008], pushId := 1 }
def gat (src : Dword) : EngCmd := { id := 1, eng := 1, dw := [0x0000000100006001, src, 128, 2048], pushId := 1 }
def cll (cop : Dword) (buf : Dword := 64) (peers : Dword := 1) (id : Nat := 1) : EngCmd :=
  { id, eng := 2, dw := [0x51C001 + cop, buf, 1, peers], pushId := 1 }

/-- The commands at work, as the statement has them. -/
def cpyM (c : EngCmd) : Moving :=
  { blk := 0, c, n := 2 ^ ((c.dw.getD 0 0).extractLsb' 17 3).toNat, total := copyBelow c (copyDims c).length, ov := cpyOverlap c
    place := fun _ k => .ok (copyPlace c k)
    same := fun k => (fun (x : Int) => x / 64) (copyPlace c k).1.2 == (fun (x : Int) => x / 64) (copyPlace c (k + 1)).1.2 }
def gatM (c : EngCmd) : Moving :=
  let h := c.dw.getD 0 0
  let w := gatherIndexBytes h
  let n := 2 ^ (h.extractLsb' 13 3).toNat
  let idx := fun (k : Nat) => (((c.dw.getD 2 0).toNat + k * w : Nat) : Int)
  let data := fun (k : Nat) => (((c.dw.getD 3 0).toNat + k * n : Nat) : Int)
  { blk := 0, c, n, total := (h.extractLsb' 32 32).toNat, ov := none, place := gatherAt 0 c
    same := fun k => (fun (x : Int) => x / 64) (idx k) == (fun (x : Int) => x / 64) (idx (k + 1)) ||
      (h.getLsbD 8 && (fun (x : Int) => x / 64) (data k) == (fun (x : Int) => x / 64) (data (k + 1))) }

theorem together0 {x : Moving} (h : x.c.pos ≤ x.total) : x.Together 0 := ⟨h, fun j hj => by omega⟩
theorem together1 {x : Moving} (h : x.c.pos + 1 ≤ x.total) : x.Together 1 := ⟨h, fun j hj => by omega⟩

/-- Whether an element is read and its write gives an answer of a kind. -/
def wrote (x : Moving) (s : State) (src dst : Bool × Int) (ok : Bool) : Bool :=
  match s.engRead x.blk x.c.id src.1 src.2 x.n with
  | (.ok bs, t) => (t.engWrite x.blk x.c.id none dst.1 dst.2 bs).toBool == ok
  | _ => false
theorem moves {x : Moving} {i : Nat} {s : State} {src dst : Bool × Int} (hp : x.place s i = .ok (src, dst)) (h1 : src.2 % (x.n : Int) = 0) (h2 : dst.2 % (x.n : Int) = 0)
    (ho : x.ov.isNone = true) (h : wrote x s src dst true = true) : ∃ t bs, x.Reads i s t dst bs ∧ ∃ u, x.Writes t u dst bs := by
  unfold wrote at h
  split at h
  · obtain ⟨u, hu⟩ := okEx (by simpa using h)
    exact ⟨_, _, ⟨src, hp, h1, h2, ‹_›⟩, u, u, hu, fun _ => rfl, fun o e => by rw [e] at ho; cases ho⟩
  · cases h
theorem refused {x : Moving} {i : Nat} {s : State} {src dst : Bool × Int} (hp : x.place s i = .ok (src, dst)) (h1 : src.2 % (x.n : Int) = 0) (h2 : dst.2 % (x.n : Int) = 0)
    (h : wrote x s src dst false = true) : ∃ t bs, x.Reads i s t dst bs ∧ ∃ e, t.engWrite x.blk x.c.id none dst.1 dst.2 bs = .error e := by
  unfold wrote at h
  split at h
  · rename_i bs t hr
    refine ⟨t, bs, ⟨src, hp, h1, h2, hr⟩, ?_⟩
    cases hw : t.engWrite x.blk x.c.id none dst.1 dst.2 bs with
    | error e => exact ⟨e, rfl⟩
    | ok u => simp [hw, Except.toBool] at h
  · cases h

/-- The device with a command to copy from the code page to the block's shared store: on the page's die, and on the other. -/
def cpyG (core : Nat) : State := cm [cpy 0x40000 2048 0x68001] (fun b => { b with core })

theorem byIdx {r : Option (Nat × Block)} {n : Nat} (h : r.map (fun e => e.1) = some n) : ∃ q, r = some (n, q) := by
  cases r with
  | none => cases h
  | some e => cases h; exact ⟨e.2, rfl⟩
theorem gathered1 (c : EngCmd) (h : [0] = (List.range 64).filter (fun j => (c.dw.getD 3 0).getLsbD j))
    (h1 : ((cm [c]).byIndex ((cm [c]).blk 0).launch (((c.dw.getD 2 0).extractLsb' 32 32).toNat + 0)).map (fun e => e.1) = some 0)
    (h2 : ((cm [c]).blk 0).cmds.find? (fun x => x.eng == 2 && x.status.isNone) = some c) (h3 : c.told = none) : Gathered (cm [c]) ((cm [c]).blk 0) c [(0, 0, c)] :=
  ⟨h, fun p hp => by obtain rfl : p = _ := List.mem_singleton.mp hp; exact ⟨byIdx h1, h2, h3⟩⟩

theorem wit_EnginesMoveElements :
    (¬EnginesRun ((cm [cpy 64]).modZone 0 (fun y => { y with state := 2 })) 0) ∧
    (let s := cm [cpy 64]; let c := cpy 64; let x := cpyM c
     s.asleep = false ∧ EnginesRun s 0 ∧ (s.blk 0).cmds[0]? = some c ∧ c.status = none ∧ c.eng = 0 ∧ c.pos < x.total ∧ x.Together 1 ∧ c.pos + 1 = x.total ∧
      ∃ t bs, x.Reads 0 s t (true, 2048) bs ∧ ∃ u, x.Writes t u (true, 2048) bs) ∧
    (let c := cpy 65; (cpyM c).Together 0 ∧ c.pos + 0 < (cpyM c).total ∧ (cpyM c).Refused 0 (cm [c]) { status := 4, space := 1, addr := 65 }) ∧
    (let s := cm [cpy 64 8192]; let c := cpy 64 8192; let x := cpyM c
     x.Together 1 ∧ c.pos + 1 = x.total ∧ ∃ t bs, x.Reads 0 s t (true, 8192) bs ∧ ∃ e, t.engWrite 0 1 none true 8192 bs = .error e) ∧
    (let s := cpyG 96; let x := cpyM (cpy 0x40000 2048 0x68001)
     x.c.pos + 1 = x.total ∧ x.place s 0 = .ok ((false, 0x40000), (true, 2048)) ∧ ∃ p t, s.engRead 0 1 false 0x40000 x.n = (.ask p, t) ∧
       ∃ t', (s.addE 0 1 p).engRead 0 1 false 0x40000 x.n = (.wait, t')) ∧
    (let s := cm [gat 0x40000]; let c := gat 0x40000; let x := gatM c
     EnginesRun s 0 ∧ (s.blk 0).cmds[0]? = some c ∧ c.eng = 1 ∧ c.pos < (((c.dw.getD 0 0).extractLsb' 32 32).toNat) ∧ x.Together 1 ∧ c.pos + 1 = x.total ∧
      ∃ t bs, x.Reads 0 s t (true, 2048) bs ∧ ∃ u, x.Writes t u (true, 2048) bs) ∧
    (∀ cop ∈ ([0, 0x100, 0x200] : List Dword), let c := cll cop; let s := cm [c]
     EnginesRun s 0 ∧ (s.blk 0).cmds[0]? = some c ∧ c.eng = 2 ∧ (s.blk 0).cmds.find? (fun x => x.eng == 2 && x.status.isNone) = some c ∧ 5 ≤ ((c.dw.getD 0 0).extractLsb' 20 4).toNat ∧
      ((c.dw.getD 0 0).extractLsb' 20 4).toNat ≤ 7 ∧ (c.dw.getD 0 0).extractLsb' 8 2 ≠ 3 ∧
      (∀ e ∈ s.ofLaunch (s.blk 0).launch, ∀ x, e.2.cmds.find? (fun x => x.eng == 2 && x.status.isNone) = some x → Agree x c → s.colNames x e.2.blkid = true) ∧
      s.farColls = [] ∧ Gathered s (s.blk 0) c [(0, 0, c)] ∧ ((c.dw.getD 0 0).extractLsb' 26 6).toNat = 0 ∧ Agree c c ∧
      (s.engRead 0 1 true (bufferAt c 0 : Int) (codeBytes ((c.dw.getD 0 0).extractLsb' 14 6).toNat)).1 = .ok (List.replicate 4 0)) ∧
    (let c := cll 0 4096; let s := cm [c]
     Gathered s (s.blk 0) c [(0, 0, c)] ∧ (0 : Nat) < ((c.dw.getD 2 0).extractLsb' 0 32).toNat ∧
      ∃ e, (s.engRead 0 1 true (bufferAt c 0 : Int) (codeBytes ((c.dw.getD 0 0).extractLsb' 14 6).toNat)).1 = .fail e) ∧
    (let c := cll 0 64 3; let d := cll 0x400 64 3 2
     let s := ({ cm [c] with blocks := (cm [c]).blocks ++ [(1, { (cm [d]).blk 0 with blkid := 1, slot := 1 })] } : State).modLch 0 (fun x => { x with x := 2 })
     Gathered s (s.blk 0) c [(0, 0, c), (1, 1, d)] ∧ ¬Agree d c ∧ (Agree c c ∧ s.colNames d (s.blk 0).blkid = true) ∧ Closed s (s.blk 0).launch [(0, 0, c), (1, 1, d)]) := by
  refine ⟨by unfold EnginesRun; decide, ⟨by decide, by unfold EnginesRun; decide, by decide, by decide, by decide, by decide, together1 (by decide), by decide, moves rfl (by decide) (by decide) (by decide) (by decide)⟩,
    ⟨together0 (by decide), by decide, .inr ⟨_, _, rfl, .inl ⟨by decide, by decide⟩⟩⟩, ⟨together1 (by decide), by decide, refused rfl (by decide) (by decide) (by decide)⟩,
    ⟨by decide, rfl, _, _, rfl, _, rfl⟩, ⟨by unfold EnginesRun; decide, by decide, by decide, by decide, together1 (by decide), by decide, moves rfl (by decide) (by decide) rfl (by decide)⟩, ?_, ⟨?_, by decide, _, rfl⟩, ?_⟩
  · intro cop hc
    rcases (by simpa using hc : cop = 0 ∨ cop = 0x100 ∨ cop = 0x200) with rfl | rfl | rfl <;>
    · refine ⟨by unfold EnginesRun; decide, rfl, rfl, rfl, by decide, by decide, by decide, fun e he x hx _ => ?_, rfl, gathered1 _ (by decide) (by decide) (by decide) rfl, by decide, ⟨rfl, rfl, rfl⟩, rfl⟩
      obtain rfl : e = _ := List.mem_singleton.mp he
      cases hx
      decide
  · exact gathered1 _ (by decide) (by decide) (by decide) rfl
  · refine ⟨⟨by decide, fun p h => ?_⟩, by unfold Agree; decide, ⟨⟨rfl, rfl, rfl⟩, by decide⟩, fun p h => ?_⟩
    · rcases (by simpa using h : p = _ ∨ p = _) with rfl | rfl
      · exact ⟨byIdx (by decide), by decide, rfl⟩
      · exact ⟨byIdx (by decide), by decide, rfl⟩
    · have two : ∀ j, j < 64 → (3 : Dword).getLsbD j = true → j = 0 ∨ j = 1 := by decide
      rcases (by simpa using h : p = _ ∨ p = _) with rfl | rfl
      · refine ⟨by decide, fun j hj hb => ?_⟩
        rcases two j hj hb with rfl | rfl
        · exact ⟨_, .head _, byIdx (by decide), .inl ⟨rfl, rfl, rfl⟩⟩
        · exact ⟨_, .tail _ (.head _), byIdx (by decide), .inr (by decide)⟩
      · refine ⟨by decide, fun j hj hb => ?_⟩
        rcases two j hj hb with rfl | rfl
        · exact ⟨_, .head _, byIdx (by decide), .inr (by decide)⟩
        · exact ⟨_, .tail _ (.head _), byIdx (by decide), .inl ⟨rfl, rfl, rfl⟩⟩
theorem wit_EngineCommandLifecycle :
    (cst.asleep = false ∧ CanStart (cst.blk 0) 0 mk ∧ cst.places (cst.blk 0).core 0 < 4 ∧ ∀ x ∈ cst.onCore (cst.blk 0).core, ∀ y, CanStart x.2 0 y → mk.at_ ≤ y.at_) ∧
    (let c := { cpy 64 with status := some 0, dw := [0x6A801, 64, 2048, 0x40000, 7, 1, 0] }
     EnginesRun (cm [c]) 0 ∧ ((cm [c]).blk 0).cmds[0]? = some c ∧ c.delivered = false ∧ commandCw c = true ∧
     ∃ s1, (cm [c]).engWrite 0 c.id (some (commandCwScope c)) false ((c.dw.getD (commandCwAt c) 0).toNat : Int) (leBytes 8 (c.dw.getD (commandCwAt c + 1) 0).toNat) = .ok s1) ∧
    (let c := { cpy 64 with status := some 0, dw := [0x6A801, 64, 2048, 0xFF000000000000, 7, 1, 0] }
     ((cm [c]).blk 0).cmds[0]? = some c ∧ c.delivered = false ∧ commandCw c = true ∧
     ∃ e, (cm [c]).engWrite 0 c.id (some (commandCwScope c)) false ((c.dw.getD (commandCwAt c) 0).toNat : Int) (leBytes 8 (c.dw.getD (commandCwAt c + 1) 0).toNat) = .error e) ∧
    (let c := { cpy 64 with status := some 4 }; ((cm [c]).blk 0).cmds[0]? = some c ∧ 4 ≤ 7 ∧ commandCpl c = false) ∧
    (let c := { cpy 64 with status := some 5, dw := [0x6B001] }; ((cm [c]).blk 0).cmds[0]? = some c ∧ commandCpl c = true) ∧
    (let c := { cpy 64 with status := some 0, delivered := true, dw := [0x6B001] }
     EnginesRun (cm [c]) 0 ∧ ((cm [c]).blk 0).cmds.find? (fun c => c.eng == 0 && commandCpl c) = some c ∧ (((cm [c] (fun b => b.setQcw 1 (q4 3))).blk 0).qcwOf 1).count < 4 ∧
     (((cm [c] (fun b => b.setQcw 1 (q4 4))).blk 0).qcwOf 1).depth ≤ 4 ∧ ((cm [c] (fun b => { b with exitIssued := true })).blk 0).exitIssued = true) ∧
    (let own : Pend := { pd (.wr [1]) with agent := .e, seq := 1 }
     ((cm [cpy 64] (fun b => { b with pend := [own] })).blk 0).pend = [own] ∧ own.done < 3 ∧ 3 ≤ { own with done := 3 }.done) := by
  refine ⟨⟨by decide, ⟨.inl (by decide), by decide, by unfold Clash; decide, by unfold Clash; decide, by decide⟩, by decide, fun x hx y hy => ?_⟩, ⟨by unfold EnginesRun; decide, by decide, by decide, by decide, ?_⟩,
    ⟨by decide, by decide, by decide, ?_⟩, by decide, by decide, by unfold EnginesRun; decide, by decide⟩
  · rw [show cst.onCore (cst.blk 0).core = [(0, cst.blk 0)] by decide, List.mem_singleton] at hx
    subst hx
    have h := hy.first
    cases h
    decide
  · exact okEx (by decide)
  · exact ⟨_, rfl⟩

theorem wit_FarmQueryIsAnswered :
    (let s := bl (fun b => { b.setQcw 6 (q4 2) with fqs := [{ cval := 1, ans := 64, m := 0, reached := true, ordinal := some 0 }, { cval := 2, ans := 128, m := 1 }] })
     s.asleep = false ∧ EnginesRun s 0 ∧ ((s.lch 0).x < 2 ^ 21 ∧ (s.lch 0).y < 2 ^ 21 ∧ (s.lch 0).z < 2 ^ 21) ∧ (s.blk 0).fqs = [{ cval := 1, ans := 64, m := 0, reached := true, ordinal := some 0 }] ++ { cval := 2, ans := 128, m := 1 } :: [] ∧
     (∀ g ∈ [({ cval := 1, ans := 64, m := 0, reached := true, ordinal := some 0 } : FarmQuery)], g.reached = true) ∧ ((s.blk 0).fqs.map (fun g => g.m)).Nodup ∧
     (s.blk 0).fqs.head?.bind (fun f => f.ordinal) = some 0) := by
  unfold EnginesRun
  decide

theorem wit_UnitCommitWritesGroup :
    Oldest1 (unit addF) 0 addF [] [] ∧ isElementWise addF.instr = true ∧ addF.d = some ⟨1, tile 0 7 0 0, 0⟩ ∧ PlainDest ⟨1, tile 0 7 0 0, 0⟩ ∧ ((tile 0 7 0 0).rowDefined = true ∧ addF.a ≠ none) ∧ addF.idx.col < (tile 0 7 0 0).cols ∧
    (∀ e ∈ groupOf (tile 0 7 0 0) addF.idx, ∀ x ∈ addF.a.toList ++ addF.b.toList ++ addF.c.toList,
      CleanAt ((unit addF).blk 0) addF.instr (retype (tyMod (instrForm addF.instr)) (Opnd.tsrOf addF.a)).etype e x) ∧
    trapFlag ((unit addF).blk 0) ((groupOf (tile 0 7 0 0) addF.idx).foldl (fun m e => m ||| (elementResult ((unit addF).blk 0) addF e).2) 0) = none ∧
    (let f : Flight := { addF with instr := .tsra .w32 1 2 3 }
     operandAt ((unit f).blk 0) f.a (0, 0) < 2 ^ (retype (tyMod .w32) (Opnd.tsrOf f.a)).ty.width) :=
  ⟨oldest1 addF id ⟨rfl, rfl, rfl, rfl, rfl, rfl⟩ ⟨rfl, rfl, rfl, rfl, rfl⟩, rfl, rfl, ⟨by decide, by decide, by decide, by decide⟩, by decide, by decide, by unfold CleanAt; decide, by decide⟩

/-- Whether a value is finite. -/
def isFin : FVal → Bool
  | .fin _ _ _ => true
  | _ => false
theorem isFin_fin {v : FVal} (h : isFin v = true) : ∃ a b c, v = .fin a b c := by
  cases v with
  | fin a b c => exact ⟨a, b, c, rfl⟩
  | nan _ => cases h
  | inf _ => cases h

theorem wit_PlaneBoundaryDecides :
    (∀ p, Oldest1 (unit (mvF p)) 0 (mvF p) [] []) ∧ PlainDest ⟨1, accT 1 16 2 0 0, 0⟩ ∧ (accT 1 16 2 0 0).space = 1 ∧ (accT 1 16 2 0 0).thrsel = 0 ∧ isChan 2 = false ∧ isChan 3 = false ∧ bitT.pscale = false ∧
    (actT.rows = (accT 1 16 2 0 0).rows ∧ bitT.rows = (accT 1 16 2 0 0).cols ∧ bitT.cols = actT.cols) ∧
    (∀ e ∈ elementsOf actT, ((unit (mvF 0)).blk 0).eltPoison actT 0 e.1 e.2 = none ∧ isAbn actT.etype (((unit (mvF 0)).blk 0).elt actT 0 e.1 e.2) = false ∧
      ∃ neg m x, actT.value (((unit (mvF 0)).blk 0).elt actT 0 e.1 e.2) 0x3C00 = .fin neg m x) ∧
    (∀ e ∈ elementsOf bitT, ((unit (mvF 0)).blk 0).eltPoison bitT 0 e.1 e.2 = none) ∧ (0 + 1 < ((mvF 0).sc.getD 0 0).toNat ∧ ((mvF 3).sc.getD 0 0).toNat ≤ 3 + 1) ∧
    (let b := (unit (mvF 3)).blk 0
     let cells := elementsOf (accT 1 16 2 0 0)
     let kept := (cells.zip (cells.zipIdx.map (fun e => afterPass b (mvF 3) { placed := true, els := [], thr := 0 } 3 e.2 e.1))).filter (fun x => x.2.st != 2)
     trapFlag b (kept.foldl (fun m x => m ||| (keptElt x.2).2) 0) = none) :=
  ⟨fun p => oldest1 (mvF p) id ⟨rfl, rfl, rfl, rfl, rfl, rfl⟩ ⟨rfl, rfl, rfl, rfl, rfl⟩, ⟨by decide, by decide, by decide, by decide⟩, by decide, by decide, by decide, by decide, by decide, by decide,
   fun e h =>
    have h := (show ∀ e ∈ elementsOf actT, ((unit (mvF 0)).blk 0).eltPoison actT 0 e.1 e.2 = none ∧ isAbn actT.etype (((unit (mvF 0)).blk 0).elt actT 0 e.1 e.2) = false ∧
      isFin (actT.value (((unit (mvF 0)).blk 0).elt actT 0 e.1 e.2) 0x3C00) = true by decide +kernel) e h
    ⟨h.1, h.2.1, isFin_fin h.2.2⟩, by decide +kernel, by decide, by decide +kernel⟩

/-- The block waiting. -/
def wt (w : WaitOn) (f : Block → Block := id) : State := bl (fun b => f { b with st := .waiting w })

theorem wit_BlockWakes :
    (let s := wt (.port 1); s.asleep = false ∧ (s.blk 0).st = .waiting (.port 1) ∧ portShut (s.blk 0) 1 = true) ∧ portShut ((wt (.port 1) (fun b => b.setQcw 1 (q4 2))).blk 0) 1 = false ∧
    (let s := wt (.chan 1 true) (fun b => b); (s.blk 0).st = .waiting (.chan 1 true) ∧ ∀ w u, chanC { s with cur := 0 } (48 + 1) true ≠ .error (.wait w u)) ∧
    (let s := ({ wt (.chan 1 true) with blocks := (wt (.chan 1 true)).blocks ++ [(1, { (base.blk 0).setQcw 8 { d0 := 0x8000060000000000, d1 := 0x4000000 } with blkid := 1, slot := 1 })] }).modLch 0 (fun x => { x with cgsize := 2, x := 2 })
     ∃ w u, chanC { s with cur := 0 } (48 + 1) true = .error (.wait w u)) ∧
    (let s := wt .det; (s.blk 0).st = .waiting .det ∧ LowerAreDone s (s.blk 0)) ∧ ¬LowerAreDone (wt .det (fun b => { b with blkid := 9 })) ((wt .det (fun b => { b with blkid := 9 })).blk 0) ∧
    ((wt (.time 0 3 4)).blk 0).st = .waiting (.time 0 3 4) ∧ (wt (.time 0 3 4)).qtb < (9 : Dword).toNat ∧
    (let s := wt (.addr 0 0x40000 0 5 3 4 4); (s.blk 0).st = .waiting (.addr 0 0x40000 0 5 3 4 4) ∧ isPort 5 = false ∧ 0x40000 % 8 = 0 ∧ (s.blk 0).pend = [] ∧
      ∃ x s1, ({ s with cur := 0 } : State).translate (s.blk 0).master { r := true } 0x40000 = (.ok x, s1) ∧ s1.deferredAt 0 x.rkey 8 = false ∧ s1.homePoison x.rkey 8 = none) := by
  refine ⟨by decide, by decide, ⟨by decide, fun w u h => ?_⟩, ?_, ⟨by decide, by unfold LowerAreDone; decide⟩, by unfold LowerAreDone; decide, by decide, by decide,
    by decide, by decide, by decide, by decide, xl, _, pairEq rfl, by decide, by decide⟩
  · have e : chanC { wt (.chan 1 true) (fun b => b) with cur := 0 } (48 + 1) true = trapC { wt (.chan 1 true) (fun b => b) with cur := 0 } cQPORT 0 0 (tportQueue 1) := rfl
    rw [e] at h
    cases h
  · exact ⟨_, _, rfl⟩

theorem wit_GrantsPromotionAndExpiry :
    (let f : Flight := { fly (.mattW .w32 5 3) 4 with sc := [128] }; Oldest1 (unit f) 0 f [] [] ∧ (unit f).detOn ((unit f).blk 0) = false ∧ (128 : Dword).toNat ≤ (unit f).freeRows (((unit f).blk 0).core / 4) ∧
      isMatt f.instr = true) ∧
    (let s : State := { base with blocks := base.blocks ++ [(1, { base.me with rows := 64, slot := 1 })] }; s.freeRows ((s.blk 0).core / 4) < (128 : Dword).toNat) ∧
    ((base.blk 0).st = .ready ∧ (base.blk 0).restoring = false ∧ (∀ g ∈ (base.blk 0).flights, ¬Unplaced g) ∧ base.cleatTaken ((base.blk 0).core / 4) < 4 ∧
      ((bl (fun b => { b with cleatWait := some false })).blk 0).cleatWait = some false) ∧
    (let f : Flight := { fly (.mmav .w32 1 2 3) 4 with verd := some { placed := false, els := [], thr := 0 } }
     ((unit f).blk 0).flights = [] ++ f :: [] ∧ Unplaced f ∧ f.verd = some { placed := false, els := [], thr := 0 }) ∧
    (let held : Flight := { fly (.mmav .w32 1 2 3) 1 with verd := some { placed := true, els := [], thr := 0 } }
     let s : State := { vs1 with blocks := vs1.blocks ++ (List.range 4).map (fun i => (i + 1, { vs1.me with slot := 1, flights := [held] })) }
     4 ≤ s.cleatTaken ((s.blk 0).core / 4)) ∧
    (WaitsToIssue (bl (fun b => { b with promoted := false })) 0 ∧ base.clock - (base.blk 0).readyAt < 4096 * 1000 ∧
      WaitsToIssue { bl (fun b => { b with promoted := false }) with clock := 4096 * 1000 } 0 ∧ 4096 * 1000 ≤ ({ base with clock := 4096 * 1000 } : State).clock - (base.blk 0).readyAt) ∧
    ((base.blk 0).eptNs < (base.blk 0).eptPeriod * 1000 ∧ (base.blk 0).intrap = false ∧ ((bl (fun b => { b with intrap := true })).blk 0).intrap = true ∧
      ((bl (fun b => { b with intrap := true })).blk 0).restoring = false) ∧
    (let g := fun (b : Block) => { b with eptNs := 1000000 }
     ((unit addF g).blk 0).eptPeriod * 1000 ≤ ((unit addF g).blk 0).eptNs ∧ ((unit addF g).blk 0).trapP = none ∧ ((unit addF g).blk 0).intrap = false ∧ Oldest1 (unit addF g) 0 addF [] [] ∧ isElementWise addF.instr = true) ∧
    ((∀ g ∈ ((wt (.port 1)).blk 0).flights, g.fin = true) ∧ ((wt (.port 1)).blk 0).st = .waiting (.port 1) ∧ ((wt (.chan 1 true)).blk 0).st = .waiting (.chan 1 true) ∧
      ((wt .det).blk 0).st = .waiting .det) ∧
    (let b := (bl (fun b => { b with walkWait := some 0x40000 })).blk 0; b.st = .ready ∧ b.cleatWait = none ∧ b.defWait = none ∧ b.walkWait = some 0x40000) :=
  ⟨⟨oldest1 _ id ⟨rfl, rfl, rfl, rfl, rfl, rfl⟩ ⟨rfl, rfl, rfl, rfl, rfl⟩, by decide⟩, by decide, ⟨by decide, by decide, (fun _ h => nomatch h), by decide, by decide⟩, ⟨rfl, ⟨rfl, rfl, fun _ h => by cases h; rfl⟩, rfl⟩, by decide,
   ⟨by decide, by decide, by decide, by decide⟩, by decide, ⟨by decide, by decide, by decide, oldest1 addF (fun b => { b with eptNs := 1000000 }) ⟨rfl, rfl, rfl, rfl, rfl, rfl⟩ ⟨rfl, rfl, rfl, rfl, rfl⟩, rfl⟩, by decide, by decide⟩

theorem wit_BarrierReleases :
    (let s := bl (fun b => { b with st := .waiting (.bar 6), arrived := some { sc := 6, len := 4 } })
     s.asleep = false ∧ s.blocks.Pairwise (fun x y => x.1 ≠ y.1) ∧ (s.lch 0).made = (s.lch 0).total ∧ (s.lch 0).det = false ∧ (∀ d ∈ s.deferred, d.launch ≠ 0) ∧
     (∀ e ∈ s.ofLaunch 0, e.2.st = .retired ∨ ∃ a, e.2.arrived = some a ∧ a.sc = 6) ∧ ∃ e ∈ s.ofLaunch 0, e.2.arrived ≠ none) ∧
    (let s := bl (fun b => { b with st := .waiting (.bar 8), arrived := some { sc := 8, mask := 1, len := 4 } })
     (∀ e ∈ s.ofLaunch 0, e.2.st = .retired ∨ ∃ a, e.2.arrived = some a ∧ a.sc = 8) ∧ s.others 1 = [] ∧ ∃ m, ∀ e ∈ s.ofLaunch 0, ∀ a, e.2.arrived = some a → a.mask = m) ∧
    (let s := (bl (fun b => { b with st := .waiting (.bar 5), arrived := some { sc := 5, len := 4 } })).modLch 0 (fun x => { x with cgsize := 1, x := 2 })
     let x := s.lch 0
     let group := fun (k : Nat) => (s.ofLaunch 0).filter (fun e => e.2.blkid / x.cgsize == k)
     x.cgsize ≠ 0 ∧ 0 < x.total / x.cgsize ∧ (group 0).length = x.cgsize ∧ x.cgsize ≠ x.total ∧ (∀ e ∈ group 0, e.2.st = .retired ∨ ∃ a, e.2.arrived = some a ∧ a.sc = 5) ∧ ∃ e ∈ group 0, e.2.arrived ≠ none) := by
  refine ⟨by decide, ⟨by decide, by decide, 1, by decide⟩, by decide⟩

theorem wit_AtomicIsDeferredThenApplied :
    (let k : AccKind := .rmw .add 8 1 0 5 false
     let s := (ps k).modLch 0 (fun x => { x with det := true })
     Oldest s 0 (pd k) [] 0x40000 ∧ (pd k).pas = [0x40000] ∧ isFarKey 0x40000 = false ∧ (pd k).done < 4 ∧ s.detOn (s.blk 0) = true ∧ (pd k).agent = .c ∧ isOwnKey 0x40000 = true ∧
       s.deferred.length < 1024 ∧ s.homePoison 0x40000 8 = none ∧ ({ s with poison := [0x1000] } : State).homePoison 0x40000 8 ≠ none) ∧
    (let d : Deferred := { launch := 0, blk := 0, blkid := 0, seq := 1, id := 1, pa := 0x40000, op := .add, w := 8, x := 1 }
     1024 ≤ ((List.replicate 1024 d).filter (fun e => isOwnKey e.pa && portDie e.pa == portDie 0x40000 && portSlice e.pa == portSlice 0x40000)).length) ∧
    (let d : Deferred := { launch := 0, blk := 0, blkid := 0, seq := 1, id := 1, pa := 0x40000, op := .add, w := 8, x := 1 }
     let s : State := { base with deferred := [d] }
     s.asleep = false ∧ s.deferred[0]? = some d ∧ (∀ o e, d.op ≠ .red o e) ∧ LowerAreDone s (s.blk 0) ∧
     (∀ e ∈ s.deferred, e.launch = d.launch → e.pa < d.pa + d.w → d.pa < e.pa + e.w →
       d.blkid < e.blkid ∨ (d.blkid = e.blkid ∧ (d.seq < e.seq ∨ (d.seq = e.seq ∧ d.id ≤ e.id)))) ∧
     s.earlierOwed d = false ∧ s.queueFull d.pa = false ∧ s.ckpt = none ∧ s.homePoison d.pa d.w = none) ∧
    (let p : Pend := { pd (.rmw .add 8 1 0 5 false) with done := 10 }
     let s : State := { bl (fun b => { b with pend := [p] }) with poison := [0x1000] }
     (s.homePoison 0x40000 8).isSome = true ∧ (s.blk 0).pend.find? (fun q => q.id == 1) = some p ∧ p.agent = .c ∧ (s.blk 0).st ≠ .retired ∧ (s.blk 0).trapP = none) := by
  refine ⟨⟨?_, by decide⟩, by intro d; rw [List.filter_replicate_of_pos (by decide)]; exact Nat.le_of_eq List.length_replicate.symm, ⟨by decide, by decide, (fun _ _ h => nomatch h),
    by unfold LowerAreDone; decide, by decide⟩, by decide⟩
  exact ⟨rfl, rfl, (fun _ h => nomatch h), rfl, near_of (by decide) (by decide) (dieOf_bl (f := fun b => { b with pend := [pd (.rmw .add 8 1 0 5 false)] }) rfl), ⟨rfl, rfl, rfl, rfl, rfl⟩, (fun h => absurd h (by decide)), alone_of _⟩

theorem wit_BlockEntriesAndEnds :
    (let t : TrapInfo := { cause := 2, age := 5 }
     let s := unit addF (fun b => { b with trapP := some t })
     s.asleep = false ∧ (s.blk 0).trapP = some t ∧ (s.blk 0).restoring = false ∧ (s.blk 0).stopped = false ∧ (t.now = false ∧ ∃ f ∈ (s.blk 0).flights, f.fin = false ∧ f.id < t.age)) ∧
    (let t : TrapInfo := { cause := 2 }
     let held := bl (fun b => { b with trapP := some t, pend := [{ pd (.rmw .add 8 1 0 5 true) with ord := 3 }] })
     let s := bl (fun b => { b with trapP := some t, st := .saving })
     (held.blk 0).laneHeld = true ∧ (s.blk 0).laneHeld = false ∧ (s.blk 0).trapP = some t ∧ ¬(∃ f ∈ (s.blk 0).flights, f.fin = false ∧ f.id < t.age) ∧ (((s.setBlk 0 { s.blk 0 with trapP := none }).takeTrap 0 t).blk 0).st = .ready) ∧
    (let s := bl (fun b => { b with st := .retiring, exitIssued := true }); (s.blk 0).st = .retiring ∧ (s.blk 0).exitIssued = true ∧ (s.blk 0).trapP = none ∧ TilesDone (s.blk 0) ∧
      ReductionsSent (s.blk 0) ∧ (s.blk 0).marks = [] ∧ (s.blk 0).fqs = [] ∧ (∀ c ∈ (s.blk 0).cmds, c.delivered = true) ∧ (s.blk 0).pend = []) ∧
    base.stopHere 0 = false ∧ (let s := (State.reset.placeBytes (encodeBytes (.exit .w32))).modBlk 0 (fun b => { b with stopReq := some true }); s.stopHere 0 = true ∧ TilesDone (s.blk 0) ∧
      ReductionsSent (s.blk 0)) ∧
    (base.blk 0).st ≠ .frozen ∧ ((bl (fun b => { b with st := .frozen })).blk 0).st = .frozen :=
  ⟨by decide, by decide, ⟨by decide, by decide, by decide, (fun _ h => nomatch h), (fun _ h => nomatch h), by decide, by decide, by decide⟩, by decide,
   ⟨by decide, (fun _ h => nomatch h), (fun _ h => nomatch h)⟩, by decide, by decide⟩

/-- Dwords as bytes. -/
def pack (ds : List Nat) : List Byte := ds.flatMap (leBytes 8)
/-- A kernel of two dwords with its header before it, and a launch record of it: 1 × 1 × 1 blocks, no arguments. -/
def kernelHeader : List Nat :=
  [0x4C455946 * 2 ^ 32 + 2 ^ 24 + 2 ^ 16 + 64 * 2 ^ 9, 0, 4096 + 4096 * 2 ^ 20 + 64 * 2 ^ 40 + 0x1F * 2 ^ 51, 1000 * 2 ^ 32, 0, 0, 15425579266789015387, 16 * 2 ^ 32]
def launchRecord : List Nat := [16, 0x50000, 1 + 2 ^ 21 + 2 ^ 42, 0, 0, 0, 0, 0, 0, 0, 0, 0, 0, 0, 0, 0]
/-- A device whose context 0 has that record in its queue 0, at an address. -/
def ringAt (va : VAddr) (r : List Nat) : State :=
  (({ base with mem := ((base.mem.write 0x60000 (pack r)).write 0x4FFC0 (pack kernelHeader)).write 0x50000 (pack [1, 2]), blocks := [], launches := [] }.modCtx 0
    (fun x => { x with en := true }))).modQueue 0 0 (fun y => { y with base := va, open_ := true, widx := 1 })
theorem canFetch (va : VAddr) (r : List Nat) : CanFetch (ringAt va r) 0 0 :=
  ⟨by decide, ⟨rfl, fun _ h => (nomatch h)⟩, ⟨rfl, by show (0 : BitVec 2) ≠ 2; decide, by show (0 : BitVec 2) ≠ 3; decide⟩, ⟨rfl, rfl, by show (1 : Word) ≠ 0; decide⟩, by show 0 < 2; decide⟩

theorem pairFault {α σ : Type} {r : Except FetchStop α × σ} (h : (match r.1 with
      | .error (.fault _) => true
      | _ => false) = true) : ∃ va s, r = (.error (.fault va), s) := by
  obtain ⟨e | x, s⟩ := r
  · cases e with
    | fault va => exact ⟨va, s, rfl⟩
    | err _ => cases h
  · cases h

theorem pairErr {α σ : Type} {r : Except FetchStop α × σ} (h : (match r.1 with
      | .error (.err _) => true
      | _ => false) = true) : ∃ n s, r = (.error (.err n), s) := by
  obtain ⟨e | x, s⟩ := r
  · cases e with
    | err n => exact ⟨n, s, rfl⟩
    | fault _ => cases h
  · cases h

theorem wit_LaunchFetchedStartedCompleted :
    (let s := ringAt 0x60000 launchRecord
     let r := (Eng.read 0 0x01 0x60000 128).run s
     s.asleep = false ∧ CanFetch s 0 0 ∧ r = (.ok (okVal r.1), r.2) ∧ recordError 31 (dwords (okVal r.1) 16) = none ∧ recKind (dwords (okVal r.1) 16) ≠ 2 ∧
      ∃ hdr s2, (Eng.checkKernel 0 (dwords (okVal r.1) 16)).run r.2 = (.ok hdr, s2)) ∧
    (let s := ringAt 0x60000 (3 :: launchRecord)
     let r := (Eng.read 0 0x01 0x60000 128).run s
     CanFetch s 0 0 ∧ r = (.ok (okVal r.1), r.2) ∧ recordError 31 (dwords (okVal r.1) 16) = some 1) ∧
    (let s := ringAt 0x60000 (launchRecord.set 1 0x58000)
     let r := (Eng.read 0 0x01 0x60000 128).run s
     CanFetch s 0 0 ∧ r = (.ok (okVal r.1), r.2) ∧ recordError 31 (dwords (okVal r.1) 16) = none ∧ ∃ n s2, (Eng.checkKernel 0 (dwords (okVal r.1) 16)).run r.2 = (.error (.err n), s2)) ∧
    (let s := ringAt 0xFF000000000000 launchRecord
     CanFetch s 0 0 ∧ ∃ va s1, (Eng.read 0 0x01 0xFF000000000000 128).run s = (.error (.fault va), s1)) ∧
    (let x : Launch := { placeLaunch with st := .fetched }
     let s : State := { base with launches := [(0, x)] }
     Tab.get s.launches 0 = some x ∧ x.kind ≠ 2 ∧ s.ssms.length + x.monc ≤ 16 ∧ ∀ e, (e ∈ s.launches ∧ e.1 < 0 ∧ e.2.ctx = x.ctx ∧ e.2.queue = x.queue) → e.2.st ≠ .fetched ∧ (x.barr = true → e.2.st = .completed)) ∧
    (let s := bl (fun b => { b with st := .retired })
     let x := s.lch 0
     x.st = .started ∧ x.kind ≠ 2 ∧ x.member = none ∧ x.made = x.total ∧ (∀ e ∈ s.ofLaunch 0, e.2.st = .retired ∧ e.2.pend = [] ∧ e.2.seenHalf = []) ∧ (∀ d ∈ s.deferred, d.launch ≠ 0) ∧ x.cwaddr = 0) ∧
    (let s := (bl (fun b => { b with st := .retired })).modLch 0 (fun x => { x with cwaddr := 0x70000 })
     (s.lch 0).cwaddr ≠ 0 ∧ ∃ s2, ((({ s with dirty := [] }.enterReserved 0).dropLaunch 0).modLch 0 (fun x => { x with st := .completed })).engineWrite 0 0x70000 (leBytes 8 0) = .ok s2) :=
  ⟨⟨rfl, canFetch _ _, pairOk (by decide +kernel), by decide +kernel, by decide +kernel, okPair (by decide +kernel)⟩, ⟨canFetch _ _, pairOk (by decide +kernel), by decide +kernel⟩,
   ⟨canFetch _ _, pairOk (by decide +kernel), by decide +kernel, pairErr (by decide +kernel)⟩, ⟨canFetch _ _, pairFault (by decide +kernel)⟩, ⟨by decide, by decide, by decide, fun e h => absurd h.2.1 (Nat.not_lt_zero _)⟩, by decide, by decide, okEx (by decide +kernel)⟩

/-- A device whose placed launch has a block still Queued, with supply and flow in every zone. -/
def roomy (f : Block → Block) (g : Launch → Launch) : State :=
  { bl f with launches := [(0, g placeLaunch)], nextId := 9, supply := 4000, qtb := 5000000
              zones := Vector.replicate 24 { alloc := 100, ceil := 100 } }
theorem optPair {α β : Type} {r : Option (α × β)} (h : r.isSome = true) : ∃ x y, r = some (x, y) := by
  cases r with
  | none => cases h
  | some p => exact ⟨p.1, p.2, rfl⟩

/-- A block being saved, into frame 1 of its context or with none, and the device once it is saved and its restore has begun. -/
def savingBlk : State := (bl (fun b => { b with st := .saving, reason := 17, hdr := { ept := 1000 } })).modCtx 0 (fun x => { x with saveb := 0x100000, saven := 4 })
def saved (s : State) : State :=
  match exec (.saveComplete 0) s with
  | .next t => t.modBlk 0 (fun b => { b with restoring := true })
  | _ => s
theorem wit_BlocksPlacedSavedRestored :
    base.asleep = false ∧ (base.quiet = false ∧ ({ base with ckpt := some { live := false, dst := 0, len := 0 } } : State).quiet = true) ∧
    (let s := roomy id (fun x => { x with x := 2 }); let cand : Cand := ⟨0, [], 1⟩
     s.quiet = false ∧ s.candidates = [cand] ∧ (∃ cl core, s.placeFor [0] [] cand = some (cl, [core])) ∧ cand.saved = [] ∧ ∀ e ∈ s.blocks, e.1 ≠ s.nextId) ∧
    (let s := roomy (fun b => { b with st := .saved, frame := some 1 }) id; let cand : Cand := ⟨0, [0], 0⟩
     s.quiet = false ∧ s.candidates = [cand] ∧ (∃ cl core, s.placeFor [0] [] cand = some (cl, [core])) ∧ cand.saved = [0]) ∧
    (let s := roomy (fun b => { b with st := .saved, frame := some 1, passedAt := some 4 }) id; let cand : Cand := ⟨0, [0], 0⟩
     s.candidates.find? (fun c => c.name == 0) = some cand ∧ s.candPassed cand = some 4 ∧ s.candCluster cand = none ∧ 4 + 1000000 ≤ s.qtb ∧
     (let x := s.lch cand.launch
      let open_ := fun (cl : Nat) => cl < 48 ∧ (s.zone (cl / 2)).state = 0 ∧ ((s.zone (cl / 2)).ownv = false ∨ (s.zone (cl / 2)).ownedBy x = true)
      open_ 0 ∧ s.clusterRemovals cand 0 = some 0 ∧ ∀ c m, open_ c → s.clusterRemovals cand c = some m → 0 < m ∨ (0 = m ∧ 0 ≤ c))) ∧
    (let s := savingBlk
     (s.blk 0).st = .saving ∧ (s.blk 0).trapP = none ∧ (s.blk 0).flights = [] ∧ (∀ c ∈ (s.blk 0).cmds, c.delivered = true) ∧ (s.blk 0).fqs = [] ∧ (s.blk 0).pend = [] ∧
     s.passed (s.blk 0).core = [] ∧ s.halfWrites = [] ∧
     ((s.flushBbx 0).blk 0).frame.or ((s.flushBbx 0).ctx 0).freeFrame = some 0 ∧
     ((((s.flushBbx 0).modCtx 0 (fun c => { c with frames := addNum c.frames 0 })).modBlk 0 (fun b => { b with frame := some 0 })).writeFrame 0 0 ⟨17, 0, 1⟩).isSome = true) ∧
    (let s := savingBlk.modCtx 0 (fun x => { x with saveb := 0xFF000000000000 })
     ((((s.flushBbx 0).modCtx 0 (fun c => { c with frames := addNum c.frames 0 })).modBlk 0 (fun b => { b with frame := some 0 })).writeFrame 0 0 ⟨17, 0, 1⟩) = none) ∧
    (let s := savingBlk.modCtx 0 (fun x => { x with saven := 0 }); ((s.flushBbx 0).blk 0).frame = none ∧ ((s.flushBbx 0).ctx 0).freeFrame = none ∧ ((s.flushBbx 0).blk 0).reason = 17) ∧
    (let s := saved savingBlk
     (s.blk 0).st = .saved ∧ (s.blk 0).restoring = true ∧ (s.blk 0).frame = some 0 ∧
     ((s.readFrame 0 0).map (fun r => (r.2.frameBad (s.blk 0) r.1, (frameBlock (s.blk 0) r.1).isSome))) = some (false, true)) ∧
    (let s := savingBlk.modBlk 0 (fun b => { b with st := .saved, restoring := true, frame := some 0 }); ((s.readFrame 0 0).map (fun r => r.2.frameBad (s.blk 0) r.1)) = some true) ∧
    (let s := savingBlk.modCtx 0 (fun x => { x with saveb := 0xFF000000000000 }); s.readFrame 0 0 = none) := by
  refine ⟨by decide, by decide, ⟨by decide, by decide, ⟨0, 0, by decide +kernel⟩, by decide, by decide⟩, ⟨by decide, by decide, ⟨0, 0, by decide +kernel⟩, by decide⟩,
    ⟨by decide, by decide, by decide, by decide, ⟨by decide, by decide +kernel, fun c m _ _ => by omega⟩⟩, ⟨by decide, by decide, by decide, by decide, by decide, by decide, by decide, by decide, by decide, by decide +kernel⟩,
    by decide +kernel, by decide, by decide +kernel, by decide +kernel, by decide +kernel⟩

/-- The device without its blocks, in a warm reset, or with the host port down. -/
def still : State := { base with resetting := true }

theorem wit_LaunchQueueRegisters :
    base.asleep = false ∧ (64 ≤ 64 ∨ 16 ≤ 3) ∧ (3 < 64 ∧ 5 < 16) ∧ ((0 : Dword).extractLsb' 32 32 = 0 ∧ ((0 : Dword).truncate 32 - ((base.ctx 3).queue 5).ridx).toNat + base.reserved 3 5 ≤ 2 ^ ((base.ctx 3).queue 5).log2sz.toNat) ∧
    (((base.modQueue 3 5 (fun y => { y with open_ := true, halt := true, err := 0x10 })).ctx 3).queue 5).err = 0x10 := by
  decide

theorem wit_ContextRegisters :
    base.asleep = false ∧ (ctxctlReserved 0 ∧ ¬ctxctlReserved 0x80000100 ∧ (0x80000100 : Dword).getLsbD 0 = false ∧ ¬ctxctlReserved 0x80000101 ∧ (0x80000101 : Dword).getLsbD 0 = true) ∧
    ((base.ctx 0).state ≠ 3 ∧ ((base.modCtx 0 (fun x => { x with state := 3 })).ctx 0).state = 3 ∧ base.blocks.Pairwise (fun a b => a.1 ≠ b.1) ∧ Tab.get base.launches 0 = some placeLaunch ∧
      placeLaunch.ctx = 0 ∧ placeLaunch.st = .started) ∧
    ((0 : Dword).extractLsb' 56 4 = 0 ∧ (0 : Dword).extractLsb' 0 18 = 0 ∧ invStart 0 % invLength 0 = 0 ∧ (base.ctx 0).invRun = none ∧ (1 : Dword).extractLsb' 0 18 ≠ 0) ∧
    ((base.modCtx 0 (fun x => { x with invRun := some (0, 0) })).ctx 0).invRun = some (0, 0) ∧ ∀ e ∈ base.blocks, e.2.cmds = [] ∧ e.2.pend = [] := by
  unfold ctxctlReserved
  decide

theorem wit_RegisterWrites :
    (still.resetting = true ∧ (1 : Nat) % 8 ≠ 0 ∧ base.asleep = false ∧ base.hostUp = true ∧ base.resetting = false) ∧
    ((0 : Dword).extractLsb' 52 10 = 0 ∧ (0 : Dword).extractLsb' 0 18 = 0 ∧ (0 : Dword).extractLsb' 52 12 = 0 ∧ (1 : Dword).extractLsb' 0 18 ≠ 0) := by
  decide

theorem wit_HostMemoryAccesses :
    (({ base with hostUp := false } : State).hostUp = false ∧ still.resetting = true) ∧ (base.hostUp = true ∧ base.resetting = false ∧ base.asleep = false) ∧
    (let reaches := fun (s : State) (off n : Nat) => off + n ≤ devMem ∧ ∀ b, b = off ∨ b = off + n - 1 → s.regionSecure (s.devid.toNat * 2 ^ 45 + b) = false
     reaches base 0x40000 8 ∧ ¬reaches base devMem 8 ∧ ¬reaches { base with wrgn := base.wrgn.set 0 (0xC000000000000000, 0x40000) } 0 8 ∧ 0x40000 % 8 = 0 ∧
     base.queueFull 0x40000 = false ∧ Unawaited base 0x40000 8 ∧ ([1] : List Byte).length ≤ 512 ∧ 512 < (List.replicate 513 (0 : Byte)).length) ∧
    ({ base with wq := (List.range 256).map (fun i => (i + 1) / 64 * 4096 + (i + 1) % 64 * 64 + ((i + 1) % 64 ^^^ ((i + 1) / 64))) } : State).queueFull 64 = true := by
  refine ⟨by decide, by decide, ⟨⟨by decide, ?_⟩, fun h => absurd h.1 (by decide), fun h => absurd (h.2 0 (.inl rfl)) (by decide), by decide, by decide, by unfold Unawaited; decide, by decide, by rw [List.length_replicate]; decide⟩, by decide +kernel⟩
  rintro b (rfl | rfl) <;> decide

theorem wit_SideBandCommands :
    (isCommand .warmrst = true ∧ inRecovery .warmrst = false ∧ ({ base with mgmt := { base.mgmt with step := 1 } } : State).mgmt.step = 1) ∧
    (({ base with mgmt := { base.mgmt with recovery := true } } : State).mgmt.recovery = true ∧ base.mgmt.step ≠ 1 ∧ base.mgmt.recovery = false ∧ base.resetting = false) ∧
    (∃ t, exec (.registerWrite 0x70310 5) { base with hostUp := true } = .next t) ∧ isCommand (.spdmRequest ⟨false, .measurement 1⟩) = true ∧
    ({ base with hostUp := false } : State).hostUp = false :=
  ⟨by decide, by decide, ⟨_, rfl⟩, by decide, rfl⟩

theorem wit_CheckpointCopiesMemory :
    (base.mgmt.step ≠ 1 ∧ base.mgmt.recovery = false ∧ base.resetting = false ∧ (∀ k, base.ckpt = some k → k.running = false)) ∧
    ((5 < devMem ∧ devMem ≤ devMem ∧ 64 % 64 = 0 ∧ 64 + devMem < 2 ^ 51) ∧ base.blocks.Pairwise (fun a b => a.1 ≠ b.1) ∧ ∀ e ∈ base.blocks, ∀ f ∈ e.2.flights, f.unit = none) ∧
    (let s : State := { base with ckpt := some { live := true, dst := 64, len := devMem } }
     s.asleep = false ∧ (∃ k, s.ckpt = some k ∧ k.running = true) ∧ s.hostUp = true) ∧
    (let s : State := { base with ckpt := some { live := false, dst := 64, len := devMem } }; ¬∀ e ∈ s.blocks, (e.2.onCore = false ∨ e.2.st = .frozen) ∧
      (∀ c ∈ e.2.cmds, c.delivered = true) ∧ ∀ p ∈ e.2.pend, p.isRead = true ∨ p.isShared = true ∨ 7 ≤ p.done) :=
  ⟨⟨by decide, by decide, by decide, fun _ h => nomatch h⟩, by decide, ⟨by decide, ⟨_, rfl, rfl⟩, by decide⟩, by decide⟩

/-- A device with one of its links changed. -/
def linked (n : Nat) (f : Link → Link) : State := base.modLink n f

theorem wit_LinkFlitsAndRetrains :
    base.asleep = false ∧ (28 ≤ 28 ∧ 3 < 28) ∧ ((base.link 3).dir false).wire = [] ∧ ((base.link 3).dir false).nak = none ∧ (base.link 3).target = none ∧
    (let f : Flit := { seq := 0, ack := 0, dev := 0, msg := .idle }
     let s := linked 3 (fun l => l.setDir false { wire := [f] }); let l := s.link 3
     (l.live 3 = true ∧ l.target = none) ∧ (l.dir false).wire = f :: [] ∧ (∀ m, m < 28 → (s.link m).moving = false) ∧
     halfOf 3 0xFF000000FF = none ∧ halfOf 3 1 = some false ∧ l.degn ≤ (s.qtb :: l.fails0.filter (fun t => s.qtb ≤ t + 1000000)).length ∧ l.half = 0) ∧
    (let f : Flit := { seq := 1, ack := 0, dev := 0, msg := .reply 0 0 [] none }
     let s := linked 3 (fun l => { l.setDir false { wire := [f] } with half := 1, degn := 2 }); let l := s.link 3
     (l.live 3 = true ∧ l.target = none) ∧ (l.dir false).wire = f :: [] ∧ f.msg ≠ .idle ∧ f.seq ≠ (l.dir false).expect ∧ l.half ≠ 0 ∧
     (s.qtb :: l.fails0.filter (fun t => s.qtb ≤ t + 1000000)).length < l.degn) ∧
    (let s := linked 3 (fun l => { l.setDir false { wire := [{ seq := 1, ack := 0, dev := 0, msg := .idle }] } with half := 1 }); let l := s.link 3
     (l.live 3 = true ∧ l.target = none) ∧ l.degn ≤ (s.qtb :: l.fails0.filter (fun t => s.qtb ≤ t + 1000000)).length ∧ l.half ≠ 0) ∧
    (let s := linked 16 (fun l => { l.setDir true { wire := [{ seq := 0, ack := 0, dev := 1, msg := .farStore 1 0x40000 [1] false }] } with half := 0, up := true }); let l := s.link 16
     (l.live 16 = true ∧ l.target = none) ∧ (l.dir true).wire = { seq := 0, ack := 0, dev := 1, msg := .farStore 1 0x40000 [1] false } :: [] ∧ isHawser 16 = true ∧
     (∀ m, m < 28 → (s.link m).moving = false) ∧ (l.dir true).expect = 0 ∧ l.d0.buf.length < 256 ∧ s.queueFull 0x40000 = false ∧ 0x40000 + [(1 : Byte)].length ≤ devMem ∧
     ∀ b, b = 0x40000 ∨ b = 0x40000 + [(1 : Byte)].length - 1 → s.regionSecure (s.devid.toNat * 2 ^ 45 + b) = false) ∧
    (let s := linked 16 (fun l => { l.setDir true { wire := [{ seq := 0, ack := 0, dev := 1, msg := .arrive 0 1 (some 3) }] } with half := 0, up := true }); let l := s.link 16
     (l.live 16 = true ∧ l.target = none) ∧ (l.dir true).wire = { seq := 0, ack := 0, dev := 1, msg := .arrive 0 1 (some 3) } :: []) ∧
    (let s := linked 3 (fun l => { l.setDir false { nak := some 0 } with target := none }); ((s.link 3).dir false).nak = some 0 ∧ (s.link 3).live 3 = true) ∧
    ((linked 3 (fun l => { l with target := some 1 })).link 3).target = some 1 ∧
    (let s := linked 3 (fun l => { l with target := some 0 }); (s.link 3).target = some 0 ∧ (∀ m, m < 28 → (s.link m).moving = false) ∧ (∀ e ∈ s.routes, ∃ m ∈ e.2, m = 3 ∨ (s.link m).live m = true)) ∧
    (let s : State := { base.modLink 16 (fun l => { l with target := some 0 }) with routes := [(1, [16])] }
     (∀ e ∈ s.routes, ∃ m ∈ e.2, m = 16 ∨ (s.link m).live m = true) ∧ ∀ e ∈ s.routes, ∀ m ∈ e.2, (s.link m).live m = false ∧ (m = 16 ∨ (s.link m).target = none)) ∧
    (let s : State := { base.modLink 16 (fun l => { l with half := 0, up := true }) with routes := [(1, [16])] }; ∀ e ∈ s.routes, ∃ m ∈ e.2, (s.link m).live m = true) := by
  refine ⟨by decide, by decide, by decide, by decide, by decide, ⟨by decide, by decide, by decide, by decide, by decide, by decide, by decide⟩, ⟨by decide, by decide, (fun h => nomatch h), by decide, by decide, by decide⟩,
    by decide, ⟨by decide, by decide, by decide, by decide, by decide, by decide, by decide, by decide, fun b h => ?_⟩, by decide, by decide, by decide, by decide, by decide, by decide⟩
  rcases h with rfl | rfl <;> decide

theorem wit_ErrorsAreContained :
    base.clkMHz < 65536 ∧ base.asleep = false ∧ still.asleep = true ∧ Unawaited base 0x40000 1 ∧ WaitsToIssue (bl (fun b => { b with promoted := false })) 0 ∧ (0x40000 < devMem ∧ ∀ e ∈ base.blocks, e.2.pend = []) ∧
    (({ base with l1 := [(0, [(0x1000, [1])])] } : State).l1Copy 0 (0x40000 / 64)).isSome = true ∧
    ((base.blk 0).st ≠ .retired ∧ (base.blk 0).st ≠ .saved ∧ 4 < (base.blk 0).hdr.shared ∧ 4 < (base.blk 0).hdr.acc ∧ 4 % 1024 < (base.blk 0).hdr.lane ∧ 4 < 131072) ∧
    (∃ f ∈ ((unit (mvF 0)).blk 0).flights, f.fin = false ∧ isMmav f.instr = true) ∧ (¬∃ f ∈ (base.blk 0).flights, f.fin = false ∧ isMmav f.instr = true) ∧
    ((base.blk 0).ctx < 64 ∧ (base.lch (base.blk 0).launch).queue < 16 ∧ (base.ctx (base.blk 0).ctx).saven < 2 ^ 16 ∧ (base.ctx (base.blk 0).ctx).term.getLsbD 63 = false) :=
  ⟨by decide, by decide, by decide, by unfold Unawaited; decide, by decide, by decide, by decide, by decide, by decide⟩

theorem wit_ResetsEnd :
    base.resetting = false ∧ still.resetting = true ∧ still.blocks.Pairwise (fun a b => a.1 ≠ b.1) ∧
    (still.launches.Pairwise (fun a b => a.1 ≠ b.1) ∧ (∀ e ∈ still.launches, e.2.queue < 16) ∧ ∀ e ∈ still.blocks, e.2.ctx = (still.lch e.2.launch).ctx) ∧
    (∀ z, z < 24 → (still.zone z).leakdet = false ∧ (still.zone z).drydet = false ∧ (still.zone z).outlet.toInt < (0x3C0 : BitVec 12).toInt) ∧
    (let y := (still.modZone 3 (fun y => { y with outlet := 0x460 })).zone 3; y.state < 2 ∧ y.leaked = false ∧ (0x460 : BitVec 12).toInt ≤ y.outlet.toInt) ∧ (0 ∉ still.survivors ∧ 0 ∈ ({ still with survivors := [0] } : State).survivors) ∧
    (let s : State := { still with dirty := [(0x1000, List.replicate 64 1)] }
     (∀ n, n < 32 → (s.slotOf n).en = false) ∧ (∀ e ∈ s.blocks, e.2.pend = []) ∧ s.dirty.Pairwise (fun a b => a.1 ≠ b.1) ∧ ∀ e ∈ s.dirty, e.2.length = 64) ∧
    base.mgmt.stored = none ∧
    (let r : BringUp := { vaux := false, images := [], world := none, leakZones := [], checks := [], railsOk := true, modules := [], links := [], hostTrains := true }
     failedStep r base.mgmt = 1 ∧ zoneReading r base.mgmt.cool 3 = none) := by
  decide

/-! A bring-up in which every step succeeds. Whether an image's signature is accepted is opaque (log 2), so that is a premise. -/

/-- The first 128 bytes of an image of a class with an empty body, up to its digest; and the image, the rest of it zeros. -/
def imageHead (cls : Nat) : List Byte := leBytes 64 cls ++ shake256 [] 64
def image (cls : Nat) : List Byte := imageHead cls ++ List.replicate 8064 0
theorem head_sound : ∀ c ∈ [1, 2, 3], (imageHead c).length = 128 ∧ imgClass (imageHead c) = c ∧ imgSvn (imageHead c) = 0 ∧ ofLe (imgPart (imageHead c) 2 2) = 0 ∧ ofLe (imgPart (imageHead c) 4 4) = 0 ∧
    (imgPart (imageHead c) 8 56).all (fun b => b == 0) = true ∧ imgPart (imageHead c) 0x40 64 = shake256 [] 64 := by decide +kernel
theorem image_head (c off n : Nat) (hl : (imageHead c).length = 128) (h : off + n ≤ 128) : imgPart (image c) off n = imgPart (imageHead c) off n := by
  unfold imgPart image
  rw [List.drop_append_of_le_length (by omega), List.take_append_of_le_length (by simp; omega)]
theorem image_tail (c off n : Nat) (hl : (imageHead c).length = 128) (h : 128 ≤ off) : imgPart (image c) off n = List.replicate (min n (8064 - (off - 128))) 0 := by
  unfold imgPart image
  rw [List.drop_append, List.drop_of_length_le (by omega)]
  rw [hl, List.nil_append, List.drop_replicate, List.take_replicate]
theorem image_ok (c : Nat) (hc : c ∈ [1, 2, 3]) (key : List Byte) (hk : Config.mldsaVerify key (imgPart (image c) 0 0x820) (imgPart (image c) 0x820 3309) = true) :
    imgOk key 0 c (image c) = true := by
  obtain ⟨hl, h1, h2, h3, h4, h5, h6⟩ := head_sound c hc
  have l : (image c).length = 8192 := by rw [image, List.length_append, hl, List.length_replicate]
  have g : ∀ i, i < 128 → (image c).getD i 0 = (imageHead c).getD i 0 := fun i hi => by
    rw [image, List.getD_eq_getElem?_getD, List.getD_eq_getElem?_getD, List.getElem?_append_left (by omega)]
  have body : imgBody (image c) = [] := List.drop_of_length_le (by omega)
  have p := image_head c
  simp only [imgOk, l, imgClass, imgSvn, g _ (show 0 < 128 by decide), g _ (show 1 < 128 by decide), body, hk, image_head c 2 2 hl (by decide), image_head c 4 4 hl (by decide),
    image_head c 8 56 hl (by decide), image_head c 0x40 64 hl (by decide), image_tail c 0x150D 2803 hl (by decide), image_tail c 0x80 1952 hl (by decide)]
  simp only [imgClass, imgSvn] at h1 h2
  simp only [h1, h2, h3, h4, h5, h6, List.all_replicate]
  simp
/-- The bring-up of a device whose store holds such images. -/
def goodRun : BringUp :=
  { vaux := true, images := [image 1, image 2, image 3], world := some [], leakZones := [], checks := [], railsOk := true, modules := [], links := [], hostTrains := true }
theorem stored_image : ∀ c ∈ [1, 2, 3], storedImage goodRun [] c = image c := by
  have cl : ∀ c ∈ [1, 2, 3], imgClass (image c) = c := by decide +kernel
  intro c hc
  rcases (by simpa using hc : c = 1 ∨ c = 2 ∨ c = 3) with rfl | rfl | rfl <;> simp [storedImage, goodRun, cl]
theorem wit_EveryStepOfABringUpSucceeds
    (h1 : Config.mldsaVerify [] (imgPart (image 1) 0 0x820) (imgPart (image 1) 0x820 3309) = true)
    (h : ∀ c, c = 2 ∨ c = 3 → Config.mldsaVerify (imgPart (image 1) 0x80 1952) (imgPart (image c) 0 0x820) (imgPart (image c) 0x820 3309) = true) :
    failedStep goodRun base.mgmt = 0 := by
  show failedStep goodRun {} = 0
  unfold failedStep
  simp only [stored_image 1 (by decide), stored_image 2 (by decide), stored_image 3 (by decide)]
  simp only [List.getD_cons_zero, List.getD_cons_succ, image_ok 1 (by decide) _ h1, image_ok 2 (by decide) _ (h 2 (.inl rfl)), image_ok 3 (by decide) _ (h 3 (.inr rfl)), Nat.sub_self, Nat.add_one_sub_one]
  rfl

/-- A device with one of its zones changed. -/
def zoned (f : Zone → Zone) : State := { base with supply := 4000 }.modZone 3 f

theorem wit_CoolantRegistersAndSensors :
    (24 ≤ 24 ∧ 3 < 24 ∧ (zoned id).asleep = false) ∧
    (let f := fun (v : Dword) (lo len : Nat) => (v.extractLsb' lo len).toNat
     let bad := fun (v : Dword) => f v 62 1 ≠ 0 ∨ f v 52 4 ≠ 0 ∨ f v 27 5 ≠ 0 ∨ f v 0 9 < f v 9 9 ∨ f v 18 9 < f v 0 9 ∨ 400 < f v 18 9 ∨ (zoned id).supply < otherFlow (zoned id) 3 + f v 0 9
     bad 0x4000000000000000 ∧ ¬bad 0x1901464) ∧
    ((4000 : Dword).toNat ≤ 4000 ∧ otherFlow (zoned id) 24 ≤ (4000 : Dword).toNat ∧ 4000 < (4001 : Dword).toNat) ∧ ((0x800003FF : Dword).extractLsb' 10 21).toNat = 0 ∧
    (((zoned id).zone 3).state = 0 ∧ ((zoned (fun y => { y with state := 2 })).zone 3).state = 2 ∧ ((zoned (fun y => { y with state := 4 })).zone 3).state ≠ 0) ∧
    ((0 : BitVec 12).toInt < (zoned id).tmax.toInt ∧ (0 : BitVec 12).toInt < (zoned id).tcrit.toInt ∧ (zoned id).tmax.toInt ≤ (0x3C0 : BitVec 12).toInt ∧
      (0x3C0 : BitVec 12).toInt < (zoned id).tcrit.toInt ∧ (zoned id).tcrit.toInt ≤ (0x460 : BitVec 12).toInt) ∧
    (let y := (zoned (fun y => { y with alloc := 100, floor := 50, ceil := 100 })).zone 3
     y.state = 0 ∧ ¬(y.floor ≤ (20 : BitVec 9).toNat ∨ y.alloc = 0 ∨ 2 < 2) ∧ ¬(y.floor ≤ (20 : BitVec 9).toNat ∨ y.alloc = 0 ∨ 20 < 2)) := by
  decide

theorem wit_EvacuationSequence :
    (24 ≤ 24 ∧ 3 < 24 ∧ (zoned id).asleep = false) ∧
    (let s := zoned (fun y => { y with state := 1 }); let y := s.zone 3
     y.state = 1 ∧ y.gated = false ∧ (∀ e ∈ s.blocks, e.2.onCore = true → zoneOf e.2.core = 3 → e.2.st = .frozen ∨ ∀ f ∈ e.2.flights, f.fin = true)) ∧
    (let s := zoned (fun y => { y with state := 1, gated := true }); let y := s.zone 3
     y.state = 1 ∧ y.gated = true ∧ ∀ e ∈ s.blocks, e.2.onCore = true → zoneOf e.2.core = 3 → e.2.st = .frozen) ∧
    (let s : State := { zoned (fun y => { y with state := 1 }) with qtb := 10000000 }; (s.zone 3).tdet.toNat + 10000000 ≤ s.qtb) ∧
    (let s : State := { zoned (fun y => { y with state := 2 }) with qtb := 800000000 }; (s.zone 3).state = 2 ∧ (s.zone 3).since + 800000000 ≤ s.qtb) ∧
    (let s : State := { zoned (fun y => { y with state := 3, alloc := 100, floor := 50 }) with qtb := 200000000 }
     (s.zone 3).state = 3 ∧ (s.zone 3).since + 200000000 ≤ s.qtb ∧ (s.zone 3).outlet.toInt < s.tmax.toInt ∧ (s.zone 3).outlet.toInt < s.tcrit.toInt ∧ max (s.zone 3).floor ((s.zone 3).alloc - 16) ≤ (84 : BitVec 9).toNat ∧ ¬max (s.zone 3).floor ((s.zone 3).alloc - 16) ≤ (83 : BitVec 9).toNat ∧
     (s.zone 3).attempt < s.reprime.toNat) ∧
    (let s := zoned (fun y => { y with state := 3, outlet := 0x3C0 }); s.tmax.toInt ≤ (s.zone 3).outlet.toInt) := by
  decide

theorem wit_TraceAndDebugRegisters :
    base.asleep = false ∧ (32 ≤ 32 ∧ 3 < 32) ∧ (tsctlDiscarded (base.slotOf 3) 0 ∧ ¬tsctlDiscarded (base.slotOf 3) 0x8005000000000000 ∧ (base.slotOf 3).en = false ∧ (0x8005000000000000 : Dword).getLsbD 63 = true) ∧
    (let t := (base.modSlot 3 (fun t => { t with en := true, id := 5 })).slotOf 3
     ¬tsctlDiscarded t 0x0005000000000000 ∧ t.en = true ∧ (0x0005000000000000 : Dword).getLsbD 63 = false ∧ ¬tsctlDiscarded t 0x8005000000000000) ∧
    ((∀ e ∈ base.blocks, e.2.bbx = []) ∧ base.blocks.Pairwise (fun a b => a.1 ≠ b.1)) ∧ ((1 : BitVec 2) ≠ 0 ∧ (1 : BitVec 2) ≠ 3) := by
  unfold tsctlDiscarded
  exact ⟨by decide, by decide, ⟨by decide, by decide, by decide, by decide⟩, ⟨by decide, by decide, by decide, by decide⟩, by decide, by decide⟩

/-- A placed instruction about to be fetched. -/
def placed (i : Instr) : State := State.reset.placeBytes (encodeBytes i)

theorem wit_StepRunsDecodedInstruction :
    (let s := placed (.nop .w32)
     s.agenda = .core 0 :: [] ∧ s.asleep = false ∧ ({ s with agenda := [] } : State).order 0 = 0 :: [] ∧ ({ s with agenda := [] } : State).mustLeave 0 = none ∧
     (let s1 := { issuing { s with agenda := [] } 0 with cur := 0 }; (s1.blk 0).dueTrap = none ∧ s1.stopHere 0 = false ∧
       ∃ w0 w1 w2 s2, s1.fetchInstr 0 (s1.blk 0).pc = (.ok (w0, w1, w2), s2) ∧ decodeWords w0 w1 w2 = .ok (.nop .w32) ∧
         (let s3 := s2.modBlk 0 (fun b => b.capture (s1.blk 0).pc.toNat (w0, w1, w2))
          s3.atLast 0 (s1.blk 0).pc = false ∧ ∃ u, exec (.nop .w32) s3 = .next u ∧ u.blocked = none))) ∧
    (∃ w s2 u, ({ (placed (.mov .w32 5 3)).modBlk 0 (fun b => { b with pend := [{ id := 1, agent := .c, kind := .rd 3 3, addr := 0, pas := [0] }] }) with agenda := [] } : State).fetchInstr 0 0x40000 = (.ok w, s2) ∧
      decodeWords w.1 w.2.1 w.2.2 = .ok (.mov .w32 5 3) ∧ exec (.mov .w32 5 3) s2 = .next u ∧ u.blocked = some false) ∧
    (let d : Deferred := { launch := 0, blk := 0, blkid := 0, seq := 1, id := 1, pa := 0x40000, op := .add, w := 8, x := 1 }
     ∃ w s2 u, ({ (placed (.ld .w32 0 3 5 3)).modBlk 0 (fun b => b.setReg 3 0x40000) with agenda := [], deferred := [d] } : State).fetchInstr 0 0x40000 = (.ok w, s2) ∧
      decodeWords w.1 w.2.1 w.2.2 = .ok (.ld .w32 0 3 5 3) ∧ exec (.ld .w32 0 3 5 3) s2 = .next u ∧ u.blocked = some true ∧ (u.blk 0).laneHeld = false) ∧
    (∃ w s2 u, ({ (placed (.mov .w32 5 49)).modBlk 0 (fun b => b.setQcw 1 (q4 0)) with agenda := [] } : State).fetchInstr 0 0x40000 = (.ok w, s2) ∧
      decodeWords w.1 w.2.1 w.2.2 = .ok (.mov .w32 5 49) ∧ exec (.mov .w32 5 49) s2 = .next u ∧ u.blocked = none ∧ portOrHold (u.blk 0) ∧ (s2.blk 0).restoring = false) ∧
    ((bl (fun b => { b with pc := 0x40002 })).blk 0).pc.toNat % 4 ≠ 0 ∧
    (let s1 := issuing { base with agenda := [] } 0; ∃ w0 w1 w2 s2 n, s1.fetchInstr 0 (s1.blk 0).pc = (.ok (w0, w1, w2), s2) ∧ decodeWords w0 w1 w2 = .error n) ∧
    (let s1 := issuing { bl (fun b => { b with pc := 0x100000000000000 - 4 }) with agenda := [] } 0; ∃ e s2, s1.fetchInstr 0 (s1.blk 0).pc = (.error e, s2)) ∧
    (let s1 := issuing { (placed (.nop .w32)).modBlk 0 (fun b => { b with nest := [lv] }) with agenda := [] } 0; s1.atLast 0 (s1.blk 0).pc = true) ∧
    ((∀ e ∈ base.icache, e.core ≠ 0 ∨ e.ctx ≠ base.me.master.ctx ∨ e.addr ≠ 0x40000) ∧ ∃ s', base.translate base.me.master { x := true } 0x40000 = (.ok xl, s') ∧ s'.homePoison xl.rkey 4 = none ∧
      ∃ s2, s'.translate base.me.master { x := true } ((0x40000 + 4) % 2 ^ 56) = (.ok { xl with keys := [0x40004], rkey := 0x40004 }, s2) ∧ s2.homePoison 0x40004 4 = none) ∧
    (let e : Code := { core := 0, ctx := 0, rev := isaRev, op := true, addr := 0x40000, words := [1, 2] }
     e.core = 0 ∧ e.ctx = base.me.master.ctx ∧ e.op = true ∧ e.words.length = 1 + (fun _ => 1) (e.words.headD 0)) ∧
    (let s := { (lrun lx) with agenda := [.lane 0 9] }; s.agenda = .lane 0 9 :: [] ∧ ({ s with agenda := [] } : State).laneReady 0 9 = true ∧ (∃ f, ({ issuing { s with agenda := [] } 0 with cur := 0, curFlight := 9 } : State).running = some (f, lx)) ∧
      lx.els ≠ []) ∧
    (let s1 := { (lrun { lx with lpc := 0x40000 }) with agenda := [] }; ∃ ws s2, s1.fetchCode (s1.blk 0).master (s1.blk 0).core 0x40000 (fun _ => 0) = (.ok ws, s2)) ∧
    encode .dbgstop = [] ∧
    (∃ e s2, ({ placed (.nop .w32) with walks := (256, 0) } : State).fetchInstr 0 0x40000 = (e, s2) ∧ s2.starved = some 0x40000) := by
  refine ⟨⟨by decide, by decide, by decide, by decide, by decide, by decide, _, _, _, _, pairEq rfl, rfl, by decide, _, rfl, by decide⟩, ?_, ?_, ?_, by decide, ⟨_, _, _, _, _, pairEq rfl, rfl⟩, errPair (by decide), by decide,
    ⟨(fun _ h => nomatch h), _, pairEq rfl, by decide, _, pairEq rfl, by decide⟩, by decide, ⟨by decide, by decide, ⟨_, rfl⟩, by decide⟩, ⟨_, _, pairEq rfl⟩, by decide, _, _, rfl, by decide⟩
  · exact ⟨_, _, _, pairEq rfl, rfl, rfl, by decide⟩
  · exact ⟨_, _, _, pairEq rfl, rfl, rfl, by decide⟩
  · exact ⟨_, _, _, pairEq rfl, rfl, rfl, by decide, .inl ⟨1, by decide⟩, by decide⟩

theorem wit_SpecWordsDecode : (0xFFFFFFFF : Word).extractLsb' 0 2 = 3 ∧ (0 : Word).extractLsb' 0 2 ≠ 3 ∧ (0 : Word).extractLsb' 2 6 = 0 := by decide

theorem wit_EncodedInstructionDecodes :
    ((Instr.tadd f64 1 2 3).wf = true ∧ (instrRaw (.tadd f64 1 2 3)).isSome = true) ∧ ((Instr.ladd 7 1 2 3).wf = true ∧ ∃ w, laneWord (.ladd 7 1 2 3) = some w) :=
  ⟨by decide, by decide, _, rfl⟩

theorem wit_StepKeepsMemoryCanonical : base.MemOk ∧ ∃ s', Steps base s' := by
  refine ⟨by unfold State.MemOk; decide, ?_⟩
  unfold Steps
  exact ⟨_, rfl⟩

end Sys2Proof.Tests
end

/-! SUPPORT. A scalar instruction whose sources can be read: what it reads, writes and pops, the results that the rule tables give, and the
statement about them. -/

namespace Sys2Proof.Claims

open Sys2Proof.Machine

/-! ## Operands: sources that can be read, pops, and the two shapes of a scalar instruction (R24, R26 to R28, R107) -/

theorem portOk_of_usable {s : State} {q : Nat} (h : ¬(!(s.me.qcwOf q).v || !bitOf s.me.hdr.roles (roleOf q)) = true) :
    portOk s q = .ok () := by
  rw [portOk, if_pos (by simpa only [Bool.and_eq_true, Bool.or_eq_true, Bool.not_eq_true', not_or, Bool.not_eq_false] using h)]

/-- What `srcValue` says of a source is what reading it gives: the head of a pop port, the free places of a push port, or a register. -/
theorem useReg_of_srcValue {s : State} {r : R6} {v : Dword} (h : srcValue s r = some v) : useReg s r = .ok v := by
  simp only [srcValue] at h
  split at h
  next port =>
    split at h
    next => cases h
    next usable =>
      have ok : portOk s (queueOf r) = .ok () := portOk_of_usable usable
      split at h
      next pop =>
        split at h
        next => cases h
        next filled =>
          obtain rfl := Option.some.inj h
          simp only [useReg, port, ok, pop, filled, if_true, if_false, bind, Except.bind, pure, Except.pure]
      next push =>
        split at h
        next => cases h
        next settled =>
          obtain rfl := Option.some.inj h
          simp only [useReg, port, ok, push, settled, Bool.false_eq_true, if_true, if_false, bind, Except.bind, pure, Except.pure, Qcw.free]
  next register =>
    split at h
    next => cases h
    next settled =>
      obtain rfl := Option.some.inj h
      simp only [useReg, register, settled, Bool.false_eq_true, if_false]

/-- Sources that can all be read are read in order. -/
theorem useRegs_of_srcValue {s : State} : ∀ {rs : List R6} {vs : List Dword}, rs.map (srcValue s) = vs.map some → useRegs s rs = .ok vs
  | [], [], _ => rfl
  | r :: rs, v :: vs, h => by
    obtain ⟨hv, hvs⟩ := List.cons.inj h
    simp only [useRegs, useReg_of_srcValue hv, useRegs_of_srcValue hvs, bind, Except.bind, pure, Except.pure]

/-- Popping the sources changes the issuing block alone. -/
theorem popSrcs_setMe (s : State) (b : Block) (rs : List R6) : popSrcs (s.setMe b) rs = s.setMe (pops b rs) := by
  induction rs generalizing b with
  | nil => rfl
  | cons r rs ih =>
    by_cases hp : popPort r = true
    · simpa only [popSrcs, pops, List.foldl_cons, hp, if_true, State.modMe_setMe] using
        ih (b.setQcw (queueOf r) ((b.qcwOf (queueOf r)).popped 1))
    · simpa only [popSrcs, pops, List.foldl_cons, hp, Bool.false_eq_true, if_false] using ih b

/-- An instruction of scalar sources and a scalar register: the register written, the flags merged, the sources popped, the pc moved. -/
theorem scalarOp_of_srcValue {s : State} {f : Form} {srcs : List R6} {vs : List Dword} {d : R6} {g : List Dword → Ctl (Dword × Nat)}
    {v : Dword} {fl : Nat} (h : s.Goes f) (hs : srcs.map (srcValue s) = vs.map some) (hd : s.Ready d) (hg : g vs = .ok (v, fl)) :
    scalarOp s f srcs d g = s.setMe ((pops ((s.me.setReg d v).mergeFlags fl) srcs).past f) := by
  unfold scalarOp
  refine (State.ctl_ok h (t := s.setMe (pops ((s.me.setReg d v).mergeFlags fl) srcs)) ?effect).trans ?past
  case effect =>
    simp only [useRegs_of_srcValue hs, dstReady_ready hd, hg, putDst_plain v hd.1, bind, Except.bind, pure, Except.pure, State.modMe_setMe,
      popSrcs_setMe]
  case past => rw [State.advance_eq, State.setMe_setMe, State.me_setMe]

/-- An instruction of scalar sources and a condition register: the flags merged, the condition written, the sources popped, the pc moved. -/
theorem condOp_of_srcValue {s : State} {f : Form} {srcs : List R6} {vs : List Dword} {d : R6} {g : List Dword → Ctl (Bool × Nat)}
    {v : Bool} {fl : Nat} (h : s.Goes f) (hs : srcs.map (srcValue s) = vs.map some) (hd : s.me.busyK d.toNat = false)
    (hg : g vs = .ok (v, fl)) :
    condOp s f srcs d g = s.setMe ((pops ((s.me.mergeFlags fl).setCond d.toNat v) srcs).past f) := by
  unfold condOp
  refine (State.ctl_ok h (t := s.setMe (pops ((s.me.mergeFlags fl).setCond d.toNat v) srcs)) ?effect).trans ?past
  case effect =>
    simp only [useRegs_of_srcValue hs, hd, hg, Bool.false_eq_true, if_false, bind, Except.bind, pure, Except.pure, State.modMe, popSrcs_setMe]
  case past => rw [State.advance_eq, State.setMe_setMe, State.me_setMe]

/-! ## R110 and R111: the model's arithmetic is the rules' -/

/-- With .sat the exact result is clamped, without it the wrapped one is the exact one modulo 2^64. -/
theorem wrapOrSat_eq_fit {sat : Bool} {w : Dword} {e : Int} (h : w = BitVec.ofInt 64 e) : wrapOrSat sat w e = fit sat e := by
  have clamp : clampInt (intMin true 64) (intMax true 64) e = max (-2 ^ 63) (min (2 ^ 63 - 1) e) := by
    simp only [clampInt, intMin, intMax, if_true]
    omega
  cases sat with
  | false => exact h
  | true =>
    apply BitVec.eq_of_toNat_eq
    simp only [wrapOrSat, fit, if_true, satBits, clamp, wrapBits, BitVec.toNat_ofNat, BitVec.toNat_ofInt]
    omega

theorem sub_eq_ofInt (x y : Dword) : x - y = BitVec.ofInt 64 (x.toInt - y.toInt) := by
  apply BitVec.eq_of_toInt_eq
  rw [BitVec.toInt_sub, BitVec.toInt_ofInt]

/-- Bits [127:64] of an exact 128-bit product, both ways. -/
theorem extractHigh_ofInt (p : Int) : (BitVec.ofInt 128 p).extractLsb' 64 64 = BitVec.ofInt 64 (p / (2 ^ 64 : Nat)) := by
  apply BitVec.eq_of_toNat_eq
  simp only [BitVec.extractLsb'_toNat, BitVec.toNat_ofInt, Nat.shiftRight_eq_div_pow]
  omega

theorem mulHi_eq (x y : Dword) : mulHi x y = (x.signExtend 128 * y.signExtend 128).extractLsb' 64 64 := by
  have product : x.signExtend 128 * y.signExtend 128 = BitVec.ofInt 128 (x.toInt * y.toInt) := (BitVec.ofInt_mul _ _).symm
  rw [product, extractHigh_ofInt, mulHi]

theorem mulHiN_eq (x y : Dword) : mulHiN x y = (x.zeroExtend 128 * y.zeroExtend 128).extractLsb' 64 64 := by
  have product : (x.zeroExtend 128 * y.zeroExtend 128).toNat = x.toNat * y.toNat := by
    have fits : x.toNat * y.toNat < 2 ^ 64 * 2 ^ 64 := Nat.mul_lt_mul'' x.isLt y.isLt
    simp only [BitVec.toNat_mul, BitVec.truncate_eq_setWidth, BitVec.toNat_setWidth_of_le (show 64 ≤ 128 by decide)]
    exact Nat.mod_eq_of_lt fits
  apply BitVec.eq_of_toNat_eq
  rw [BitVec.extractLsb'_toNat, product, mulHiN, BitVec.toNat_ofNat, Nat.shiftRight_eq_div_pow]

theorem divS_eq (x y : Dword) : divS x y = if y = 0 then BitVec.allOnes 64 else BitVec.ofInt 64 (x.toInt.tdiv y.toInt) := by
  have quotient : x.sdiv y = BitVec.ofInt 64 (x.toInt.tdiv y.toInt) :=
    BitVec.eq_of_toInt_eq (by rw [BitVec.toInt_sdiv, BitVec.toInt_ofInt])
  rw [divS, quotient]

theorem divU_eq (x y : Dword) : divU x y = if y = 0 then BitVec.allOnes 64 else BitVec.ofNat 64 (x.toNat / y.toNat) := by
  have quotient : x.udiv y = BitVec.ofNat 64 (x.toNat / y.toNat) := by
    rw [← BitVec.toNat_udiv, BitVec.ofNat_toNat, BitVec.setWidth_eq]
    rfl
  rw [divU, quotient]

theorem remS_eq (x y : Dword) : remS x y = if y = 0 then x else BitVec.ofInt 64 (x.toInt - y.toInt * x.toInt.tdiv y.toInt) := by
  rw [← Int.tmod_def, ← BitVec.toInt_srem, BitVec.ofInt_toInt, remS]

theorem remU_eq (x y : Dword) : remU x y = if y = 0 then x else BitVec.ofNat 64 (x.toNat - y.toNat * (x.toNat / y.toNat)) := by
  rw [← Nat.mod_eq_sub_mul_div, ← BitVec.toNat_umod, BitVec.ofNat_toNat, BitVec.setWidth_eq]
  rfl

theorem shiftLeft_eq_ofNat (x : Dword) (n : Nat) : x <<< n = BitVec.ofNat 64 (x.toNat * 2 ^ n) := by
  apply BitVec.eq_of_toNat_eq
  rw [BitVec.toNat_shiftLeft, BitVec.toNat_ofNat, Nat.shiftLeft_eq]

theorem ushiftRight_eq_ofNat (x : Dword) (n : Nat) : x >>> n = BitVec.ofNat 64 (x.toNat / 2 ^ n) := by
  rw [← Nat.shiftRight_eq_div_pow, ← BitVec.toNat_ushiftRight, BitVec.ofNat_toNat, BitVec.setWidth_eq]

theorem sshiftRight_eq_ofInt (x : Dword) (n : Nat) : x.sshiftRight n = BitVec.ofInt 64 (x.toInt / 2 ^ n) := by
  rw [BitVec.sshiftRight_eq, Int.shiftRight_eq_div_pow]
  norm_cast

theorem rotateRight_eq_shifts (x : Dword) {n : Nat} (h : n < 64) : x.rotateRight n = x >>> n ||| x <<< (64 - n) := by
  rw [BitVec.rotateRight_def, Nat.mod_eq_of_lt h]

theorem amount_lt (y : Dword) : amount y < 64 := Nat.mod_lt _ (by decide)

/-! ## R112, R113: immediates, counts and extensions -/

theorem immRI_eq_imm64 (f : Form) (imm : BitVec 12) : immRI f imm = imm64 f imm := by
  cases f <;> rfl

theorem clzBits_eq (x : Dword) : clzBits 64 x.toNat = if x = 0 then 64 else 63 - Nat.log2 x.toNat := by
  have zero : x.toNat = 0 ↔ x = 0 := BitVec.toNat_inj (y := 0)
  simp only [clzBits, Nat.mod_eq_of_lt x.isLt, zero]

/-- Counting zeros from bit 0 up finds the lowest set bit. -/
theorem ctzBits_eq_find (n v : Nat) : ctzBits n v = ((List.range n).find? (fun i => v.testBit i)).getD n := by
  induction n generalizing v with
  | zero => rfl
  | succ n ih =>
    have shift : (fun i => v.testBit i) ∘ Nat.succ = fun i => (v / 2).testBit i := funext fun i => Nat.testBit_succ v i
    rw [ctzBits, List.range_succ_eq_map, List.find?_cons, Nat.testBit_zero]
    by_cases h : v % 2 = 1
    · rw [if_pos h, decide_eq_true h]
      rfl
    · rw [if_neg h, decide_eq_false h, ih, List.find?_map, shift]
      cases (List.range n).find? (fun i => (v / 2).testBit i) <;> rfl

theorem popBits_eq_countP (n v : Nat) : popBits n v = (List.range n).countP (fun i => v.testBit i) := by
  induction n generalizing v with
  | zero => rfl
  | succ n ih =>
    rw [popBits, ih, List.range_succ_eq_map, List.countP_cons, List.countP_map, Nat.testBit_zero]
    have bit0 : v % 2 = if decide (v % 2 = 1) = true then 1 else 0 := by
      rcases Nat.mod_two_eq_zero_or_one v with h | h <;> rw [h] <;> rfl
    have shift : (fun i => v.testBit i) ∘ Nat.succ = fun i => (v / 2).testBit i := funext fun i => Nat.testBit_succ v i
    rw [← bit0, shift, Nat.add_comm]

/-- A pattern read as two's complement is the integer of the bit vector of that width. -/
theorem sx_eq_toInt {n : Nat} (v : Nat) (h : 0 < n) : sx n v = (BitVec.ofNat n v).toInt := by
  obtain ⟨m, rfl⟩ := Nat.exists_eq_succ_of_ne_zero (Nat.ne_of_gt h)
  simp only [sx, BitVec.toInt_eq_toNat_cond, BitVec.toNat_ofNat, Nat.succ_eq_add_one, Nat.add_sub_cancel, Nat.pow_succ, Nat.mul_comm 2,
    Nat.mul_lt_mul_right (Nat.two_pos)]

theorem extWidth_pos (b : R6) : 0 < extWidth b := by
  unfold extWidth
  split
  next => decide
  next =>
    split
    next => decide
    next => decide

theorem sext_eq (b : R6) (x : Dword) : BitVec.ofInt 64 (sx (extWidth b) x.toNat) = (x.truncate (extBits b)).signExtend 64 := by
  rw [sx_eq_toInt _ (extWidth_pos b), BitVec.ofNat_toNat]
  rfl

theorem zext_eq (b : R6) (x : Dword) : BitVec.ofNat 64 (x.toNat % 2 ^ extWidth b) = (x.truncate (extBits b)).zeroExtend 64 := by
  rw [← BitVec.toNat_setWidth, BitVec.ofNat_toNat]
  rfl

/-- LI with F 2: the literal above, the low half of the old value below (R115). -/
theorem literalAbove_eq (l : Word) (x : Dword) :
    BitVec.ofNat 64 (l.toNat * 2 ^ 32 + x.toNat % 2 ^ 32) = l.zeroExtend 64 <<< 32 ||| x &&& 0xFFFFFFFF := by
  have high : (l.zeroExtend 64 <<< 32).toNat = 2 ^ 32 * l.toNat := by
    simp only [BitVec.toNat_shiftLeft, BitVec.truncate_eq_setWidth, BitVec.toNat_setWidth, Nat.shiftLeft_eq]
    omega
  have low : (x &&& 0xFFFFFFFF).toNat = x.toNat % 2 ^ 32 :=
    (BitVec.toNat_and x _).trans (Nat.and_two_pow_sub_one_eq_mod x.toNat 32)
  apply BitVec.eq_of_toNat_eq
  rw [BitVec.toNat_or, high, low, ← Nat.two_pow_add_eq_or_of_lt (Nat.mod_lt _ (by decide)), BitVec.toNat_ofNat]
  omega

/-! ## Words put together from fields (R45, R152, R154) -/

theorem bit_eq_ofNat (b : Bool) : bit b = BitVec.ofNat 1 (b2n b) := by cases b <;> rfl

theorem b2n_mod_two (b : Bool) : b2n b % 2 ^ 1 = b2n b := by cases b <;> rfl

/-- A field put below a word of fields. -/
theorem ofNat_append_ofNat (m n a b : Nat) :
    BitVec.ofNat m a ++ BitVec.ofNat n b = BitVec.ofNat (m + n) (a * 2 ^ n + b % 2 ^ n) := by
  have h : b % 2 ^ n < 2 ^ n := Nat.mod_lt b (Nat.two_pow_pos n)
  have above : (2 ^ n * a + b % 2 ^ n) / 2 ^ n = a := by
    rw [Nat.mul_add_div (Nat.two_pow_pos n), Nat.div_eq_of_lt h, Nat.add_zero]
  have below : (2 ^ n * a + b % 2 ^ n) % 2 ^ n = b % 2 ^ n := by
    rw [Nat.mul_add_mod, Nat.mod_mod]
  apply BitVec.eq_of_toNat_eq
  rw [BitVec.toNat_append, BitVec.toNat_ofNat, BitVec.toNat_ofNat, BitVec.toNat_ofNat, Nat.shiftLeft_eq, Nat.mul_comm, Nat.mul_comm a,
    ← Nat.two_pow_add_eq_or_of_lt h, Nat.pow_add, Nat.mul_comm (2 ^ m), Nat.mod_mul, above, below, Nat.add_comm]

theorem recs_bne_nil (fs : List Flight) : (fs != []) = !fs.isEmpty := by cases fs <;> rfl

theorem statusWord_eq (s : State) : s.statusWord s.me = specialReg s 0 := by
  simp only [specialReg, bit_eq_ofNat, ofNat_append_ofNat, b2n_mod_two, State.statusWord, State.cgpos, State.grouped, State.detOn, clusterOf,
    recs_bne_nil]
  refine congrArg (BitVec.ofNat 64) ?_
  omega

theorem pixReg_eq (s : State) : s.me.pixReg = specialReg s 6 := by
  simp only [specialReg, Block.pixReg]
  cases s.me.recs with
  | nil => rfl
  | cons f fs =>
    simp only [pixWord, b2n, if_true, ofNat_append_ofNat]
    refine congrArg (BitVec.ofNat 64) ?_
    omega

theorem eptWord_eq (s : State) : s.me.eptWord = specialReg s 14 := by
  simp only [specialReg, Block.eptWord, ofNat_append_ofNat]
  apply BitVec.eq_of_toNat_eq
  simp only [BitVec.toNat_ofNat]
  omega

theorem detWord_eq (s : State) : s.detWord s.me = specialReg s 15 := by
  have epoch (x : Word) : x = BitVec.ofNat 32 x.toNat := by rw [BitVec.ofNat_toNat, BitVec.setWidth_eq]
  simp only [specialReg, State.detWord, State.detOn]
  rw [epoch (s.lch s.me.launch).epoch]
  simp only [bit_eq_ofNat, ofNat_append_ofNat, b2n_mod_two, BitVec.toNat_ofNat]
  apply BitVec.eq_of_toNat_eq
  simp only [BitVec.toNat_ofNat]
  omega

theorem loopIndex_eq (b : Block) (n : Nat) : b.loopIndex n = (b.seenNest[n]?.map (fun l => l.index)).getD 0 := by
  unfold Block.loopIndex
  cases b.seenNest[n]? <;> rfl

/-- R44 to R46: RDSR reads each register as the table lays it out. -/
theorem srValue_eq_specialReg (s : State) : ∀ n < 0x1E, s.srValue s.me n = specialReg s n
  | 0, _ => statusWord_eq s
  | 6, _ => pixReg_eq s
  | 14, _ => eptWord_eq s
  | 15, _ => detWord_eq s
  | 20, _ => BitVec.ofNat_toNat ..
  | 21, _ | 22, _ | 23, _ | 24, _ | 25, _ | 26, _ => congrArg (BitVec.ofNat 64) (loopIndex_eq ..)
  | 1, _ | 2, _ | 3, _ | 4, _ | 5, _ | 7, _ | 8, _ | 9, _ | 10, _ | 11, _ | 12, _ | 13, _
  | 16, _ | 17, _ | 18, _ | 19, _ | 27, _ | 28, _ | 29, _ => rfl
  | n + 30, h => absurd h (by omega)

theorem qtryWord_eq (q : Qcw) : dset q.d1 63 63 (b2n q.v) = bit q.v ++ q.d1.extractLsb' 0 63 := by
  apply BitVec.eq_of_toNat_eq
  have low : (q.d1.extractLsb' 0 63) = BitVec.ofNat 63 (q.d1.toNat % 2 ^ 63) := by
    apply BitVec.eq_of_toNat_eq
    rw [BitVec.extractLsb'_toNat, Nat.shiftRight_zero, BitVec.toNat_ofNat, Nat.mod_mod]
  have := q.d1.isLt
  simp only [low, bit_eq_ofNat, ofNat_append_ofNat, dset, setFld, BitVec.toNat_ofNat]
  cases q.v <;> simp only [b2n] <;> omega

theorem heatWord_eq (s : State) (z : Nat) : s.heatWord z s.myLch = heatAnswer s z := by
  by_cases hz : 24 ≤ z
  · simp only [State.heatWord, heatAnswer, hz, if_true]
  · by_cases hd : (s.zone z).state = 0
    · have classes : List.range 4 = [0, 1, 2, 3] := rfl
      have wet : b2n false = 0 := rfl
      simp only [State.heatWord, heatAnswer, hz, hd, classes, List.foldl, State.myLch, bit_eq_ofNat, ofNat_append_ofNat, b2n_mod_two,
        bne_self_eq_false, Bool.false_eq_true, ne_eq, not_true, if_false, wet]
      refine congrArg (BitVec.ofNat 64) ?_
      omega
    · have dry : ((s.zone z).state != 0) = true := bne_iff_ne.mpr hd
      simp only [State.heatWord, heatAnswer, hz, hd, dry, ne_eq, not_false_eq_true, if_true, if_false]
      rfl

theorem testBit_setFld_self (w n m : Nat) (v : Bool) : (setFld w n n (b2n v)).testBit m = if m = n then v else w.testBit m := by
  have split : setFld w n n (b2n v) = 2 ^ n * (2 * (w / 2 ^ (n + 1)) + b2n v) + w % 2 ^ n := by
    rw [setFld, Nat.add_sub_cancel_left, b2n_mod_two, Nat.pow_succ, Nat.mul_add, Nat.mul_comm _ (2 ^ n * 2), Nat.mul_assoc, Nat.mul_comm (b2n v)]
  rw [split, Nat.testBit_two_pow_mul_add _ (Nat.mod_lt _ (Nat.two_pow_pos n))]
  rcases Nat.lt_trichotomy m n with h | rfl | h
  · rw [if_pos h, if_neg (Nat.ne_of_lt h), Nat.testBit_mod_two_pow, decide_eq_true h, Bool.true_and]
  · rw [if_neg (Nat.lt_irrefl _), if_pos rfl, Nat.sub_self, Nat.testBit_zero, Nat.mul_add_mod]
    cases v <;> rfl
  · obtain ⟨j, rfl⟩ := Nat.exists_eq_add_of_lt h
    have above : (2 * (w / 2 ^ (n + 1)) + b2n v) / 2 = w / 2 ^ (n + 1) := by
      have := b2n_mod_two v
      omega
    rw [if_neg (by omega), if_neg (by omega), show n + j + 1 - n = j + 1 by omega, Nat.testBit_succ, above, Nat.testBit_div_two_pow]
    congr 1
    omega

theorem cond_setCond (b : Block) {n m : Nat} (v : Bool) (hn : 0 < n) (hm : m < 8) :
    (b.setCond n v).cond m = if m = n then v else b.cond m := by
  rcases Nat.eq_zero_or_pos m with rfl | h
  · rw [Block.cond_zero, Block.cond_zero, if_neg (Nat.ne_of_lt hn)]
  · simp only [Block.cond, Block.setCond, if_neg (Nat.ne_of_gt hn), BitVec.getLsbD_ofNat, testBit_setFld_self, decide_eq_true hm, Bool.true_and,
      beq_eq_false_iff_ne.mpr (Nat.ne_of_gt h), Bool.false_or, BitVec.testBit_toNat]

theorem cmpHolds_of_cmpCond {cc : R6} {x y : Dword} {v : Bool} (h : cmpCond cc x y = some v) : cmpHolds cc x y = v := by
  unfold cmpCond at h
  split at h
  case h_1 code =>
    obtain rfl : cc = 0 := BitVec.eq_of_toNat_eq code
    exact Option.some.inj h
  case h_2 code =>
    obtain rfl : cc = 1 := BitVec.eq_of_toNat_eq code
    exact (show (x != y) = decide (x ≠ y) from (decide_not ..).symm).trans (Option.some.inj h)
  case h_3 code =>
    obtain rfl : cc = 2 := BitVec.eq_of_toNat_eq code
    exact BitVec.slt_eq_decide.trans (Option.some.inj h)
  case h_4 code =>
    obtain rfl : cc = 3 := BitVec.eq_of_toNat_eq code
    exact BitVec.sle_eq_decide.trans (Option.some.inj h)
  case h_5 code =>
    obtain rfl : cc = 4 := BitVec.eq_of_toNat_eq code
    exact BitVec.ult_eq_decide.trans (Option.some.inj h)
  case h_6 code =>
    obtain rfl : cc = 5 := BitVec.eq_of_toNat_eq code
    exact BitVec.ule_eq_decide.trans (Option.some.inj h)
  case h_7 => cases h

/-! ## Every instruction of the rules is a scalar operation with the rule's value -/

/-- The instruction runs as the scalar operation that the rule describes. -/
def RunsAs (s : State) (i : Instr) (x : ScalarRule) : Prop :=
  exec i s = .next (scalarOp s x.form x.srcs x.dst (fun vs => .ok (x.value vs, 0)))

theorem runsAs_of_value {s : State} {i : Instr} {x y : ScalarRule} {g : List Dword → Dword} (h : some y = some x)
    (hi : exec i s = .next (scalarOp s y.form y.srcs y.dst (fun vs => .ok (g vs, 0)))) (hg : ∀ vs, g vs = y.value vs) : RunsAs s i x := by
  obtain rfl := Option.some.inj h
  obtain rfl : g = y.value := funext hg
  exact hi

/-- With its condition register settled, SEL reads both sources and selects (R114). -/
theorem execSel_settled {s : State} {k : BitVec 3} (f : Form) (n : Bool) (d a b : R6) (h : s.me.busyK k.toNat = false) :
    execSel f n k d a b s =
      .next (scalarOp s f [a, b] d (fun vs => .ok (if (s.me.cond k.toNat ^^ n) = true then vs.getD 0 0 else vs.getD 1 0, 0))) := by
  rw [execSel, h]
  rfl

/-- R110 to R115. -/
theorem runsAs_intRule {s : State} {i : Instr} {x : ScalarRule} (h : intRule s.me.cond i = some x) (hk : ∀ n ∈ x.conds, s.me.busyK n = false) :
    RunsAs s i x := by
  cases i with
  | add f d a b => exact runsAs_of_value h rfl fun _ => wrapOrSat_eq_fit (by rw [BitVec.ofInt_add, BitVec.ofInt_toInt, BitVec.ofInt_toInt])
  | sub f d a b => exact runsAs_of_value h rfl fun _ => wrapOrSat_eq_fit (sub_eq_ofInt _ _)
  | mul f d a b => exact runsAs_of_value h rfl fun _ => wrapOrSat_eq_fit (by rw [BitVec.ofInt_mul, BitVec.ofInt_toInt, BitVec.ofInt_toInt])
  | mulh f d a b => exact runsAs_of_value h rfl fun _ => mulHi_eq _ _
  | mulhn f d a b => exact runsAs_of_value h rfl fun _ => mulHiN_eq _ _
  | div f d a b => exact runsAs_of_value h rfl fun _ => divS_eq _ _
  | divn f d a b => exact runsAs_of_value h rfl fun _ => divU_eq _ _
  | rem f d a b => exact runsAs_of_value h rfl fun _ => remS_eq _ _
  | remn f d a b => exact runsAs_of_value h rfl fun _ => remU_eq _ _
  | and_ f d a b => exact runsAs_of_value h rfl fun _ => rfl
  | or_ f d a b => exact runsAs_of_value h rfl fun _ => rfl
  | xor_ f d a b => exact runsAs_of_value h rfl fun _ => rfl
  | andn f d a b => exact runsAs_of_value h rfl fun _ => rfl
  | shl f d a b => exact runsAs_of_value h rfl fun _ => shiftLeft_eq_ofNat _ _
  | shr f d a b => exact runsAs_of_value h rfl fun _ => ushiftRight_eq_ofNat _ _
  | sra f d a b => exact runsAs_of_value h rfl fun _ => sshiftRight_eq_ofInt _ _
  | rotr f d a b => exact runsAs_of_value h rfl fun _ => rotateRight_eq_shifts _ (amount_lt _)
  | min_ f d a b => exact runsAs_of_value h rfl fun _ => by simp only [BitVec.sle_iff_toInt_le]
  | max_ f d a b => exact runsAs_of_value h rfl fun _ => by simp only [BitVec.sle_iff_toInt_le]
  | minn f d a b => exact runsAs_of_value h rfl fun _ => rfl
  | maxn f d a b => exact runsAs_of_value h rfl fun _ => rfl
  | addI f imm d a => exact runsAs_of_value h rfl fun _ => by rw [immRI_eq_imm64]
  | andI f imm d a => exact runsAs_of_value h rfl fun _ => by rw [immRI_eq_imm64]
  | orI f imm d a => exact runsAs_of_value h rfl fun _ => by rw [immRI_eq_imm64]
  | xorI f imm d a => exact runsAs_of_value h rfl fun _ => by rw [immRI_eq_imm64]
  | shlI f n d a => exact runsAs_of_value h rfl fun _ => shiftLeft_eq_ofNat _ _
  | shrI f n d a => exact runsAs_of_value h rfl fun _ => ushiftRight_eq_ofNat _ _
  | sraI f n d a => exact runsAs_of_value h rfl fun _ => sshiftRight_eq_ofInt _ _
  | rotrI f n d a => exact runsAs_of_value h rfl fun _ => rotateRight_eq_shifts _ n.isLt
  | clz f d a => exact runsAs_of_value h rfl fun _ => congrArg (BitVec.ofNat 64) (clzBits_eq _)
  | ctz f d a => exact runsAs_of_value h rfl fun _ => congrArg (BitVec.ofNat 64) (ctzBits_eq_find 64 _)
  | popc f d a => exact runsAs_of_value h rfl fun _ => congrArg (BitVec.ofNat 64) (popBits_eq_countP 64 _)
  | sext f d a b => exact runsAs_of_value h rfl fun _ => sext_eq b _
  | zext f d a b => exact runsAs_of_value h rfl fun _ => zext_eq b _
  | mov f d a => exact runsAs_of_value h rfl fun _ => rfl
  | sel f n k d a b => exact runsAs_of_value h (execSel_settled f n d a b (hk _ (by cases h; exact List.mem_singleton_self _))) fun _ => rfl
  | li f w d =>
    rw [intRule] at h
    split at h
    next sext =>
      subst sext
      exact runsAs_of_value h rfl fun _ => rfl
    next =>
      split at h
      next zext =>
        subst zext
        exact runsAs_of_value h rfl fun _ => rfl
      next =>
        obtain ⟨high, h⟩ := Option.ite_none_right_eq_some.mp h
        subst high
        exact runsAs_of_value h rfl fun _ => literalAbove_eq _ _
  | _ => cases h

/-- RDTIME, RDSR, QTRY, HEATQ (R143, R146, R152, R154). -/
theorem runsAs_readRule {s : State} {i : Instr} {x : ScalarRule} (h : readRule s i = some x) : RunsAs s i x := by
  cases i with
  | rdtime f d => exact runsAs_of_value h rfl fun _ => rfl
  | rdsr f n d =>
    obtain ⟨hn, h⟩ := Option.ite_none_right_eq_some.mp h
    exact runsAs_of_value h rfl fun _ => srValue_eq_specialReg s _ hn
  | qtry f q d =>
    obtain ⟨-, h⟩ := Option.ite_none_right_eq_some.mp h
    exact runsAs_of_value h rfl fun _ => qtryWord_eq _
  | heatq f d a b => exact runsAs_of_value h rfl fun _ => heatWord_eq s _
  | _ => cases h

/-- Settles O1: every instruction of the two rule tables runs as one scalar operation, whose result, pops and frame are said once; CMP as one
condition operation; and s0 and k0 by how registers read back. -/
theorem scalarInstructionWritesResult : Obligations.ScalarInstructionWritesResult := by
  refine ⟨?result, ?condition, ?registers⟩
  case result =>
    intro s i x vs hrule hgoes hconds hsrcs hdst
    have runs : RunsAs s i x := hrule.elim (fun h => runsAs_intRule h hconds) runsAs_readRule
    rw [runs, scalarOp_of_srcValue hgoes hsrcs hdst rfl, Block.mergeFlags_zero]
  case condition =>
    intro s f cc d a b x y v hv hgoes hsrcs hd
    have holds : cmpHolds cc x y = v := cmpHolds_of_cmpCond hv
    have exec_cmp : exec (.cmp f cc d a b) s = .next (condOp s f [a, b] d (fun vs => .ok (cmpHolds cc (vs.getD 0 0) (vs.getD 1 0), 0))) := rfl
    rw [exec_cmp, condOp_of_srcValue (vs := [x, y]) hgoes hsrcs hd rfl, Block.mergeFlags_zero]
    simp only [List.getD_cons_zero, List.getD_cons_succ, holds]
  case registers =>
    exact fun b => ⟨b.reg_zero, b.cond_zero, b.setReg_zero, b.setCond_zero, fun r v hr => b.reg_setReg r v hr,
      fun _ v _ hn _ hm => cond_setCond b v hn hm⟩

end Sys2Proof.Claims

/-! SUPPORT. One unit of an element-wise instruction that is the oldest in flight: what it reads, what its write-back stores, how its flight
moves on, and the statement about them. -/

namespace Sys2Proof.Claims

open Sys2Proof.Machine

/-! ## The element-wise instructions among the tile instructions (R187 to R193) -/

/-- How the model treats an element-wise instruction: no collective, no access to global memory, D only written, B only read, its units those of
`eltUnit`. -/
structure ElementUnits (i : Instr) : Prop where
  elementWise : isElementWise i = true
  coll : isColl i = false
  readsD : readsD i = false
  writesB : writesB i = false
  keepsAbn : keepsAbn i (instrForm i).mods = ordersAbn i
  isGlobal : ∀ f : Flight, f.instr = i → f.isGlobal = false
  unitOf : ∀ u : Ux, u.f.instr = i → unitOf u = some (eltUnit u)

theorem elementUnits_of_isElementWise {i : Instr} (h : isElementWise i = true) : ElementUnits i := by
  unfold isElementWise at h
  split at h
  case h_29 => cases h
  all_goals exact ⟨rfl, rfl, rfl, rfl, rfl, fun f hf => by rw [Flight.isGlobal, hf], fun u hu => by rw [Sys2Proof.Machine.unitOf, hu]⟩

/-! ## Operands that are no channel ports (R31, R157) -/

theorem locOf_tile {s : State} {blk : Nat} {o : Opnd} (h : isChan o.name = false) : s.locOf blk o = ⟨blk, o.tsr, o.inst, none⟩ := by
  rw [State.locOf, h]
  rfl

theorem locTo_tile {s : State} {blk : Nat} {o : Opnd} (h : isChan o.name = false) : s.locTo blk o = ⟨blk, o.tsr, o.inst, none⟩ := by
  rw [State.locTo, h]
  rfl

/-! What a unit works with, read back. -/

@[simp] theorem ux_s (s : State) (blk : Nat) (f : Flight) : (ux s blk f).s = s := rfl
@[simp] theorem ux_blk (s : State) (blk : Nat) (f : Flight) : (ux s blk f).blk = blk := rfl
@[simp] theorem ux_b (s : State) (blk : Nat) (f : Flight) : (ux s blk f).b = s.blk blk := rfl
@[simp] theorem ux_f (s : State) (blk : Nat) (f : Flight) : (ux s blk f).f = f := rfl
@[simp] theorem ux_x (s : State) (blk : Nat) (f : Flight) : (ux s blk f).x = (instrForm f.instr).mods := rfl
@[simp] theorem ux_ty (s : State) (blk : Nat) (f : Flight) : (ux s blk f).ty = tyMod (instrForm f.instr) := rfl
@[simp] theorem ux_dt (s : State) (blk : Nat) (f : Flight) : (ux s blk f).dt = Opnd.tsrOf f.d := rfl

theorem ofCode_sub_four {n : Nat} (h : 4 ≤ n) : RMode.ofCode (n - 4) = RMode.ofCode n := by
  rw [RMode.ofCode, RMode.ofCode, ← Nat.mod_eq_sub_mod h]

/-- A unit computes in mode() of its instruction (R56). -/
theorem ux_md (s : State) (blk : Nat) (f : Flight) : (ux s blk f).md = laneMode f := by
  rw [laneMode]
  by_cases h : 4 ≤ (instrForm f.instr).mods.rnd.toNat
  · rw [if_pos h, ofCode_sub_four h]
    exact congrArg RMode.ofCode (if_pos h)
  · rw [if_neg h]
    exact congrArg RMode.ofCode (if_neg h)

theorem ux_loc_tile {s : State} {blk : Nat} {f : Flight} {o : Option Opnd} (h : ∀ x ∈ o.toList, isChan x.name = false) :
    (ux s blk f).loc o = ⟨blk, Opnd.tsrOf o, Opnd.instOf o, none⟩ := by
  cases o with
  | none => exact locOf_tile rfl
  | some x => exact locOf_tile (h x (List.mem_singleton_self x))

/-- An operand read through its place is the operand; an absent one reads 0. -/
theorem rd_tile (s : State) (blk : Nat) (f : Flight) (o : Option Opnd) (r c : Nat) :
    (if o.isSome then (ux s blk f).rd ⟨blk, Opnd.tsrOf o, Opnd.instOf o, none⟩ r c else 0) = operandAt (s.blk blk) o (r, c) := by
  cases o <;> rfl

theorem poison_tile {s : State} {blk : Nat} {f : Flight} {o : Option Opnd} {r c : Nat}
    (h : ∀ x ∈ o.toList, (s.blk blk).eltPoison x.tsr x.inst r c = none) :
    (if o.isSome then (ux s blk f).poison ⟨blk, Opnd.tsrOf o, Opnd.instOf o, none⟩ r c r c else []) = [] := by
  cases o with
  | none => rfl
  | some x =>
    have clean := h x (List.mem_singleton_self x)
    simp only [Option.isSome_some, if_true, Ux.poison, ux_b, Opnd.tsrOf, Opnd.instOf, Option.map_some, Option.getD_some, clean]

theorem vuse_tile {b : Block} {o : Option Opnd} {code r c : Nat} {typed : Bool}
    (h : ∀ x ∈ o.toList, isAbn code (b.elt x.tsr x.inst r c) = false) :
    (if o.isSome && typed then vuse code (operandAt b o (r, c)) r c else []) = [] := by
  cases o with
  | none => rfl
  | some x =>
    have clean : isAbn code (operandAt b (some x) (r, c)) = false := h x (List.mem_singleton_self x)
    simp only [vuse, clean, Bool.false_eq_true, if_false, ite_self]

/-- The abandoned results that an element-wise instruction uses at an element (R72). -/
def abnUses (b : Block) (f : Flight) (e : Nat × Nat) : List UEv :=
  let code := (retype (tyMod (instrForm f.instr)) (Opnd.tsrOf f.a)).etype
  if keepsAbn f.instr (instrForm f.instr).mods then []
  else vuse code (operandAt b f.a e) e.1 e.2 ++ (if f.b.isSome && bTyped f.instr then vuse code (operandAt b f.b e) e.1 e.2 else [])
    ++ (if f.c.isSome && cTyped f.instr then vuse code (operandAt b f.c e) e.1 e.2 else [])

/-- The sources of a flight can be read at an element. -/
def CleanSources (b : Block) (f : Flight) (e : Nat × Nat) : Prop :=
  ∀ x ∈ f.a.toList ++ f.b.toList ++ f.c.toList, CleanAt b f.instr (retype (tyMod (instrForm f.instr)) (Opnd.tsrOf f.a)).etype e x

section
variable {b : Block} {i : Instr} {code : Nat} {e : Nat × Nat} {o : Opnd}

theorem CleanAt.tile (h : CleanAt b i code e o) : isChan o.name = false := h.1

theorem CleanAt.sound (h : CleanAt b i code e o) : b.eltPoison o.tsr o.inst e.1 e.2 = none := h.2.1

theorem CleanAt.notAbn (h : CleanAt b i code e o) (hi : ¬ordersAbn i = true) : isAbn code (b.elt o.tsr o.inst e.1 e.2) = false :=
  h.2.2.resolve_left hi

end

theorem abnUses_clean {b : Block} {f : Flight} {e : Nat × Nat} (hi : ElementUnits f.instr) (ha : f.a.isSome = true) (h : CleanSources b f e) :
    abnUses b f e = [] := by
  simp only [CleanSources, List.forall_mem_append] at h
  obtain ⟨⟨cleanA, cleanB⟩, cleanC⟩ := h
  simp only [abnUses, hi.keepsAbn]
  split
  next => rfl
  next orders =>
    have useA := vuse_tile (typed := true) fun x h => (cleanA x h).notAbn orders
    rw [ha] at useA
    rw [vuse_tile fun x h => (cleanB x h).notAbn orders, vuse_tile fun x h => (cleanC x h).notAbn orders]
    exact (List.append_nil _).trans ((List.append_nil _).trans useA)

/-! ## The elements of a unit (R40, R187) -/

theorem groupCells_eq_groupOf (t : Tsr) (i : Idx) : groupCells t i = groupOf t i := by
  simp only [groupCells, groupOf, rangeFrom, List.map_map, Function.comp_def]

theorem groupOf_ne_nil {t : Tsr} {i : Idx} (h : i.col < t.cols) : groupOf t i ≠ [] := by
  simp only [groupOf, ne_eq, List.map_eq_nil_iff, List.range_eq_nil]
  omega

theorem filter_always {α : Type} (l : List α) : l.filter (fun _ => true) = l := List.filter_eq_self.mpr fun _ _ => rfl

theorem filter_never {α : Type} (l : List α) : l.filter (fun _ => false) = [] := List.filter_eq_nil_iff.mpr fun _ _ => Bool.false_ne_true

/-- What an element-wise instruction writes at an element. -/
def writtenAt (b : Block) (f : Flight) (e : Nat × Nat) : UWr := { r := e.1, c := e.2, v := (elementResult b f e).1 }

/-- An element with the flags raised there, if any. -/
def flagsAt (b : Block) (f : Flight) (e : Nat × Nat) : Option (Nat × Nat × Nat) :=
  if (elementResult b f e).2 = 0 then none else some (e.1, e.2, (elementResult b f e).2)

/-- What the next unit of an element-wise instruction does when nothing in its group traps. -/
def groupUnit (s : State) (b : Block) (f : Flight) (t : Tsr) : UnitOut :=
  { st := s, fls := (groupOf t f.idx).filterMap (flagsAt b f), wrs := (groupOf t f.idx).map (writtenAt b f), next := groupAfter t f.idx }

/-- With no mask, a unit whose elements raise no trap is the elements' writes and flags. -/
theorem group_unmasked {s : State} {blk : Nat} {f : Flight} {o : Opnd} {g : Nat → Nat → UWr × Nat × List UEv} (hd : f.d = some o)
    (hm : f.m = none)
    (hg : ∀ e ∈ groupOf o.tsr f.idx, g e.1 e.2 = (writtenAt (s.blk blk) f e, (elementResult (s.blk blk) f e).2, [])) :
    (ux s blk f).group g = groupUnit s (s.blk blk) f o.tsr := by
  have dest : (ux s blk f).dt = o.tsr := by rw [ux_dt, hd]; rfl
  have written (e : Nat × Nat) : (ux s blk f).masked e.1 e.2 = false := by rw [Ux.masked, ux_f, hm]
  have noMask (e : Nat × Nat) : (ux s blk f).maskPoison e.1 e.2 = [] := by rw [Ux.maskPoison, ux_f, hm]; rfl
  have each : (groupOf o.tsr f.idx).map (fun e => g e.1 e.2) =
      (groupOf o.tsr f.idx).map (fun e => (writtenAt (s.blk blk) f e, (elementResult (s.blk blk) f e).2, [])) := List.map_congr_left hg
  have quiet : (groupOf o.tsr f.idx).flatMap (fun _ => ([] : List UEv)) = [] := List.flatMap_eq_nil_iff.mpr fun _ _ => rfl
  simp only [Ux.group, Ux.each, ux_s, ux_f, dest, groupCells_eq_groupOf, written, noMask, Bool.not_false, filter_always, filter_never,
    each, List.filterMap_map, List.map_map, List.flatMap_map, quiet]
  rfl

theorem decide_ite_eq_one (p : Prop) [Decidable p] (x y : Nat) :
    decide ((if p then x else y) = 1) = decide (if p then x = 1 else y = 1) :=
  decide_eq_decide.mpr (by split <;> rfl)

/-- The next unit of an element-wise instruction whose sources can all be read. -/
theorem eltUnit_clean {s : State} {blk : Nat} {f : Flight} {o : Opnd} (hi : ElementUnits f.instr) (hd : f.d = some o) (hm : f.m = none)
    (ha : f.a.isSome = true) (hg : groupOf o.tsr f.idx ≠ []) (clean : ∀ e ∈ groupOf o.tsr f.idx, CleanSources (s.blk blk) f e) :
    eltUnit (ux s blk f) = groupUnit s (s.blk blk) f o.tsr := by
  obtain ⟨e₀, he₀⟩ := List.exists_mem_of_ne_nil _ hg
  refine group_unmasked hd hm fun e he => ?_
  have uses := abnUses_clean hi ha (clean e he)
  have tiles := clean e₀ he₀
  have here := clean e he
  simp only [CleanSources, List.forall_mem_append] at tiles here
  obtain ⟨⟨tileA, tileB⟩, tileC⟩ := tiles
  obtain ⟨⟨cleanA, cleanB⟩, cleanC⟩ := here
  have locA := ux_loc_tile (s := s) (blk := blk) (f := f) fun x h => (tileA x h).tile
  have locB := ux_loc_tile (s := s) (blk := blk) (f := f) fun x h => (tileB x h).tile
  have locC := ux_loc_tile (s := s) (blk := blk) (f := f) fun x h => (tileC x h).tile
  have poisonA := poison_tile (f := f) fun x h => (cleanA x h).sound
  have poisonB := poison_tile (f := f) fun x h => (cleanB x h).sound
  have poisonC := poison_tile (f := f) fun x h => (cleanC x h).sound
  have readA := rd_tile s blk f f.a e.1 e.2
  rw [ha, if_pos rfl] at readA poisonA
  unfold abnUses at uses
  simp only [ux_f, ux_x, ux_ty, ux_dt, ux_md, locA, locB, locC, readA, rd_tile, poisonA, poisonB, poisonC, uses, decide_ite_eq_one, List.append_nil]
  rfl

/-! ## The verdict of a unit whose destination has no bound (R58, R162, R163) -/

theorem bitOf_eq_testBit (w i : Nat) : bitOf w i = w.testBit i := by
  rw [bitOf, Nat.testBit_eq_decide_div_mod_eq]
  rfl

/-- A flag counts for a trap when it is raised and enabled in %mode.TEN. -/
theorem bitOf_ten_and (b : Block) (fl : Nat) {i : Nat} (h : i < 5) :
    bitOf (b.ten &&& fl) i = (Nat.testBit fl i && b.mode.getLsbD (8 + i)) := by
  have enabled : b.ten.testBit i = b.mode.getLsbD (8 + i) := by
    rw [Block.ten, dfld, fld, Nat.testBit_mod_two_pow, Nat.testBit_div_two_pow, decide_eq_true h, Bool.true_and, Nat.add_comm]
    rfl
  rw [bitOf_eq_testBit, Nat.testBit_and, enabled, Bool.and_comm]

theorem find?_cons_eq_ite {α : Type} (p : α → Bool) (a : α) (l : List α) : (a :: l).find? p = if p a then some a else l.find? p := by
  rw [List.find?_cons]
  cases p a <;> rfl

theorem firstFlag_ten_eq_trapFlag (b : Block) (fl : Nat) : firstFlag b.ten fl = trapFlag b fl := by
  have bits := fun i h => bitOf_ten_and b fl (i := i) h
  simp only [firstFlag, trapFlag, bits 4 (by decide), bits 3 (by decide), bits 2 (by decide), bits 1 (by decide), bits 0 (by decide),
    find?_cons_eq_ite, List.find?_nil]

/-- The flags of a group, those of the elements that raise none left out. -/
theorem foldl_flagsAt (b : Block) (f : Flight) (g : List (Nat × Nat)) (m : Nat) :
    (g.filterMap (flagsAt b f)).foldl (fun m e => m ||| e.2.2) m = g.foldl (fun m e => m ||| (elementResult b f e).2) m := by
  induction g generalizing m with
  | nil => rfl
  | cons e g ih =>
    by_cases h : (elementResult b f e).2 = 0
    · have none_ : flagsAt b f e = none := if_pos h
      rw [List.filterMap_cons_none none_, ih, List.foldl_cons, h, Nat.or_zero]
    · have some_ : flagsAt b f e = some (e.1, e.2, (elementResult b f e).2) := if_neg h
      rw [List.filterMap_cons_some some_, List.foldl_cons, List.foldl_cons, ih]

theorem ux_locFor_dest {s : State} {blk : Nat} {f : Flight} {o : Opnd} (hd : f.d = some o) (ho : isChan o.name = false) :
    (ux s blk f).locFor false = (⟨blk, o.tsr, o.inst, none⟩, o.name) := by
  simp only [Ux.locFor, Bool.false_eq_true, if_false, Ux.ld, ux_f, hd, ux_s, ux_blk, Option.getD_some, Option.map_some, locTo_tile ho]

theorem boundElt_unbound {t : Tsr} (h : t.bpol = 0) (ty name : Nat) (w : UWr) : boundElt t ty name w = .ok (w, false) := by
  simp only [boundElt, h, decide_true, Bool.or_true, Bool.true_or, if_true]

/-- A unit that raises no trap of its own, with no enabled flag and no bound, commits its elements as they are. -/
theorem verdict_groupUnit {s : State} {blk : Nat} {f : Flight} {o : Opnd} (hd : f.d = some o) (ho : PlainDest o)
    (hfl : trapFlag (s.blk blk) ((groupOf o.tsr f.idx).foldl (fun m e => m ||| (elementResult (s.blk blk) f e).2) 0) = none) :
    (ux s blk f).verdict (groupUnit s (s.blk blk) f o.tsr) =
      (none, (groupOf o.tsr f.idx).map (fun e => (writtenAt (s.blk blk) f e, false))) := by
  obtain ⟨tile, unbound, -, -⟩ := ho
  have quiet : fpEv (s.blk blk).ten (groupUnit s (s.blk blk) f o.tsr) = [] := by
    rw [fpEv, firstFlag_ten_eq_trapFlag]
    simp only [groupUnit, foldl_flagsAt, hfl]
  have bounded : (ux s blk f).bounded (groupUnit s (s.blk blk) f o.tsr) =
      ([], (groupOf o.tsr f.idx).map (fun e => (writtenAt (s.blk blk) f e, false))) := by
    simp only [Ux.bounded, groupUnit, Bool.false_eq_true, if_false, List.filterMap_map, List.map_map, Function.comp_def, writtenAt,
      ux_locFor_dest hd tile, boundElt_unbound unbound]
    exact Prod.ext (List.filterMap_eq_nil_iff.mpr fun _ _ => rfl) (congrFun List.filterMap_eq_map _)
  rw [Ux.verdict, bounded, ux_b, quiet]
  rfl

/-! ## What storing an element leaves alone (R71, R163) -/

/-- A block but for what its stores hold: their bytes, poison and verdict tags. -/
def outsideStores (b : Block) : Block :=
  { b with shared := [], acc := [], lane := [], tags := [], poisonSh := [], poisonAcc := [], poisonLane := [] }

theorem foldl_outsideStores {α : Type} {g : Block → α → Block} (h : ∀ b x, outsideStores (g b x) = outsideStores b) (l : List α)
    (b : Block) : outsideStores (l.foldl g b) = outsideStores b := by
  induction l generalizing b with
  | nil => rfl
  | cons x l ih => exact (ih (g b x)).trans (h b x)

theorem writeShared_outsideStores (b : Block) (off : Nat) (bs : List Byte) : outsideStores (b.writeShared off bs) = outsideStores b := rfl
theorem setTag_outsideStores (b : Block) (key : Nat) (on : Bool) : outsideStores (b.setTag key on) = outsideStores b := rfl

theorem storeWrite_outsideStores (b : Block) (space key : Nat) (bs : List Byte) :
    outsideStores (b.storeWrite space key bs) = outsideStores b := by
  unfold Block.storeWrite
  split
  · rfl
  · split <;> rfl

theorem putElt_outsideStores (b : Block) (t : Tsr) (inst r c v : Nat) : outsideStores (b.putElt t inst r c v) = outsideStores b := by
  unfold Block.putElt
  split
  case isTrue => exact foldl_outsideStores (fun b _ => writeShared_outsideStores b _ _) _ b
  case isFalse =>
    dsimp only
    split
    case isTrue =>
      split
      case isTrue => rw [setTag_outsideStores, setTag_outsideStores, storeWrite_outsideStores]
      case isFalse => rw [setTag_outsideStores, storeWrite_outsideStores]
    case isFalse => rw [storeWrite_outsideStores]

/-! ## The write-back of a unit (R163 to R166, R239) -/

@[simp] theorem modBlk_setBlk (s : State) (blk : Nat) (b : Block) (g : Block → Block) :
    (s.setBlk blk b).modBlk blk g = s.setBlk blk (g b) := by
  simp only [State.modBlk, State.blk_setBlk, State.setBlk_setBlk]

/-- Updates of one block one after another are one update of it. -/
theorem foldl_modBlk_setBlk {α : Type} (s : State) (blk : Nat) (g : Block → α → Block) (l : List α) (b : Block) :
    l.foldl (fun s x => s.modBlk blk (fun b => g b x)) (s.setBlk blk b) = s.setBlk blk (l.foldl g b) := by
  induction l generalizing b with
  | nil => rfl
  | cons x l ih => rw [List.foldl_cons, modBlk_setBlk, ih, List.foldl_cons]

theorem foldl_modBlk {α : Type} (s : State) (blk : Nat) (g : Block → α → Block) {l : List α} (hl : l ≠ []) :
    l.foldl (fun s x => s.modBlk blk (fun b => g b x)) s = s.setBlk blk (l.foldl g (s.blk blk)) := by
  obtain ⟨x, l, rfl⟩ := List.exists_cons_of_ne_nil hl
  exact foldl_modBlk_setBlk s blk g l _

theorem storeElt_plain {s : State} {blk : Nat} {o : Opnd} (ho : PlainDest o) (ty name : Nat) (effects : Bool) (w : UWr) :
    s.storeElt blk ⟨blk, o.tsr, o.inst, none⟩ ty name effects w false = s.modBlk blk (fun b => b.putElt o.tsr o.inst w.r w.c w.v) := by
  obtain ⟨-, -, unmonitored, unscaled⟩ := ho
  simp only [State.storeElt, Loc.holds, Tsr.monitored, unmonitored, unscaled, Bool.false_and, Bool.false_eq_true, if_true, if_false, ite_self]

/-! ## The pending entry of a unit's write to the shared store (R239, R250) -/

theorem codeBytes_pos {c : Nat} (h : typeCode c = true) (hp : isPlane c = false) : 0 < codeBytes c := by
  have dense : ∀ c < 0x22, typeCode c = true → isPlane c = false → 0 < codeBytes c := by decide
  refine dense c ?_ h hp
  simp only [typeCode, Bool.or_eq_true, Bool.and_eq_true, decide_eq_true_eq, beq_iff_eq] at h
  omega

/-- Every element of a tile whose rows are defined has a byte of its own. -/
theorem exists_span {t : Tsr} (h : t.rowDefined = true) (inst r c : Nat) : ∃ x ∈ t.spans inst r c, 0 < x.2 := by
  simp only [Tsr.rowDefined, Bool.and_eq_true] at h
  obtain ⟨-, h⟩ := h
  unfold Tsr.spans
  split
  next planes =>
    rw [planes, if_pos rfl] at h
    simp only [Bool.and_eq_true, decide_eq_true_eq] at h
    refine ⟨(t.planeAddr inst r 0 + c / 8, 1), List.mem_append_left _ (List.mem_map.mpr ⟨0, List.mem_range.mpr ?_, rfl⟩), Nat.one_pos⟩
    omega
  next dense =>
    rw [if_neg dense, Bool.and_eq_true, Bool.not_eq_true'] at h
    exact ⟨_, List.mem_singleton_self _, codeBytes_pos h.1 h.2⟩

theorem shBytes_eq_nil_iff {t : Tsr} (h : t.rowDefined = true) (inst : Nat) {cells : List (Nat × Nat)} (hc : cells ≠ []) :
    shBytes t inst cells = [] ↔ t.space ≠ 0 := by
  unfold shBytes
  split
  next other => exact iff_of_true rfl (bne_iff_ne.mp other)
  next shared =>
    refine iff_of_false (fun none_ => ?_) (fun other => shared (bne_iff_ne.mpr other))
    obtain ⟨e, he⟩ := List.exists_mem_of_ne_nil _ hc
    obtain ⟨x, hx, pos⟩ := exists_span h inst e.1 e.2
    have byte : x.1 + 0 ∈ rangeFrom x.1 x.2 := List.mem_map.mpr ⟨0, List.mem_range.mpr pos, rfl⟩
    have covered : x.1 + 0 ∈ (cells.flatMap (fun e => (t.spans inst e.1 e.2).flatMap (fun x => rangeFrom x.1 x.2))).eraseDups :=
      List.mem_eraseDups.mpr (List.mem_flatMap.mpr ⟨e, he, List.mem_flatMap.mpr ⟨x, hx, byte⟩⟩)
    rw [none_] at covered
    cases covered

/-- The entry of bytes that a unit has replaced (R239). -/
def notedWrite (id : Nat) (old : Mem) (pc : VAddr) (seq : Nat) (addrs : List Nat) : Pend :=
  { id, agent := .t, kind := .shw (addrs.map (fun a => (a, old.get a))), addr := addrs.foldl min (addrs.getD 0 0), done := 2, pc, seq }

theorem notePend_setBlk (s : State) (blk : Nat) (b : Block) (seq : Nat) {addrs : List Nat} (h : addrs ≠ []) :
    s.notePend (s.setBlk blk b) blk seq addrs =
      { s with nextId := s.nextId + 1 }.setBlk blk { b with pend := b.pend ++ [notedWrite s.nextId (s.blk blk).shared b.pc seq addrs] } := by
  rw [State.notePend, if_neg h]
  exact modBlk_setBlk { s with nextId := s.nextId + 1 } blk b
    (fun b => { b with pend := b.pend ++ [notedWrite s.nextId (s.blk blk).shared b.pc seq addrs] })

/-- Noting a unit's write leaves what `Replaced` describes. -/
theorem exists_replaced_notePend {s : State} {blk : Nat} {b : Block} {f : Flight} {space : Nat} {addrs : List Nat}
    (hpc : b.pc = (s.blk blk).pc) (ha : addrs = [] ↔ space ≠ 0) :
    ∃ n ps, Replaced s (s.blk blk) f space n ps ∧
      s.notePend (s.setBlk blk b) blk f.id addrs = { s with nextId := n }.setBlk blk { b with pend := b.pend ++ ps } := by
  by_cases shared : space = 0
  case neg =>
    refine ⟨s.nextId, [], ⟨fun _ => ⟨rfl, rfl⟩, fun h => absurd h shared⟩, ?_⟩
    rw [ha.mpr shared, List.append_nil]
    rfl
  case pos =>
    refine ⟨s.nextId + 1, [notedWrite s.nextId (s.blk blk).shared b.pc f.id addrs],
      ⟨fun h => absurd shared h, fun _ => ⟨rfl, _, _, by rw [hpc]; rfl, fun x hx => ?_⟩⟩,
      notePend_setBlk s blk b f.id fun h => ha.mp h shared⟩
    obtain ⟨a, -, rfl⟩ := List.mem_map.mp hx
    rfl

theorem Replaced.isShared {s : State} {b : Block} {f : Flight} {space n : Nat} {ps : List Pend} (h : Replaced s b f space n ps) :
    ∀ p ∈ ps, p.isShared = true := by
  obtain ⟨other, shared⟩ := h
  by_cases hs : space = 0
  · obtain ⟨-, old, lo, rfl, -⟩ := shared hs
    intro p hp
    rw [List.mem_singleton.mp hp]
    rfl
  · obtain ⟨-, rfl⟩ := other hs
    exact fun p hp => nomatch hp

theorem isGet_of_isShared {p : Pend} (h : p.isShared = true) : p.isGet = false := by
  rw [Pend.isShared] at h
  unfold Pend.isGet
  split
  next get => rw [get] at h; cases h
  next => rfl

theorem owed_of_isShared {p : Pend} (h : p.isShared = true) : p.owed = false := by
  rw [Pend.owed, h, Bool.not_true, Bool.and_false, Bool.false_and]

/-! ## The effects of a unit of an element-wise instruction -/

theorem mergeFlags_eq (b : Block) (fl : Nat) : b.mergeFlags fl = { b with fflags := b.fflags ||| BitVec.ofNat 64 fl } := by
  rw [Block.mergeFlags, BitVec.ofNat_or, BitVec.ofNat_toNat, BitVec.setWidth_eq]

/-- The block with a group's elements stored in D. -/
def putGroup (b : Block) (f : Flight) (o : Opnd) : Block :=
  (groupOf o.tsr f.idx).foldl (fun (b' : Block) (e : Nat × Nat) => b'.putElt o.tsr o.inst e.1 e.2 (elementResult b f e).1) b

/-- The flags that a group raises. -/
def groupFlags (b : Block) (f : Flight) (o : Opnd) : Nat := (groupOf o.tsr f.idx).foldl (fun m e => m ||| (elementResult b f e).2) 0

theorem putGroup_outsideStores (b : Block) (f : Flight) (o : Opnd) : outsideStores (putGroup b f o) = outsideStores b :=
  foldl_outsideStores (fun b' _ => putElt_outsideStores b' _ _ _ _ _) _ b

theorem fields_of_outsideStores {b b' : Block} (h : outsideStores b' = outsideStores b) :
    b'.pc = b.pc ∧ b'.pend = b.pend ∧ b'.fflags = b.fflags ∧ b'.flights = b.flights := by
  have pc := congrArg Block.pc h
  have pend := congrArg Block.pend h
  have fflags := congrArg Block.fflags h
  have flights := congrArg Block.flights h
  exact ⟨pc, pend, fflags, flights⟩

/-- Storing a unit: its elements, its flags, and the entry of what it replaced. -/
theorem store_groupUnit {s : State} {blk : Nat} {f : Flight} {o : Opnd} (hi : ElementUnits f.instr) (hd : f.d = some o) (ho : PlainDest o)
    (hr : o.tsr.rowDefined = true) (hg : groupOf o.tsr f.idx ≠ []) :
    ∃ n ps, Replaced s (s.blk blk) f o.tsr.space n ps ∧
      (ux s blk f).store (groupUnit s (s.blk blk) f o.tsr) ((groupOf o.tsr f.idx).map (fun e => (writtenAt (s.blk blk) f e, false))) =
        { s with nextId := n }.setBlk blk { putGroup (s.blk blk) f o with
          pend := (s.blk blk).pend ++ ps, fflags := (s.blk blk).fflags ||| BitVec.ofNat 64 (groupFlags (s.blk blk) f o) } := by
  obtain ⟨pc, pend, fflags, -⟩ := fields_of_outsideStores (putGroup_outsideStores (s.blk blk) f o)
  obtain ⟨n, ps, replaced, noted⟩ := exists_replaced_notePend (s := s) (f := f) pc (shBytes_eq_nil_iff hr o.inst hg)
  refine ⟨n, ps, replaced, ?_⟩
  have dest : (ux s blk f).locFor false = (⟨blk, o.tsr, o.inst, none⟩, o.name) := ux_locFor_dest hd ho.1
  have ld : (ux s blk f).ld = ⟨blk, o.tsr, o.inst, none⟩ := congrArg Prod.fst dest
  have put := foldl_modBlk s blk (fun (b' : Block) (e : Nat × Nat) => b'.putElt o.tsr o.inst e.1 e.2 (elementResult (s.blk blk) f e).1) hg
  have merged : (s.notePend (s.setBlk blk (putGroup (s.blk blk) f o)) blk f.id (shBytes o.tsr o.inst (groupOf o.tsr f.idx))).modBlk blk
      (fun b => b.mergeFlags (groupFlags (s.blk blk) f o)) = { s with nextId := n }.setBlk blk { putGroup (s.blk blk) f o with
        pend := (s.blk blk).pend ++ ps, fflags := (s.blk blk).fflags ||| BitVec.ofNat 64 (groupFlags (s.blk blk) f o) } := by
    simp only [noted, modBlk_setBlk, mergeFlags_eq, pend, fflags]
  simp only [Ux.store, groupUnit, ux_f, ux_blk, ux_dt, List.foldl_nil, ite_self, List.map_nil, List.append_nil, List.nil_append, List.map_map,
    List.filter_map, filter_always, List.map_id', Function.comp_def, List.foldl_map, writtenAt, Bool.not_false, dest, ld, storeElt_plain ho,
    put, if_true, hi.writesB, Bool.false_and, Bool.false_eq_true, if_false, foldl_flagsAt, id]
  split <;> exact merged

/-! ## A flight that is the oldest (R22, R25, R40) -/

section
variable {f : Flight} {done rest : List Flight}

theorem takeWhile_older (h : ∀ g ∈ done ++ rest, g.id ≠ f.id) :
    (done ++ f :: rest).takeWhile (fun g => g.id != f.id) = done := by
  rw [List.takeWhile_append_of_pos fun g hg => bne_iff_ne.mpr (h g (List.mem_append_left _ hg)), List.takeWhile_cons_of_neg (by simp),
    List.append_nil]

theorem find?_unfinished (hf : f.fin = false) (hd : ∀ g ∈ done, g.fin = true) : (done ++ f :: rest).find? (fun g => !g.fin) = some f := by
  rw [List.find?_append, List.find?_eq_none.mpr fun g hg => by simp [hd g hg], List.find?_cons_of_pos (by simp [hf]), Option.none_or]

theorem find?_id (f' : Flight) (h : ∀ g ∈ done ++ rest, g.id ≠ f.id) (hf : f'.id = f.id) :
    (done ++ f' :: rest).find? (fun g => g.id == f.id) = some f' := by
  rw [List.find?_append, List.find?_eq_none.mpr fun g hg => by simp [h g (List.mem_append_left _ hg)], List.find?_cons_of_pos (by simp [hf]),
    Option.none_or]

theorem map_at_id (u : Flight → Flight) (h : ∀ g ∈ done ++ rest, g.id ≠ f.id) :
    (done ++ f :: rest).map (fun g => if g.id = f.id then u g else g) = done ++ u f :: rest := by
  have others (l : List Flight) (hl : ∀ g ∈ l, g.id ≠ f.id) : l.map (fun g => if g.id = f.id then u g else g) = l := by
    rw [List.map_congr_left fun g hg => if_neg (hl g hg), List.map_id']
  rw [List.map_append, List.map_cons, if_pos rfl, others done fun g hg => h g (List.mem_append_left _ hg),
    others rest fun g hg => h g (List.mem_append_right _ hg)]

theorem dropWhile_finished (f' : Flight) (hf : f'.fin = true) (hd : ∀ g ∈ done, g.fin = true) :
    (done ++ f' :: rest).dropWhile (fun g => g.fin) = rest.dropWhile (fun g => g.fin) := by
  rw [List.dropWhile_append_of_pos hd, List.dropWhile_cons_of_pos hf]

end

/-- A flight after a unit that wrote elements. -/
def movedOn (now : Nat) (f : Flight) (cells : List (Nat × Nat)) (next : Option Idx) : Flight :=
  { f.count (now - f.issued) cells with idx := next.getD f.idx, units := f.units + 1, lane := none, unit := none }

theorem movedOn_some {f : Flight} (hlane : f.lane = none) (hunit : f.unit = none) (now : Nat) (cells : List (Nat × Nat)) (i : Idx) :
    movedOn now f cells (some i) = { f.count (now - f.issued) cells with idx := i, units := f.units + 1 } := by
  obtain ⟨⟩ := f
  cases hlane
  cases hunit
  rfl

/-- The completion of the oldest flight that has no channel port, fault mask or sample: it leaves, and the completed ones behind it. -/
theorem complete_oldest {s : State} {blk : Nat} {b : Block} {f : Flight} {done rest : List Flight} (hb : b.flights = done ++ f :: rest)
    (hd : ∀ g ∈ done, g.fin = true) (hid : ∀ g ∈ done ++ rest, g.id ≠ f.id) (ports : f.portsIn = [] ∧ f.portsOut = [])
    (hfm : f.fm = none) (hsample : f.sample = false) :
    (s.setBlk blk b).complete blk f = s.setBlk blk { b with flights := rest.dropWhile (fun g => g.fin) } := by
  have noMask : ¬f.fm.isSome = true := by rw [hfm]; exact Bool.false_ne_true
  have noSample : ¬f.sample = true := by rw [hsample]; exact Bool.false_ne_true
  simp only [State.complete, ports.1, ports.2, List.foldl_nil, modBlk_setBlk, if_neg noMask, if_neg noSample, hb, map_at_id _ hid,
    dropWhile_finished (hd := hd)]

/-- A unit of the oldest flight: the timer restarts, and the flight moves on or leaves the table. -/
theorem progress_oldest {s t : State} {blk : Nat} {b : Block} {f : Flight} {done rest : List Flight} (h : Oldest1 s blk f done rest)
    (hb : b.flights = (s.blk blk).flights) (ports : f.portsIn = [] ∧ f.portsOut = []) (cells : List (Nat × Nat)) (next : Option Idx) :
    (t.setBlk blk b).progress blk f cells next =
      t.setBlk blk { b with flights := afterUnit t.clock done f rest cells next, eptNs := 0 } := by
  obtain ⟨-, -, flights, ⟨hf, hd, hid⟩, ⟨hlane, hunit, hfm, -, hsample⟩, -⟩ := h
  rw [flights] at hb
  have find := find?_unfinished (rest := rest) hf hd
  cases next with
  | some i =>
    simp only [State.progress, modBlk_setBlk, State.setBlk_clock, hb, find, Option.map_some, beq_self_eq_true, if_true, map_at_id _ hid]
    exact congrArg (fun g => t.setBlk blk { b with flights := done ++ g :: rest, eptNs := 0 }) (movedOn_some hlane hunit t.clock cells i)
  | none =>
    have found := find?_id (movedOn t.clock f cells none) hid rfl
    simp only [State.progress, modBlk_setBlk, State.setBlk_clock, State.blk_setBlk, hb, find, Option.map_some, beq_self_eq_true, if_true,
      map_at_id _ hid, Block.restartEpt]
    unfold movedOn at found
    rw [found]
    exact complete_oldest (f := movedOn t.clock f cells none) rfl hd hid ports hfm hsample

/-! ## The step of the oldest flight -/

/-- With no operand a channel port, a flight reads and writes none (R31). -/
theorem ports_eq_nil {f : Flight} (hi : ElementUnits f.instr) (hd : ∀ x ∈ f.d.toList, isChan x.name = false)
    (hs : ∀ x ∈ f.a.toList ++ f.b.toList ++ f.c.toList, isChan x.name = false) : f.portsIn = [] ∧ f.portsOut = [] := by
  simp only [List.forall_mem_append] at hs
  obtain ⟨⟨ha, hb⟩, hc⟩ := hs
  have noQueue {o : Option Opnd} (ho : ∀ x ∈ o.toList, isChan x.name = false) :
      o.bind (fun x => if isChan x.name then some (x.name - 48) else none) = none :=
    Option.bind_eq_none_iff.mpr fun x hx => if_neg (Bool.not_eq_true _ ▸ ho x (Option.mem_toList.mpr hx))
  have noPort {o : Option Opnd} (ho : ∀ x ∈ o.toList, isChan x.name = false) : o.filter (fun x => isChan x.name) = none :=
    Option.filter_eq_none_iff.mpr fun x hx => Bool.not_eq_true _ ▸ ho x (Option.mem_toList.mpr hx)
  simp only [Flight.portsIn, Flight.portsOut, hi.readsD, hi.writesB, Bool.false_eq_true, if_false, List.cons_append, List.nil_append,
    List.append_nil, List.filterMap_cons, List.filterMap_nil, noQueue ha, noQueue hb, noQueue hc, noPort hd, List.eraseDups_nil, and_self]

theorem cells_groupUnit (s : State) (b : Block) (f : Flight) (t : Tsr) : (groupUnit s b f t).cells = groupOf t f.idx := by
  simp only [UnitOut.cells, groupUnit, Option.getD_none, List.append_nil, List.filter_map, List.map_map, Function.comp_def, writtenAt,
    Bool.not_false, filter_always, List.map_id']

/-- A unit of an element-wise instruction with no trap: its elements, its flags, and the flight after it. -/
theorem commitUnit_groupUnit {s : State} {blk : Nat} {f : Flight} {o : Opnd} {done rest : List Flight} (h : Oldest1 s blk f done rest)
    (hi : ElementUnits f.instr) (hd : f.d = some o) (ho : PlainDest o) (hr : o.tsr.rowDefined = true) (hg : groupOf o.tsr f.idx ≠ [])
    (ports : f.portsIn = [] ∧ f.portsOut = []) (hfl : trapFlag (s.blk blk) (groupFlags (s.blk blk) f o) = none) :
    ∃ n ps, Replaced s (s.blk blk) f o.tsr.space n ps ∧ (ux s blk f).commitUnit (groupUnit s (s.blk blk) f o.tsr) =
      { s with nextId := n }.setBlk blk { putGroup (s.blk blk) f o with
        fflags := (s.blk blk).fflags ||| BitVec.ofNat 64 (groupFlags (s.blk blk) f o), pend := (s.blk blk).pend ++ ps, eptNs := 0
        flights := afterUnit s.clock done f rest (groupOf o.tsr f.idx) (groupAfter o.tsr f.idx) } := by
  obtain ⟨n, ps, replaced, stored⟩ := store_groupUnit hi hd ho hr hg
  refine ⟨n, ps, replaced, ?_⟩
  obtain ⟨-, -, -, sameFlights⟩ := fields_of_outsideStores (putGroup_outsideStores (s.blk blk) f o)
  have own : ∀ p ∈ (s.blk blk).pend ++ ps, (p.seq == f.id) = false ∨ p.isShared = true := fun p hp =>
    (List.mem_append.mp hp).imp (fun hp => beq_eq_false_iff_ne.mpr (h.pend p hp)) (replaced.isShared p)
  have kept : ((s.blk blk).pend ++ ps).filter (fun p => !(p.isGet && p.agent == .t && p.seq == f.id)) = (s.blk blk).pend ++ ps := by
    refine List.filter_eq_self.mpr fun p hp => ?_
    rcases own p hp with other | shared
    · rw [other, Bool.and_false, Bool.not_false]
    · rw [isGet_of_isShared shared, Bool.false_and, Bool.false_and, Bool.not_false]
  have settled : ((s.blk blk).pend ++ ps).any (fun p => p.seq == f.id && p.owed) = false := by
    refine List.any_eq_false.mpr fun p hp => ?_
    rcases own p hp with other | shared
    · rw [other, Bool.false_and]
      exact Bool.false_ne_true
    · rw [owed_of_isShared shared, Bool.and_false]
      exact Bool.false_ne_true
  have asks : ¬((groupUnit s (s.blk blk) f o.tsr).asks != []) = true := Bool.false_ne_true
  rw [Ux.commitUnit, if_neg asks, verdict_groupUnit hd ho hfl]
  simp only [ux_blk, ux_f, stored, modBlk_setBlk, State.blk_setBlk, kept, settled, Bool.false_eq_true, if_false, cells_groupUnit]
  refine progress_oldest (t := { s with nextId := n }) h ?_ ports _ _
  exact sameFlights

theorem unitFree_oldest {s : State} {blk : Nat} {f : Flight} {done rest : List Flight} (h : Oldest1 s blk f done rest) :
    s.unitFree blk f = true := by
  obtain ⟨-, -, flights, ⟨-, finished, ids⟩, -, -⟩ := h
  have older : done.filter (fun g => !g.fin) = [] := List.filter_eq_nil_iff.mpr fun g hg => by simp [finished g hg]
  simp only [State.unitFree, flights, takeWhile_older ids, older, List.all_nil]

/-- The oldest flight, of an element-wise instruction, takes the step that its unit is. -/
theorem commit_oldest {s : State} {blk : Nat} {f : Flight} {done rest : List Flight} (h : Oldest1 s blk f done rest)
    (hi : ElementUnits f.instr) (hout : f.portsOut = []) {o : UnitOut} (ho : eltUnit (ux s blk f) = o) (hbad : o.bad = []) :
    s.commit blk f = some ((ux s blk f).commitUnit o) := by
  have free := unitFree_oldest h
  obtain ⟨-, -, -, -, ⟨lane, unit, -, -, -⟩, -⟩ := h
  have fences : s.passFences blk f = some s := by
    simp only [State.passFences, hi.isGlobal f rfl, Bool.not_false, Bool.true_or, if_true]
  have here : s.peerAway blk f = false := by rw [State.peerAway, hout, List.any_nil]
  have peers : s.peerGone blk f = none := by rw [State.peerGone, hout]; rfl
  have good : ¬(o.bad != []) = true := by rw [hbad]; exact Bool.false_ne_true
  simp only [State.commit, unit, hi.coll, fences, free, here, peers, Bool.not_true, Bool.or_false, Bool.false_eq_true, if_false,
    hi.unitOf (ux s blk f) rfl, ho]
  have elementWise := hi.elementWise
  split
  next gone => cases gone
  next tmap _ => rw [tmap] at elementWise; cases elementWise
  next tmapr _ => rw [tmapr] at elementWise; cases elementWise
  next => exact if_neg good

/-- UNIT_COMMIT of the oldest flight, when the step it takes is known. -/
theorem exec_unitCommit_oldest {s t : State} {blk : Nat} {f : Flight} {done rest : List Flight} (h : Oldest1 s blk f done rest)
    (ht : ({ s with cur := blk } : State).commit blk f = some t) : exec (.unitCommit blk done.length) s = .next t := by
  obtain ⟨awake, ⟨ready, restored, noTrap, open_⟩, flights, ⟨unfinished, -, -⟩, -, -⟩ := h
  have at_ : (s.blk blk).flights[done.length]? = some f := by
    rw [flights, List.getElem?_append_right (Nat.le_refl _), Nat.sub_self, List.getElem?_cons_zero]
  have working : (s.blk blk).working = true := by rw [Block.working, ready]
  have begun : s.begun blk = s := by rw [State.begun, restored]; rfl
  have step : s.unitStep blk f = some t := by
    simp only [State.unitStep, working, open_, unfinished, noTrap, begun, restored, ht, Option.all_none, Bool.not_false, Bool.and_true, if_true,
      Bool.false_eq_true, if_false]
  have commit : s.unitCommit blk done.length = some t := by rw [State.unitCommit, at_, Option.bind_some, step]
  have exec_unitCommit : exec (.unitCommit blk done.length) s = evOut s (s.unitCommit blk done.length) := rfl
  rw [exec_unitCommit, commit, evOut, awake]
  rfl

/-- The oldest flight is so whichever block executes. -/
theorem oldest1_cur {s : State} {blk : Nat} {f : Flight} {done rest : List Flight} (h : Oldest1 s blk f done rest) (c : Nat) :
    Oldest1 { s with cur := c } blk f done rest := by
  obtain ⟨awake, st, flights, older, plain, pend⟩ := h
  exact ⟨awake, st, flights, older, plain, pend⟩

/-! ## Shifts (R190) -/

theorem shiftLeft_toNat {w : Nat} (a n : Nat) : a * 2 ^ n % 2 ^ w = (BitVec.ofNat w a <<< n).toNat := by
  rw [BitVec.toNat_shiftLeft, BitVec.toNat_ofNat, Nat.shiftLeft_eq, Nat.mod_mul_mod]

theorem ushiftRight_toNat {w a : Nat} (h : a < 2 ^ w) (n : Nat) : a / 2 ^ n = (BitVec.ofNat w a >>> n).toNat := by
  rw [BitVec.toNat_ushiftRight, BitVec.toNat_ofNat, Nat.mod_eq_of_lt h, Nat.shiftRight_eq_div_pow]

theorem sshiftRight_toNat {w : Nat} (a n : Nat) : wrapBits w (sx w a / (2 ^ n : Nat)) = ((BitVec.ofNat w a).sshiftRight n).toNat := by
  rcases Nat.eq_zero_or_pos w with rfl | pos
  · rw [wrapBits, Nat.pow_zero, BitVec.of_length_zero (x := BitVec.sshiftRight _ _)]
    exact congrArg Int.toNat (Int.emod_one _)
  · rw [sx_eq_toInt a pos, BitVec.sshiftRight_eq, BitVec.toNat_ofInt, Int.shiftRight_eq_div_pow, wrapBits]

/-- The results of TSHL, TSHR and TSRA, by the count modulo the width of A's type. -/
theorem elementResult_shift {b : Block} {f : Flight} {e : Nat × Nat} {fm : Form} {d a c : R6} :
    let w := (retype (tyMod fm) (Opnd.tsrOf f.a)).ty.width
    let x := operandAt b f.a e
    let n := operandAt b f.b e % w
    (f.instr = .tshl fm d a c → elementResult b f e = (x * 2 ^ n % 2 ^ w, 0)) ∧
    (f.instr = .tshr fm d a c → elementResult b f e = (x / 2 ^ n, 0)) ∧
    (f.instr = .tsra fm d a c → elementResult b f e = (wrapBits w (sx w x / (2 ^ n : Nat)), 0)) := by
  refine ⟨fun hi => ?_, fun hi => ?_, fun hi => ?_⟩
  all_goals
    rw [elementResult, hi]
    rfl

/-- Settles O35: the unit is `groupUnit`, which raises no trap; its commit stores the group and moves the flight on. -/
theorem unitCommitWritesGroup : Obligations.UnitCommitWritesGroup := by
  refine ⟨?group, ?shift⟩
  case group =>
    intro s blk f o done rest h ew hd ho hr ha hcol b g fl clean hfl
    have hi := elementUnits_of_isElementWise ew
    have here := oldest1_cur h blk
    have hg : g ≠ [] := groupOf_ne_nil hcol
    obtain ⟨-, -, -, unmasked, -⟩ := h.plain
    have unit : eltUnit (ux { s with cur := blk } blk f) = groupUnit { s with cur := blk } b f o.tsr :=
      eltUnit_clean hi hd unmasked (Option.isSome_iff_ne_none.mpr ha) hg clean
    have sources : ∀ x ∈ f.a.toList ++ f.b.toList ++ f.c.toList, isChan x.name = false := by
      obtain ⟨e, he⟩ := List.exists_mem_of_ne_nil _ hg
      exact fun x hx => (clean e he x hx).tile
    have ports := ports_eq_nil hi (by rw [hd]; exact List.forall_mem_singleton.mpr ho.1) sources
    obtain ⟨n, ps, replaced, committed⟩ := commitUnit_groupUnit here hi hd ho hr hg ports hfl
    exact ⟨n, ps, replaced, exec_unitCommit_oldest h ((commit_oldest here hi ports.2 unit rfl).trans (congrArg some committed))⟩
  case shift =>
    intro b f e fm d a c w x n hx
    obtain ⟨left, right, arith⟩ := elementResult_shift (b := b) (f := f) (e := e) (fm := fm) (d := d) (a := a) (c := c)
    exact ⟨fun hi => (left hi).trans (congrArg (·, 0) (shiftLeft_toNat _ _)),
      fun hi => (right hi).trans (congrArg (·, 0) (ushiftRight_toNat hx _)),
      fun hi => (arith hi).trans (congrArg (·, 0) (sshiftRight_toNat _ _))⟩

end Sys2Proof.Claims
